-- ==== Sys2Proof/Word.lean ====
section
/-!
DEFINITION. The word types of the ES432: bytes of link frames and of surface memory, and 16-bit pixels.
-/

namespace Sys2Proof

/-- A byte of a link frame, of a contact report, of a stamp or of surface memory (R178, R182). -/
abbrev Byte := BitVec 8

/-- A pixel: a 16-bit colour, red in bits 15 to 11, green in bits 10 to 5, blue in bits 4 to 0 (R179). -/
abbrev Pixel := BitVec 16

/-- A 16-bit field of a message: a job tag or an event sequence number (R141, R179). -/
abbrev Half := BitVec 16

end Sys2Proof
end

