-- ==== Sys2Proof/Config.lean ====
section
/-!
DEFINITION. The figures of the part (spec/00_scope.md, "Fixed figures"), what the model fixes for lack of a rule,
and the free values.
-/

namespace Sys2Proof.Config

/-- Surface memory is 4096 pages (file 02). -/
abbrev pageCount : Nat := 4096

/-- A page holds 1024 pixels (file 02). -/
abbrev pagePixels : Nat := 1024

/-- A page is 2048 bytes (file 02). -/
abbrev pageBytes : Nat := 2048

/-- Under EVEN no link holds more than 1024 pages (R32). -/
abbrev evenPageLimit : Nat := 1024

/-- Under EVEN no link owns more than 48 stamps (R117). -/
abbrev evenStampLimit : Nat := 48

/-- A job queue holds at most 16 entries (R74). -/
abbrev queueLimit : Nat := 16

/-- Staging is at most 16384 bytes a link (R74). -/
abbrev stagingLimit : Nat := 16384

/-- Records plus reserved slots of an event queue never exceed 64 (R142). -/
abbrev eventLimit : Nat := 64

/-- At most 8 records are sent and unacknowledged (R142, R146). -/
abbrev sentLimit : Nat := 8

/-- The lost count, and the counts of FRAME and LOST_EVENTS records, stop rising at 65535 (R69, R144, R145). -/
abbrev countCeiling : Nat := 65535

/-- The response backlog and the response cache hold at most 4 (R158, R159). -/
abbrev backlogLimit : Nat := 4

/-- The largest payload of a link frame (R154, R178). -/
abbrev payloadLimit : Nat := 4160

/-- The base colour, shown where no window contributes (file 00, R51). -/
abbrev baseColour : Pixel := 0x0000#16

/-- What a byte of surface memory that nothing has written reads as.
DESIGN CHOICE, unsafe (log 8): the part does not rely on what surface memory held before reset (R24), and every page is
scrubbed to zero before a window can hold it (R23). -/
abbrev unlistedByte : Byte := 0x00#8

/-- Free value of R53 (log 10): of the values that a buffer pixel held between a frame's start and its end, which one the
frame shows. Arguments: the model's frame counter, the screen column, the screen row, the place of the entry in the latched
stack. The answer is taken modulo the number of values held. -/
opaque shownVersion : Nat → Nat → Nat → Nat → Nat

/-- Free value (log 30): what a job reads at a position of its source rectangle that lies outside its source window, where the
buffer holds no pixel. Arguments: the model's frame counter, the column and the row in the window's coordinates. -/
opaque absentPixel : Nat → Nat → Nat → Pixel

end Sys2Proof.Config
end

