-- ==== Sys2Proof/Syntax.lean ====
section
/-!
DEFINITION. The commands of the block: one constructor per row of spec/opcode_table.json.
-/

namespace Sys2Proof

/-- The four host links (file 00, R179: A = 0 … D = 3). -/
inductive Link where
  | A | B | C | D
  deriving DecidableEq, Repr

/-- The levels of the arrangement pins, sampled while RESET_N is low (R24, R40, R48). -/
structure Pins where
  /-- PANEL[1:0], the screen profile (R48). -/
  panel : BitVec 2
  /-- POOL: low (false) selects EVEN, high selects OPEN (R24, file 12 section 12.8). -/
  pool : Bool
  /-- ALERT_A: high permits tier 3 to link A (R40). -/
  alertA : Bool
  /-- ALERT_B (R40). -/
  alertB : Bool
  /-- ALERT_C (R40). -/
  alertC : Bool
  /-- ALERT_D (R40). -/
  alertD : Bool
  deriving DecidableEq, Repr

/-- What the block takes, whole and one at a time (file 95): commands of hosts, events of the part's own engines and timers,
contact reports and the reset pin.
A host command carries the link it arrived on, its 8-bit sequence number and, where the command has fields, its payload as
bytes (R178, R179): a payload may be too short, too long or hold undefined encodings. -/
inductive Instr where
  /-- RESET_N is driven low with these pin levels (R152). -/
  | pinReset (pins : Pins)
  /-- RESET_N goes high (R24). -/
  | resetRelease
  /-- The scrub of the oldest queued page completes (R26). -/
  | scrubCompletion
  /-- An inbound frame that fails its check (R154). -/
  | checkFailed (l : Link)
  /-- A sound frame whose code names no command (R157). -/
  | badCommand (l : Link) (seq : Byte) (code : Byte)
  /-- HELLO (R161). -/
  | hello (l : Link) (seq : Byte) (payload : List Byte)
  /-- GOODBYE (R162); its payload is ignored (R179). -/
  | goodbye (l : Link) (seq : Byte)
  /-- PING (R163); its payload is ignored (R179). -/
  | ping (l : Link) (seq : Byte)
  /-- SET_NOTIFY (R164). -/
  | setNotify (l : Link) (seq : Byte) (payload : List Byte)
  /-- STATUS (R165); its payload is ignored (R179). -/
  | status (l : Link) (seq : Byte)
  /-- ACK_EVENTS (R147). -/
  | ackEvents (l : Link) (seq : Byte) (payload : List Byte)
  /-- RESEND_EVENTS (R148); its payload is ignored (R179). -/
  | resendEvents (l : Link) (seq : Byte)
  /-- OPEN_WINDOW (R4, R5). -/
  | openWindow (l : Link) (seq : Byte) (payload : List Byte)
  /-- CLOSE_WINDOW (R7, R8). -/
  | closeWindow (l : Link) (seq : Byte) (payload : List Byte)
  /-- MOVE_WINDOW (R15). -/
  | moveWindow (l : Link) (seq : Byte) (payload : List Byte)
  /-- SET_LOOK (R16). -/
  | setLook (l : Link) (seq : Byte) (payload : List Byte)
  /-- SET_TOUCH (R17). -/
  | setTouch (l : Link) (seq : Byte) (payload : List Byte)
  /-- GRANT (R18). -/
  | grant (l : Link) (seq : Byte) (payload : List Byte)
  /-- WINDOW_INFO (R20). -/
  | windowInfo (l : Link) (seq : Byte) (payload : List Byte)
  /-- SHOW (R42 to R44). -/
  | showWindow (l : Link) (seq : Byte) (payload : List Byte)
  /-- HIDE (R45). -/
  | hide (l : Link) (seq : Byte) (payload : List Byte)
  /-- SUBMIT (R75 to R77). -/
  | submit (l : Link) (seq : Byte) (payload : List Byte)
  /-- The draw engine finishes a row of the job in flight (R95). -/
  | rowEnd
  /-- LOAD_STAMP (R118, R119). -/
  | loadStamp (l : Link) (seq : Byte) (payload : List Byte)
  /-- RELOAD_STAMP (R120). -/
  | reloadStamp (l : Link) (seq : Byte) (payload : List Byte)
  /-- FREE_STAMP (R121). -/
  | freeStamp (l : Link) (seq : Byte) (payload : List Byte)
  /-- A frame start (R58 to R69). -/
  | frameStart
  /-- A contact report, as the bytes between two marks of the sensor port's frame line (R126, R182). -/
  | contactReport (bytes : List Byte)
  /-- The lease of the link expires, its timer having reached the lease (R166). -/
  | leaseExpiry (l : Link)
  /-- The link's transmitter completes the frame it is sending (R160). -/
  | transmitCompletion (l : Link)
  deriving DecidableEq, Repr

end Sys2Proof
end

