-- ==== Sys2Proof/WellFormed.lean ====
section
/-!
DEFINITION. Which terms of `Instr` the part can be handed: a payload fits a frame, and BAD_COMMAND's code names no command.
The machine gives every term a meaning; these checks say which terms an inbound frame can become (log 19).
-/

namespace Sys2Proof

/-- The code byte names a command (file 12, section 12.2). -/
def namesCommand (code : Byte) : Bool :=
  decide ((0x01 ≤ code.toNat ∧ code.toNat ≤ 0x07) ∨ (0x10 ≤ code.toNat ∧ code.toNat ≤ 0x18)
    ∨ code.toNat = 0x20 ∨ (0x30 ≤ code.toNat ∧ code.toNat ≤ 0x32))

/-- A payload is 0 to 4160 bytes (R154, R178). -/
def payloadFits (payload : List Byte) : Bool :=
  decide (payload.length ≤ Config.payloadLimit)

/-- The terms that stand for something the part can take. -/
def Instr.wf : Instr → Bool
  | .pinReset _ => true
  | .resetRelease => true
  | .scrubCompletion => true
  | .checkFailed _ => true
  | .badCommand _ _ code => !namesCommand code
  | .hello _ _ p => payloadFits p
  | .goodbye _ _ => true
  | .ping _ _ => true
  | .setNotify _ _ p => payloadFits p
  | .status _ _ => true
  | .ackEvents _ _ p => payloadFits p
  | .resendEvents _ _ => true
  | .openWindow _ _ p => payloadFits p
  | .closeWindow _ _ p => payloadFits p
  | .moveWindow _ _ p => payloadFits p
  | .setLook _ _ p => payloadFits p
  | .setTouch _ _ p => payloadFits p
  | .grant _ _ p => payloadFits p
  | .windowInfo _ _ p => payloadFits p
  | .showWindow _ _ p => payloadFits p
  | .hide _ _ p => payloadFits p
  | .submit _ _ p => payloadFits p
  | .rowEnd => true
  | .loadStamp _ _ p => payloadFits p
  | .reloadStamp _ _ p => payloadFits p
  | .freeStamp _ _ p => payloadFits p
  | .frameStart => true
  | .contactReport _ => true
  | .leaseExpiry _ => true
  | .transmitCompletion _ => true

end Sys2Proof
end

