-- ==== Sys2Proof/Decode.lean ====
section
/-!
DEFINITION. From bytes to commands: the byte-order helpers, the CRC-16 check, the frame layout of R178, the command a raw
inbound frame stands for, the frame a command is carried in, and `decodeTableWord` (the opcode table gives no bits, log 22).
-/

namespace Sys2Proof

/-- Two bytes, most significant first (R179). -/
def be16 (hi lo : Byte) : BitVec 16 := hi ++ lo

/-- The most significant byte of a 16-bit field. -/
def hiByte (v : BitVec 16) : Byte := v.extractLsb' 8 8

/-- The least significant byte of a 16-bit field. -/
def loByte (v : BitVec 16) : Byte := v.extractLsb' 0 8

/-- The bytes of a 16-bit field, most significant first (R179). -/
def bytesOf16 (v : BitVec 16) : List Byte := [hiByte v, loByte v]

/-- The bytes of a 32-bit field, most significant first (R179). -/
def bytesOf32 (v : BitVec 32) : List Byte :=
  [v.extractLsb' 24 8, v.extractLsb' 16 8, v.extractLsb' 8 8, v.extractLsb' 0 8]

/-- One bit of the CRC-16 register, polynomial 0x1021, most significant bit first (R178). -/
def crcBit (c : BitVec 16) : BitVec 16 :=
  if c.msb then (c <<< 1) ^^^ 0x1021#16 else c <<< 1

/-- One byte of the CRC-16 register (R178). -/
def crcByte (c : BitVec 16) (b : Byte) : BitVec 16 :=
  Nat.repeat crcBit 8 (c ^^^ be16 b 0#8)

/-- The check over header and payload: initial value 0xFFFF, not reflected, no final value (R178). -/
def crc16 (bytes : List Byte) : BitVec 16 :=
  bytes.foldl crcByte 0xFFFF#16

/-- A 6-byte header followed by the payload (R178). -/
def frameBody (type code : Byte) (seq : BitVec 16) (payload : List Byte) : List Byte :=
  type :: code :: hiByte seq :: loByte seq ::
    hiByte (BitVec.ofNat 16 payload.length) :: loByte (BitVec.ofNat 16 payload.length) :: payload

/-- A whole link frame: header, payload, check (R178). -/
def frameBytes (type code : Byte) (seq : BitVec 16) (payload : List Byte) : List Byte :=
  frameBody type code seq payload ++ bytesOf16 (crc16 (frameBody type code seq payload))

/-- The payload length a frame's header declares (R178, bytes 4 and 5). -/
def declaredLength (bytes : List Byte) : Nat :=
  (be16 (bytes.getD 4 0#8) (bytes.getD 5 0#8)).toNat

/-- The check a frame carries: its last two bytes, high byte first (R178). -/
def carriedCheck (bytes : List Byte) : BitVec 16 :=
  be16 (bytes.getD (bytes.length - 2) 0#8) (bytes.getD (bytes.length - 1) 0#8)

/-- The frame fails its check (R154): too short, a wrong check, too long a declared payload, or a length that does not agree
with the declared one. -/
def failsCheck (bytes : List Byte) : Bool :=
  decide (bytes.length < 8)
    || decide (carriedCheck bytes ≠ crc16 (bytes.take (bytes.length - 2)))
    || decide (Config.payloadLimit < declaredLength bytes)
    || decide (bytes.length ≠ declaredLength bytes + 8)

/-- The command that a code byte names (file 12, section 12.2); any other code is BAD_COMMAND (R157). -/
def commandOf (l : Link) (code seq : Byte) (payload : List Byte) : Instr :=
  match code.toNat with
  | 0x01 => .hello l seq payload
  | 0x02 => .goodbye l seq
  | 0x03 => .ping l seq
  | 0x04 => .setNotify l seq payload
  | 0x05 => .status l seq
  | 0x06 => .ackEvents l seq payload
  | 0x07 => .resendEvents l seq
  | 0x10 => .openWindow l seq payload
  | 0x11 => .closeWindow l seq payload
  | 0x12 => .showWindow l seq payload
  | 0x13 => .hide l seq payload
  | 0x14 => .moveWindow l seq payload
  | 0x15 => .setLook l seq payload
  | 0x16 => .setTouch l seq payload
  | 0x17 => .grant l seq payload
  | 0x18 => .windowInfo l seq payload
  | 0x20 => .submit l seq payload
  | 0x30 => .loadStamp l seq payload
  | 0x31 => .reloadStamp l seq payload
  | 0x32 => .freeStamp l seq payload
  | _ => .badCommand l seq code

/-- The command that a raw inbound frame on a link stands for: any bytes at all are taken (R154, R180: byte 0 and byte 2 are
not tested). -/
def Instr.ofFrame (l : Link) (bytes : List Byte) : Instr :=
  if failsCheck bytes then .checkFailed l
  else commandOf l (bytes.getD 1 0#8) (bytes.getD 3 0#8) ((bytes.take (bytes.length - 2)).drop 6)

/-- Link, command code, sequence number and payload of a command that arrives in a sound frame; none for the other events.
A command without fields is sent with an empty payload (R179). -/
def Instr.framed : Instr → Option (Link × Byte × Byte × List Byte)
  | .badCommand l seq code => some (l, code, seq, [])
  | .hello l seq p => some (l, 0x01#8, seq, p)
  | .goodbye l seq => some (l, 0x02#8, seq, [])
  | .ping l seq => some (l, 0x03#8, seq, [])
  | .setNotify l seq p => some (l, 0x04#8, seq, p)
  | .status l seq => some (l, 0x05#8, seq, [])
  | .ackEvents l seq p => some (l, 0x06#8, seq, p)
  | .resendEvents l seq => some (l, 0x07#8, seq, [])
  | .openWindow l seq p => some (l, 0x10#8, seq, p)
  | .closeWindow l seq p => some (l, 0x11#8, seq, p)
  | .showWindow l seq p => some (l, 0x12#8, seq, p)
  | .hide l seq p => some (l, 0x13#8, seq, p)
  | .moveWindow l seq p => some (l, 0x14#8, seq, p)
  | .setLook l seq p => some (l, 0x15#8, seq, p)
  | .setTouch l seq p => some (l, 0x16#8, seq, p)
  | .grant l seq p => some (l, 0x17#8, seq, p)
  | .windowInfo l seq p => some (l, 0x18#8, seq, p)
  | .submit l seq p => some (l, 0x20#8, seq, p)
  | .loadStamp l seq p => some (l, 0x30#8, seq, p)
  | .reloadStamp l seq p => some (l, 0x31#8, seq, p)
  | .freeStamp l seq p => some (l, 0x32#8, seq, p)
  | .pinReset _ => none
  | .resetRelease => none
  | .scrubCompletion => none
  | .checkFailed _ => none
  | .rowEnd => none
  | .frameStart => none
  | .contactReport _ => none
  | .leaseExpiry _ => none
  | .transmitCompletion _ => none

/-- The frame that carries a host command: type 0x01, byte 2 reserved and zero (R178, R180). -/
def Instr.frame (i : Instr) : Option (Link × List Byte) :=
  i.framed.map fun (l, code, seq, payload) => (l, frameBytes 0x01#8 code (be16 0#8 seq) payload)

/-- The command that a word of spec/opcode_table.json spells. No row of the table gives bits, so no word spells one
(log 22). -/
def decodeTableWord (_nbits _w : Nat) : Option Instr := none

end Sys2Proof
end

