-- ==== Sys2Proof/Machine/State.lean ====
section
/-!
DEFINITION. The state of the ES432 as plain data, its parts named as the spec names them, and its value after reset.
-/

namespace Sys2Proof.Machine

open Sys2Proof

/-! ### One value per link -/

/-- One value for each of links A to D. -/
structure PerLink (α : Type) where
  A : α
  B : α
  C : α
  D : α
  deriving DecidableEq, Repr

/-- The value of a link. -/
def PerLink.get {α : Type} (p : PerLink α) : Link → α
  | .A => p.A
  | .B => p.B
  | .C => p.C
  | .D => p.D

/-- The values with one link's replaced. -/
def PerLink.set {α : Type} (p : PerLink α) (l : Link) (x : α) : PerLink α :=
  match l with
  | .A => { p with A := x }
  | .B => { p with B := x }
  | .C => { p with C := x }
  | .D => { p with D := x }

/-- The same value for every link. -/
def PerLink.all {α : Type} (x : α) : PerLink α := ⟨x, x, x, x⟩

/-! ### Names the spec gives -/

/-- A window slot, 0 to 31 (1.1). -/
abbrev Slot := Fin 32

/-- A stamp slot, 0 to 191 (7.1). -/
abbrev StampSlot := Fin 192

/-- A contact number, 0 to 4 (8.2). -/
abbrev ContactNumber := Fin 5

/-- A window handle: a slot with a generation (R1). -/
structure Handle where
  slot : Slot
  gen : Byte
  deriving DecidableEq, Repr

/-- A stamp handle: a slot with a generation (R115). -/
structure StampHandle where
  slot : StampSlot
  gen : Byte
  deriving DecidableEq, Repr

/-- Status codes (file 12, section 12.6). -/
inductive Status where
  | ok | accepted | freed | retiring
  | checkFailed | sequenceError | notAttached | retryLater
  | wrongState | badCommand | badParam | staleHandle | notOwner | denied | outOfBounds | tierDenied
  | noWindowSlot | quota | poolFull | poolBusy | stampFull | stampInUse | stampRetiring | queueFull | stagingFull
  | eventsFull | badAck
  | done | targetGone | sourceGone | abandoned | sourceLost | cancelled
  deriving DecidableEq, Repr

/-- A set of links (R18, R179). -/
abbrev LinkSet := PerLink Bool

/-! ### Surface memory and the page pool (file 02) -/

/-- Surface memory: byte cells in the canonical form of `Memory.wf`; what an unlisted byte reads as is
`Config.unlistedByte`. -/
abbrev Memory := List Host.Cell

/-- The page pool and the scrub unit (2.1, 2.2). -/
structure Pool where
  /-- The free set, in ascending order (R22). -/
  free : List Nat
  /-- The scrub queue, oldest first (R22). -/
  scrub : List Nat
  /-- BUSY: the oldest page of the scrub queue is being scrubbed (R25). -/
  busy : Bool
  /-- The held-page counts (R31). -/
  held : PerLink Nat
  deriving DecidableEq, Repr

/-! ### The window table (file 01) -/

/-- Stage of a window's life (1.3). -/
inductive WindowState where
  | free | hidden | shown | closing
  deriving DecidableEq, Repr

/-- Number of buffers (1.1). -/
inductive Buffering where
  | single | double
  deriving DecidableEq, Repr

/-- The front index, 0 or 1 (R6). -/
inductive BufferIndex where
  | zero | one
  deriving DecidableEq, Repr

/-- Why a window entered CLOSING (R8). -/
inductive CloseReason where
  | owner | teardown
  deriving DecidableEq, Repr

/-- An armed flip: the PRESENT's tag, and its notify field, which R60 needs when the flip is taken (log 26). -/
structure ArmedFlip where
  tag : Half
  notify : Bool
  deriving DecidableEq, Repr

/-- A window record (1.1); its slot is its place in the table. -/
structure Window where
  gen : Byte
  state : WindowState
  owner : Option Link
  width : Nat
  height : Nat
  x : Int
  y : Int
  tier : Nat
  buffering : Buffering
  /-- Buffer 0's page list. -/
  buf0 : List Nat
  /-- Buffer 1's page list; empty for a SINGLE window. -/
  buf1 : List Nat
  front : BufferIndex
  flipPending : Option ArmedFlip
  weight : Nat
  key : Option Pixel
  touch : Bool
  grants : LinkSet
  onGlass : Bool
  closeReason : Option CloseReason
  deriving DecidableEq, Repr

/-! ### Jobs (files 05 and 06) -/

/-- A rectangle in window-relative coordinates (5.1). -/
structure Rect where
  x : Nat
  y : Nat
  w : Nat
  h : Nat
  deriving DecidableEq, Repr

/-- The combine functions (R97). -/
inductive Combine where
  | replace | and | or | xor | invertDest | sourceInvert | andInverted
  | blend (weight : Nat)
  deriving DecidableEq, Repr

/-- Which buffer of an own source window a job reads (R6, R94). -/
inductive BufferSelect where
  | shown | drawing
  deriving DecidableEq, Repr

/-- The job kinds (5.1). -/
inductive JobKind where
  | fill | copy | tile | stampExpand | maskExpand | write | read | present | mark
  deriving DecidableEq, Repr

/-- A job's kind with the fields the kind carries (5.1). -/
inductive JobOp where
  | fill (target : Handle) (rect : Rect) (colour : Pixel) (combine : Combine)
  | copy (target : Handle) (rect : Rect) (source : Handle) (select : BufferSelect) (sx sy : Nat) (combine : Combine)
      (skip : Option Pixel)
  | tile (target : Handle) (rect : Rect) (stamp : StampHandle) (combine : Combine) (skip : Option Pixel)
  | stampExpand (target : Handle) (rect : Rect) (stamp : StampHandle) (fg : Pixel) (bg : Option Pixel)
  | maskExpand (target : Handle) (rect : Rect) (fg : Pixel) (bg : Option Pixel) (mask : List Byte)
  | write (target : Handle) (rect : Rect) (combine : Combine) (skip : Option Pixel) (pixels : List Pixel)
  | read (source : Handle) (select : BufferSelect) (rect : Rect)
  | present (target : Handle)
  | mark
  deriving DecidableEq, Repr

/-- A job record (5.1). -/
structure Job where
  tag : Half
  notify : Bool
  op : JobOp
  deriving DecidableEq, Repr

/-- What the head of a queue is waiting for (5.3). -/
inductive HeadState where
  | empty | waitFlip | eligible | inFlight
  deriving DecidableEq, Repr

/-- A link's job queue (5.1). -/
structure JobQueue where
  /-- Job records, the head first. -/
  entries : List Job
  head : HeadState
  /-- The staging count, in bytes (R78). -/
  staging : Nat
  deriving DecidableEq, Repr

/-- The status an abandon request carries (R88). -/
inductive Abandon where
  | abandoned | sourceLost
  deriving DecidableEq, Repr

/-- One source value of the row store: a pixel, or a mask bit (R95). -/
inductive SourceValue where
  | pixel (colour : Pixel)
  | bit (b : Bool)
  deriving DecidableEq, Repr

/-- The draw engine while a job is in flight (6.1). -/
structure InFlight where
  /-- The link whose job it is. -/
  link : Link
  job : Job
  abandon : Option Abandon
  /-- Rows of the rectangle finished. -/
  progress : Nat
  /-- The write buffer (R94). -/
  writePages : List Nat
  /-- The read buffer (R94). -/
  readPages : List Nat
  /-- The source values of the row being worked (R95). -/
  rowStore : List SourceValue
  /-- The pixels a READ has placed in its result (R109). -/
  result : List Pixel
  deriving DecidableEq, Repr

/-! ### The stamp store (file 07) -/

/-- Stage of a stamp's life (7.1). -/
inductive StampState where
  | free | loaded | retiring
  deriving DecidableEq, Repr

/-- The stamp kinds (7.1). -/
inductive StampKind where
  | mask16 | pattern8
  deriving DecidableEq, Repr

/-- Who may name a stamp in jobs (7.1). -/
inductive Visibility where
  | priv | pub
  deriving DecidableEq, Repr

/-- A stamp record (7.1); its slot is its place in the store. -/
structure Stamp where
  gen : Byte
  state : StampState
  kind : StampKind
  owner : Option Link
  visibility : Visibility
  references : Nat
  contents : List Byte
  deriving DecidableEq, Repr

/-! ### The scanout unit (file 04) -/

/-- A latched entry (R61). -/
structure Latched where
  handle : Handle
  x : Int
  y : Int
  width : Nat
  height : Nat
  weight : Nat
  key : Option Pixel
  touch : Bool
  /-- The front page list after the frame start's flips. -/
  pages : List Nat
  deriving DecidableEq, Repr

/-- The scanout unit (4.1). -/
structure Scanout where
  frameNumber : BitVec 32
  /-- The frame record: the latched stack, bottom to top. -/
  record : List Latched
  /-- Pixel addresses overwritten since the frame start, with the values they held before (R53, log 10). -/
  earlier : List (Nat × Pixel)
  /-- The model's own counter of frame starts, which the free value of R53 is applied to (log 10). -/
  choice : Nat
  deriving DecidableEq, Repr

/-! ### The touch router (file 08) -/

/-- A clamped screen position (R128). -/
structure Pos where
  x : Nat
  y : Nat
  deriving DecidableEq, Repr

/-- A contact's state (8.2). -/
inductive ContactState where
  | none | settling | held
  deriving DecidableEq, Repr

/-- A contact entry (8.2); its number is its place in the table. -/
structure Contact where
  state : ContactState
  capture : Option Handle
  last : Option Pos
  lastSent : Option Pos
  deriving DecidableEq, Repr

/-! ### Event queues (file 09) -/

/-- The four touch event kinds (8.4). -/
inductive TouchKind where
  | down | move | up | cancel
  deriving DecidableEq, Repr

/-- An event's kind and fields (9.1). -/
inductive Event where
  | jobDone (tag : Half) (kind : JobKind)
  | jobFailed (tag : Half) (status : Status)
  | readData (tag : Half) (width height : Nat) (pixels : List Pixel)
  | presented (tag : Half) (frame : BitVec 32)
  | frame (frame : BitVec 32) (count : Nat)
  | touch (kind : TouchKind) (contact : ContactNumber) (window : Handle) (x y : Int)
  | windowClosed (window : Handle)
  | stampFreed (stamp : StampHandle)
  | lostEvents (count : Nat)
  deriving DecidableEq, Repr

/-- An event record (9.1). -/
structure EventRecord where
  seq : Half
  event : Event
  sent : Bool
  deriving DecidableEq, Repr

/-- A link's event queue (9.1). -/
structure EventQueue where
  /-- Records, oldest first. -/
  records : List EventRecord
  reserved : Nat
  /-- The sent-unacknowledged count. -/
  sentCount : Nat
  lost : Nat
  nextSeq : Half
  deriving DecidableEq, Repr

/-! ### Link controllers (files 10 and 11) -/

/-- Link state (10.1). -/
inductive LinkState where
  | down | up | teardown
  deriving DecidableEq, Repr

/-- How a link's last session ended (R167). -/
inductive EndReason where
  | reset | goodbye | lease | fault
  deriving DecidableEq, Repr

/-- The figures STATUS reports (R165). -/
structure StatusReport where
  freePages : Nat
  scrubBacklog : Nat
  frameNumber : BitVec 32
  panel : BitVec 2
  policyOpen : Bool
  heldPages : Nat
  ownedStamps : Nat
  queuedJobs : Nat
  stagingBytes : Nat
  queuedEvents : Nat
  reservations : Nat
  deriving DecidableEq, Repr

/-- The record WINDOW_INFO reports (R20). -/
structure InfoReport where
  shown : Bool
  owner : Option Link
  width : Nat
  height : Nat
  x : Int
  y : Int
  tier : Nat
  buffering : Buffering
  weight : Nat
  key : Option Pixel
  touch : Bool
  front : BufferIndex
  flipTag : Option Half
  onGlass : Bool
  grants : LinkSet
  deriving DecidableEq, Repr

/-- The result fields of a response (file 12, section 12.3). -/
inductive Result where
  | none
  | hello (link : Link) (lastEnd : EndReason) (panel : BitVec 2) (policyOpen tier3 : Bool) (lease : Nat)
  | window (handle : Handle)
  | stamp (handle : StampHandle)
  | status (report : StatusReport)
  | info (report : InfoReport)
  deriving DecidableEq, Repr

/-- A response as produced (R181). -/
structure Response where
  /-- The code byte of the frame answered, 0x00 for CHECK_FAILED. -/
  code : Byte
  /-- The sequence field. -/
  seq : Byte
  status : Status
  /-- The link's expected sequence when the response was produced. -/
  expected : Byte
  result : Result
  deriving DecidableEq, Repr

/-- What the outbound lane is sending (R160). -/
inductive Transmitter where
  | idle
  | response (r : Response)
  | event (e : EventRecord)
  deriving DecidableEq, Repr

/-- A link controller (10.1) with its teardown record (11.1). -/
structure LinkCtl where
  state : LinkState
  goodbye : Bool
  expected : Byte
  /-- The response cache, oldest first (R158). -/
  cache : List (Byte × Response)
  /-- The response backlog, oldest first (R159). -/
  backlog : List Response
  lease : Option Nat
  /-- The lease timer: stopped, or running with the milliseconds since the last renewal (R166). -/
  timer : Option Nat
  lastEnd : EndReason
  notify : Bool
  tx : Transmitter
  /-- The teardown record: windows to release (R169). -/
  toRelease : Nat
  /-- The teardown record: job pending (R169). -/
  jobPending : Bool
  deriving DecidableEq, Repr

/-! ### The whole part -/

/-- The state of the part. `pending` is the queue of the commands waiting, first in, first out. -/
structure State where
  pending : List Instr
  /-- The level of RESET_N. -/
  resetN : Bool
  /-- The arrangement pins as sampled. -/
  pins : Pins
  mem : Memory
  pool : Pool
  windows : Vector Window 32
  /-- The live stack, bottom to top (R38). -/
  stack : List Slot
  scanout : Scanout
  queues : PerLink JobQueue
  /-- The draw arbiter's last-served link (R84). -/
  lastServed : Link
  /-- The job in the draw engine (6.1). -/
  engine : Option InFlight
  stamps : Vector Stamp 192
  /-- The owned-stamp counts (R117). -/
  ownedStamps : PerLink Nat
  contacts : Vector Contact 5
  events : PerLink EventQueue
  links : PerLink LinkCtl
  deriving DecidableEq, Repr

/-- Why the machine stops with a fault: never. The part answers every misuse with a response status or an event (12.6), and
no rule of the spec stops it; so there is no constructor. -/
inductive Fault where
  deriving DecidableEq, Repr

/-- Why the machine has no meaning for a command. -/
inductive Refusal where
  /-- Raised by `exec` alone, for a command whose meaning is not written yet; safe. No arm raises it now. -/
  | notModelled (mnemonic : String)
  deriving DecidableEq, Repr

/-! ### Reset -/

/-- A window record while RESET_N is low (R3). The fields R3 leaves open are DESIGN CHOICE, unsafe (log 7). -/
def Window.atReset : Window :=
  { gen := 0, state := .free, owner := none, width := 0, height := 0, x := 0, y := 0, tier := 0, buffering := .single,
    buf0 := [], buf1 := [], front := .zero, flipPending := none, weight := 0, key := none, touch := false,
    grants := PerLink.all false, onGlass := false, closeReason := none }

/-- A stamp record while RESET_N is low (R116). Kind and visibility are DESIGN CHOICE, unsafe (log 7). -/
def Stamp.atReset : Stamp :=
  { gen := 0, state := .free, kind := .mask16, owner := none, visibility := .priv, references := 0,
    contents := List.replicate 32 0 }

/-- A contact entry in NONE (R129). -/
def Contact.atReset : Contact := { state := .none, capture := none, last := none, lastSent := none }

/-- An event queue while RESET_N is low (R151). -/
def EventQueue.atReset : EventQueue := { records := [], reserved := 0, sentCount := 0, lost := 0, nextSeq := 0 }

/-- A job queue while RESET_N is low (R91). -/
def JobQueue.atReset : JobQueue := { entries := [], head := .empty, staging := 0 }

/-- A link controller while RESET_N is low (R152). -/
def LinkCtl.atReset : LinkCtl :=
  { state := .down, goodbye := false, expected := 0, cache := [], backlog := [], lease := none, timer := none,
    lastEnd := .reset, notify := false, tx := .idle, toRelease := 0, jobPending := false }

/-- The pool while RESET_N is low: every page queued, in ascending order (R24). -/
def Pool.atReset : Pool := { free := [], scrub := List.range Config.pageCount, busy := false, held := PerLink.all 0 }

/-- The part while RESET_N is low, with the pins as sampled (R3, R24, R39, R57, R91, R116, R129, R151, R152). -/
def State.heldInReset (pins : Pins) : State :=
  { pending := [], resetN := false, pins := pins, mem := [], pool := Pool.atReset,
    windows := Vector.replicate 32 Window.atReset, stack := [],
    scanout := { frameNumber := 0, record := [], earlier := [], choice := 0 },
    queues := PerLink.all JobQueue.atReset, lastServed := .D, engine := none,
    stamps := Vector.replicate 192 Stamp.atReset, ownedStamps := PerLink.all 0,
    contacts := Vector.replicate 5 Contact.atReset, events := PerLink.all EventQueue.atReset,
    links := PerLink.all LinkCtl.atReset }

/-- Every arrangement pin low: PANEL 0, POOL low (EVEN), ALERT low. DESIGN CHOICE, unsafe (log 6). -/
def Pins.low : Pins := { panel := 0, pool := false, alertA := false, alertB := false, alertC := false, alertD := false }

/-- The machine right after reset: the values of `heldInReset` with RESET_N high, which starts the scrub of page 0
(R24; log 6). -/
def State.reset : State :=
  { State.heldInReset Pins.low with resetN := true, pool := { Pool.atReset with busy := true } }

end Sys2Proof.Machine
end

