-- ==== Sys2Proof/Machine/Ops.lean ====
section
/-!
DEFINITION. The named operations over surface memory, page lists and the parts of the state; every other file reads and
writes them through these.
-/

namespace Sys2Proof.Machine

open Sys2Proof

/-! ### Surface memory -/

/-- The canonical form: addresses strictly rising, and no cell equal to what an unlisted byte reads as. -/
abbrev Memory.wf (m : Memory) : Prop :=
  m.Pairwise (fun c d => c.1 < d.1) ∧ ∀ c ∈ m, c.2 ≠ Config.unlistedByte

/-- The byte at an address. -/
def readByte : Memory → Nat → Byte
  | [], _ => Config.unlistedByte
  | (k, v) :: rest, a => if k = a then v else readByte rest a

/-- Memory with one byte written, in canonical form. -/
def writeByte : Memory → Nat → Byte → Memory
  | [], a, v => if v = Config.unlistedByte then [] else [(a, v)]
  | (k, w) :: rest, a, v =>
    if a < k then (if v = Config.unlistedByte then (k, w) :: rest else (a, v) :: (k, w) :: rest)
    else if a = k then (if v = Config.unlistedByte then rest else (a, v) :: rest)
    else (k, w) :: writeByte rest a v

/-- The pixel at a byte address, its high byte first (log 8). -/
def readPixel (m : Memory) (a : Nat) : Pixel := be16 (readByte m a) (readByte m (a + 1))

/-- Memory with one pixel written. -/
def writePixel (m : Memory) (a : Nat) (p : Pixel) : Memory :=
  writeByte (writeByte m a (hiByte p)) (a + 1) (loByte p)

/-- The byte address of a pixel place of a page (R30). -/
def pageAddr (page offset : Nat) : Nat := page * Config.pageBytes + 2 * offset

/-- Memory with all 1024 pixels of a page written to 0x0000 (R25): zero is what an unlisted byte reads as. -/
def clearPage (m : Memory) (page : Nat) : Memory :=
  m.filter fun c => !(decide (page * Config.pageBytes ≤ c.1) && decide (c.1 < (page + 1) * Config.pageBytes))

/-- The byte address of a buffer index: entry index div 1024 of the page list, offset index mod 1024 (R30). -/
def pixelAddr (pages : List Nat) (index : Nat) : Option Nat :=
  pages[index / Config.pagePixels]?.map fun page => pageAddr page (index % Config.pagePixels)

/-- The pixel at a buffer index. A page list without that entry is never addressed (R30); it would read 0x0000 (log 18). -/
def bufferPixel (m : Memory) (pages : List Nat) (index : Nat) : Pixel :=
  match pixelAddr pages index with
  | some a => readPixel m a
  | none => 0x0000#16

/-! ### Link sets and links -/

/-- Links in order A, B, C, D. -/
def allLinks : List Link := [.A, .B, .C, .D]

/-- The links in the arbiter's search order, beginning with the link after the given one (R84). -/
def linksAfter : Link → List Link
  | .A => [.B, .C, .D, .A]
  | .B => [.C, .D, .A, .B]
  | .C => [.D, .A, .B, .C]
  | .D => [.A, .B, .C, .D]

/-- The link code of R179. -/
def linkCode : Link → Byte
  | .A => 0
  | .B => 1
  | .C => 2
  | .D => 3

/-- The sampled ALERT level of a link (R40). -/
def alertOf (p : Pins) : Link → Bool
  | .A => p.alertA
  | .B => p.alertB
  | .C => p.alertC
  | .D => p.alertD

/-! ### Parts of the state -/

/-- The link controller of a link. -/
def State.link (s : State) (l : Link) : LinkCtl := s.links.get l

/-- The state with a link's controller replaced. -/
def State.setLink (s : State) (l : Link) (c : LinkCtl) : State := { s with links := s.links.set l c }

/-- The job queue of a link. -/
def State.queue (s : State) (l : Link) : JobQueue := s.queues.get l

/-- The state with a link's job queue replaced. -/
def State.setQueue (s : State) (l : Link) (q : JobQueue) : State := { s with queues := s.queues.set l q }

/-- The event queue of a link. -/
def State.eventsOf (s : State) (l : Link) : EventQueue := s.events.get l

/-- The state with a link's event queue replaced. -/
def State.setEvents (s : State) (l : Link) (q : EventQueue) : State := { s with events := s.events.set l q }

/-- The window record of a slot. -/
def State.window (s : State) (i : Slot) : Window := s.windows[i.val]

/-- The state with a window record replaced. -/
def State.setWindow (s : State) (i : Slot) (w : Window) : State := { s with windows := s.windows.set i.val w }

/-- The stamp record of a slot. -/
def State.stamp (s : State) (i : StampSlot) : Stamp := s.stamps[i.val]

/-- The state with a stamp record replaced. -/
def State.setStamp (s : State) (i : StampSlot) (st : Stamp) : State := { s with stamps := s.stamps.set i.val st }

/-- The contact entry of a number. -/
def State.contact (s : State) (k : ContactNumber) : Contact := s.contacts[k.val]

/-- The state with a contact entry replaced. -/
def State.setContact (s : State) (k : ContactNumber) (c : Contact) : State :=
  { s with contacts := s.contacts.set k.val c }

/-- The state with another pool. -/
def State.setPool (s : State) (p : Pool) : State := { s with pool := p }

/-- The state with another live stack. -/
def State.setStack (s : State) (st : List Slot) : State := { s with stack := st }

/-- The state with another draw engine. -/
def State.setEngine (s : State) (e : Option InFlight) : State := { s with engine := e }

/-- The state with another scanout unit. -/
def State.setScanout (s : State) (c : Scanout) : State := { s with scanout := c }

/-- The state with a link's owned-stamp count replaced. -/
def State.setOwned (s : State) (l : Link) (n : Nat) : State := { s with ownedStamps := s.ownedStamps.set l n }

/-- The link is UP. -/
def State.isUp (s : State) (l : Link) : Bool := decide ((s.link l).state = .up)

/-! ### Handles -/

/-- The window handle of a slot as it now stands. -/
def State.handleOf (s : State) (i : Slot) : Handle := ⟨i, (s.window i).gen⟩

/-- The handle is current (R1). -/
def State.current (s : State) (h : Handle) : Bool :=
  decide ((s.window h.slot).state ≠ .free) && decide ((s.window h.slot).gen = h.gen)

/-- The window is live: HIDDEN or SHOWN (1.1). -/
def Window.live (w : Window) : Bool := decide (w.state = .hidden) || decide (w.state = .shown)

/-- The handle is current and its window live. -/
def State.liveHandle (s : State) (h : Handle) : Bool := s.current h && (s.window h.slot).live

/-- The stamp handle is current (R115). -/
def State.stampCurrent (s : State) (h : StampHandle) : Bool :=
  decide ((s.stamp h.slot).state ≠ .free) && decide ((s.stamp h.slot).gen = h.gen)

/-! ### Windows -/

/-- Pages of one buffer: ceil(width × height / 1024) (R28). -/
def pagesPerBuffer (width height : Nat) : Nat := (width * height + 1023) / 1024

/-- The pages needed (R28). -/
def pagesNeeded (width height : Nat) : Buffering → Nat
  | .single => pagesPerBuffer width height
  | .double => 2 * pagesPerBuffer width height

/-- The pages needed by a window of the table. -/
def Window.pages (w : Window) : Nat := pagesNeeded w.width w.height w.buffering

/-- The other front index (R59). -/
def BufferIndex.other : BufferIndex → BufferIndex
  | .zero => .one
  | .one => .zero

/-- The page list of a buffer. -/
def Window.buffer (w : Window) : BufferIndex → List Nat
  | .zero => w.buf0
  | .one => w.buf1

/-- The front buffer (R6); buffer 0 of a SINGLE window. -/
def Window.frontPages (w : Window) : List Nat :=
  match w.buffering with
  | .single => w.buf0
  | .double => w.buffer w.front

/-- The drawing buffer (R6); buffer 0 of a SINGLE window. -/
def Window.drawingPages (w : Window) : List Nat :=
  match w.buffering with
  | .single => w.buf0
  | .double => w.buffer w.front.other

/-- The lowest-numbered FREE window slot (R5). -/
def State.freeSlot (s : State) : Option Slot :=
  (List.finRange 32).find? fun i => decide ((s.window i).state = .free)

/-- The lowest-numbered FREE stamp slot (R119). -/
def State.freeStampSlot (s : State) : Option StampSlot :=
  (List.finRange 192).find? fun i => decide ((s.stamp i).state = .free)

/-! ### Jobs -/

/-- The target of a job (5.1). -/
def JobOp.target : JobOp → Option Handle
  | .fill t _ _ _ => some t
  | .copy t _ _ _ _ _ _ _ => some t
  | .tile t _ _ _ _ => some t
  | .stampExpand t _ _ _ _ => some t
  | .maskExpand t _ _ _ _ => some t
  | .write t _ _ _ _ => some t
  | .read _ _ _ => none
  | .present t => some t
  | .mark => none

/-- The source window of a job (5.1). -/
def JobOp.source : JobOp → Option Handle
  | .fill _ _ _ _ => none
  | .copy _ _ src _ _ _ _ _ => some src
  | .tile _ _ _ _ _ => none
  | .stampExpand _ _ _ _ _ => none
  | .maskExpand _ _ _ _ _ => none
  | .write _ _ _ _ _ => none
  | .read src _ _ => some src
  | .present _ => none
  | .mark => none

/-- The stamp a job names (5.1). -/
def JobOp.stamp : JobOp → Option StampHandle
  | .fill _ _ _ _ => none
  | .copy _ _ _ _ _ _ _ _ => none
  | .tile _ _ st _ _ => some st
  | .stampExpand _ _ st _ _ => some st
  | .maskExpand _ _ _ _ _ => none
  | .write _ _ _ _ _ => none
  | .read _ _ _ => none
  | .present _ => none
  | .mark => none

/-- The rectangle of a job; PRESENT and MARK have none (5.1). -/
def JobOp.rect : JobOp → Option Rect
  | .fill _ r _ _ => some r
  | .copy _ r _ _ _ _ _ _ => some r
  | .tile _ r _ _ _ => some r
  | .stampExpand _ r _ _ _ => some r
  | .maskExpand _ r _ _ _ => some r
  | .write _ r _ _ _ => some r
  | .read _ _ r => some r
  | .present _ => none
  | .mark => none

/-- The kind of a job (5.1). -/
def JobOp.kind : JobOp → JobKind
  | .fill _ _ _ _ => .fill
  | .copy _ _ _ _ _ _ _ _ => .copy
  | .tile _ _ _ _ _ => .tile
  | .stampExpand _ _ _ _ _ => .stampExpand
  | .maskExpand _ _ _ _ _ => .maskExpand
  | .write _ _ _ _ _ => .write
  | .read _ _ _ => .read
  | .present _ => .present
  | .mark => .mark

/-- Bytes of one row of a mask: ceil(width / 8) (R104). -/
def maskRowBytes (width : Nat) : Nat := (width + 7) / 8

/-- A job's staging bytes (R78). -/
def JobOp.staging : JobOp → Nat
  | .write _ r _ _ _ => 2 * r.w * r.h
  | .maskExpand _ r _ _ _ => r.h * maskRowBytes r.w
  | .read _ _ r => 2 * r.w * r.h
  | .fill _ _ _ _ => 0
  | .copy _ _ _ _ _ _ _ _ => 0
  | .tile _ _ _ _ _ => 0
  | .stampExpand _ _ _ _ _ => 0
  | .present _ => 0
  | .mark => 0

/-- The window of a slot is among the in-flight names (R10). -/
def InFlight.names (f : InFlight) (h : Handle) : Bool :=
  decide (f.job.op.target = some h) || decide (f.job.op.source = some h)

/-- The window of a slot is named in flight (R10). -/
def State.namedInFlight (s : State) (h : Handle) : Bool :=
  match s.engine with
  | some f => f.names h
  | none => false

/-! ### Stamps -/

/-- Bytes of a stamp's contents (7.1). -/
def stampBytes : StampKind → Nat
  | .mask16 => 32
  | .pattern8 => 128

/-- The record of a stamp that becomes FREE (R116, R121, R123, R125). -/
def Stamp.freed (st : Stamp) : Stamp :=
  { st with gen := st.gen + 1, state := .free, owner := none, references := 0,
            contents := List.replicate (stampBytes st.kind) 0 }

end Sys2Proof.Machine
end

