-- ==== Sys2Proof/Machine/EventQueues.lean ====
section
/-!
DEFINITION. The event queue of a link (file 09): room, reservations, coalescing, the lost count, sending and acknowledging;
and handing an event to a link, which only a link that is UP takes (R151).
-/

namespace Sys2Proof.Machine

open Sys2Proof

/-! ### One queue -/

/-- The queue has room: records plus reserved slots are fewer than 64 (R142). -/
def EventQueue.hasRoom (q : EventQueue) : Bool := decide (q.records.length + q.reserved < Config.eventLimit)

/-- A new record joins the tail, unsent, with the next event sequence number (R141). -/
def EventQueue.append (q : EventQueue) (e : Event) : EventQueue :=
  { q with records := q.records ++ [⟨q.nextSeq, e, false⟩], nextSeq := q.nextSeq + 1 }

/-- The newest record that `sel` selects, replaced by what it becomes when it absorbs; none when there is no such record or
it does not absorb (R145). -/
def coalesceNewest (sel : EventRecord → Bool) (absorb : EventRecord → Option EventRecord) :
    List EventRecord → Option (List EventRecord)
  | [] => none
  | r :: rs =>
    if rs.any sel then (coalesceNewest sel absorb rs).map (r :: ·)
    else if sel r then (absorb r).map (· :: rs)
    else none

/-- A count raised and held at 65535 (R69, R145). -/
def raised (n m : Nat) : Nat := min (n + m) Config.countCeiling

/-- The record is a FRAME record. -/
def EventRecord.isFrame (r : EventRecord) : Bool :=
  match r.event with
  | .frame _ _ => true
  | _ => false

/-- The record is a LOST_EVENTS record. -/
def EventRecord.isLost (r : EventRecord) : Bool :=
  match r.event with
  | .lostEvents _ => true
  | _ => false

/-- The record is a touch record of the contact. -/
def EventRecord.isTouchOf (r : EventRecord) (k : ContactNumber) : Bool :=
  match r.event with
  | .touch _ k' _ _ _ => decide (k' = k)
  | _ => false

/-- An unsent FRAME record absorbs a FRAME event (R69). -/
def absorbFrame (n : BitVec 32) (count : Nat) (r : EventRecord) : Option EventRecord :=
  match r.sent, r.event with
  | false, .frame _ c => some { r with event := .frame n (raised c count) }
  | _, _ => none

/-- An unsent TOUCH_MOVE record of the same window absorbs a TOUCH_MOVE (R135). -/
def absorbMove (w : Handle) (x y : Int) (r : EventRecord) : Option EventRecord :=
  match r.sent, r.event with
  | false, .touch .move k w' _ _ => if w' = w then some { r with event := .touch .move k w x y } else none
  | _, _ => none

/-- An unsent LOST_EVENTS record absorbs the lost count (R144, R145). -/
def absorbLost (lost : Nat) (r : EventRecord) : Option EventRecord :=
  match r.sent, r.event with
  | false, .lostEvents c => some { r with event := .lostEvents (raised c lost) }
  | _, _ => none

/-- The records after an unreserved event has coalesced; none when it does not coalesce (R145). -/
def EventQueue.coalesced (q : EventQueue) (e : Event) : Option (List EventRecord) :=
  match e with
  | .frame n c => coalesceNewest EventRecord.isFrame (absorbFrame n c) q.records
  | .touch .move k w x y => coalesceNewest (fun r => r.isTouchOf k) (absorbMove w x y) q.records
  | _ => none

/-- The queue reports its lost count as soon as it can (R144). It is examined at the end of each claim on the queue
(DEDUCED, log 13). -/
def EventQueue.reportLost (q : EventQueue) : EventQueue :=
  if q.lost = 0 then q
  else
    match coalesceNewest EventRecord.isLost (absorbLost q.lost) q.records with
    | some rs => { q with records := rs, lost := 0 }
    | none => if q.hasRoom then { q.append (.lostEvents q.lost) with lost := 0 } else q

/-- A reserved event is queued on its reservation (R143). With no reservation there is nothing to queue it on: R90 has the
completion find its reservation already dropped (log 17). -/
def EventQueue.queueReserved (q : EventQueue) (e : Event) : EventQueue :=
  if q.reserved = 0 then q
  else ({ q with reserved := q.reserved - 1 }.append e).reportLost

/-- A silent release ends a reservation without an event (R143). -/
def EventQueue.silentRelease (q : EventQueue) : EventQueue :=
  { q with reserved := q.reserved - 1 }.reportLost

/-- An unreserved event coalesces, or joins the tail, or is lost and counted (R144). -/
def EventQueue.queueUnreserved (q : EventQueue) (e : Event) : EventQueue :=
  match q.coalesced e with
  | some rs => { q with records := rs }.reportLost
  | none =>
    if q.hasRoom then (q.append e).reportLost
    else { q with lost := raised q.lost 1 }.reportLost

/-- One more reservation (R142). -/
def EventQueue.reserve (q : EventQueue) : EventQueue := { q with reserved := q.reserved + 1 }

/-- The oldest unsent record, and the records with it marked sent (R146). -/
def takeUnsent : List EventRecord → Option (EventRecord × List EventRecord)
  | [] => none
  | r :: rs =>
    if r.sent then (takeUnsent rs).map fun (t, rs') => (t, r :: rs')
    else some ({ r with sent := true }, { r with sent := true } :: rs)

/-- The records of a list up to and including the sent one numbered `seq`, and those after it; none when no record marked
sent has that number (R147). -/
def splitAcked (seq : Half) : List EventRecord → Option (List EventRecord × List EventRecord)
  | [] => none
  | r :: rs =>
    if r.seq = seq ∧ r.sent then some ([r], rs)
    else (splitAcked seq rs).map fun (gone, rest) => (r :: gone, rest)

/-- The staging bytes a record holds: those of a READ_DATA (R78, R110). -/
def EventRecord.staging (r : EventRecord) : Nat :=
  match r.event with
  | .readData _ w h _ => 2 * w * h
  | _ => 0

/-- The staging bytes that a list of records holds. -/
def recordsStaging (rs : List EventRecord) : Nat := (rs.map EventRecord.staging).sum

/-- The record marked unsent. -/
def EventRecord.unsent (r : EventRecord) : EventRecord := { r with sent := false }

/-- Every sent record is marked unsent and the sent-unacknowledged count becomes 0 (R148). -/
def EventQueue.resend (q : EventQueue) : EventQueue :=
  { q with records := q.records.map EventRecord.unsent, sentCount := 0 }.reportLost

/-- The queue at the start of its link's teardown: emptied, the next sequence number kept (R151). -/
def EventQueue.emptied (q : EventQueue) : EventQueue :=
  { q with records := [], reserved := 0, sentCount := 0, lost := 0 }

/-! ### Handing events to a link -/

/-- A reserved event handed to a link; a link that is not UP takes none (R151). -/
def State.handReserved (s : State) (l : Link) (e : Event) : State :=
  if s.isUp l then s.setEvents l ((s.eventsOf l).queueReserved e) else s

/-- A reservation of a link released silently (R143). -/
def State.handSilent (s : State) (l : Link) : State :=
  if s.isUp l then s.setEvents l (s.eventsOf l).silentRelease else s

/-- An unreserved event handed to a link; a link that is not UP takes none (R151). -/
def State.handUnreserved (s : State) (l : Link) (e : Event) : State :=
  if s.isUp l then s.setEvents l ((s.eventsOf l).queueUnreserved e) else s

/-- A reservation taken in a link's event queue (R142). -/
def State.takeReservation (s : State) (l : Link) : State := s.setEvents l (s.eventsOf l).reserve

end Sys2Proof.Machine
end

