-- ==== Sys2Proof/Machine/Flags.lean ====
section
/-!
DEFINITION. The lines and derived figures of the part, computed from the state that holds them once (log 24): ATTN, page
states, the pending-flip set, and the figures of STATUS.
-/

namespace Sys2Proof.Machine

open Sys2Proof

/-- The event queue holds an unsent record. -/
def EventQueue.hasUnsent (q : EventQueue) : Bool := q.records.any fun r => !r.sent

/-- The ATTN line of a link (R150). -/
def State.attn (s : State) (l : Link) : Bool :=
  s.resetN && s.isUp l && (!(s.link l).backlog.isEmpty || (s.eventsOf l).hasUnsent)

/-- The four states of a page (R22). -/
inductive PageState where
  | free | queued | scrubbing | held
  deriving DecidableEq, Repr

/-- The state of a page, by the place that holds it (R22). -/
def State.pageState (s : State) (page : Nat) : PageState :=
  if page ∈ s.pool.free then .free
  else if s.pool.busy && decide (s.pool.scrub.head? = some page) then .scrubbing
  else if page ∈ s.pool.scrub then .queued
  else .held

/-- The pages that the buffers of a window hold (R22). -/
def Window.heldPages (w : Window) : List Nat := w.buf0 ++ w.buf1

/-- The pages held by all windows (R22). -/
def State.heldPages (s : State) : List Nat :=
  (List.finRange 32).flatMap fun i => (s.window i).heldPages

/-- The pending-flip set, in ascending slot order (4.1). -/
def State.pendingFlips (s : State) : List Slot :=
  (List.finRange 32).filter fun i => (s.window i).flipPending.isSome

/-- The screen width W of the profile (file 00, R48). -/
def screenWidth (panel : BitVec 2) : Nat :=
  match panel.toNat with
  | 0 => 480
  | 1 => 640
  | 2 => 800
  | _ => 1024

/-- The screen height H of the profile (file 00, R48). -/
def screenHeight (panel : BitVec 2) : Nat :=
  match panel.toNat with
  | 0 => 272
  | 1 => 480
  | 2 => 480
  | _ => 600

/-- The figures STATUS reports, as they stand (R165). -/
def State.statusReport (s : State) (l : Link) : StatusReport :=
  { freePages := s.pool.free.length, scrubBacklog := s.pool.scrub.length, frameNumber := s.scanout.frameNumber,
    panel := s.pins.panel, policyOpen := s.pins.pool, heldPages := s.pool.held.get l, ownedStamps := s.ownedStamps.get l,
    queuedJobs := (s.queue l).entries.length, stagingBytes := (s.queue l).staging,
    queuedEvents := (s.eventsOf l).records.length, reservations := (s.eventsOf l).reserved }

/-- The record WINDOW_INFO reports, as it stands (R20). -/
def Window.infoReport (w : Window) : InfoReport :=
  { shown := decide (w.state = .shown), owner := w.owner, width := w.width, height := w.height, x := w.x, y := w.y,
    tier := w.tier, buffering := w.buffering, weight := w.weight, key := w.key, touch := w.touch, front := w.front,
    flipTag := w.flipPending.map ArmedFlip.tag, onGlass := w.onGlass, grants := w.grants }

end Sys2Proof.Machine
end

