-- ==== Sys2Proof/Machine/Pixels.lean ====
section
/-!
DEFINITION. Pixel arithmetic: colour components, the blend of R49, the combines of R97, masks (R104) and patterns (R103).
-/

namespace Sys2Proof.Machine

open Sys2Proof

/-- The red component, bits 15 to 11 (3.7). -/
def red (p : Pixel) : Nat := p.toNat / 2048

/-- The green component, bits 10 to 5 (3.7). -/
def green (p : Pixel) : Nat := p.toNat / 32 % 64

/-- The blue component, bits 4 to 0 (3.7). -/
def blue (p : Pixel) : Nat := p.toNat % 32

/-- The colour of three components (3.7). -/
def rgb (r g b : Nat) : Pixel := BitVec.ofNat 16 (r * 2048 + g * 32 + b)

/-- The blend of one component (R49). -/
def blendPart (w t b : Nat) : Nat := (w * t + (16 - w) * b + 8) / 16

/-- The blend of a top colour over a below colour with weight w (R49). -/
def blend (top below : Pixel) (w : Nat) : Pixel :=
  rgb (blendPart w (red top) (red below)) (blendPart w (green top) (green below)) (blendPart w (blue top) (blue below))

/-- The written value of a combine of S and D (R97). -/
def combined (s d : Pixel) : Combine → Pixel
  | .replace => s
  | .and => s &&& d
  | .or => s ||| d
  | .xor => s ^^^ d
  | .invertDest => ~~~d
  | .sourceInvert => ~~~s
  | .andInverted => d &&& ~~~s
  | .blend w => blend s d w

/-- The written value with a skip colour: none where the source equals it (R96, R98). -/
def combinedSkip (skip : Option Pixel) (c : Combine) (s d : Pixel) : Option Pixel :=
  if skip = some s then none else some (combined s d c)

/-- Mask bit (i, j): bit i of row j, counted from the left, most significant bit first (R104). -/
def maskBit (mask : List Byte) (rowBytes i j : Nat) : Bool :=
  (mask.getD (j * rowBytes + i / 8) 0).getLsbD (7 - i % 8)

/-- What a mask bit writes: fg, or bg, or nothing (R104). -/
def expanded (fg : Pixel) (bg : Option Pixel) (bit : Bool) : Option Pixel :=
  if bit then some fg else bg

/-- Pattern pixel (u, v) of a PATTERN8 stamp: entry v × 8 + u (R103), its high byte first (R179). -/
def patternPixel (contents : List Byte) (u v : Nat) : Pixel :=
  be16 (contents.getD (2 * (v * 8 + u)) 0) (contents.getD (2 * (v * 8 + u) + 1) 0)

/-- The value a job writes where the row store holds v and the buffer holds d; none leaves the pixel as it is
(R96, R98, R104). READ, PRESENT and MARK write no pixel. -/
def JobOp.formed (op : JobOp) (v : SourceValue) (d : Pixel) : Option Pixel :=
  match op, v with
  | .fill _ _ _ c, .pixel s => some (combined s d c)
  | .copy _ _ _ _ _ _ c skip, .pixel s => combinedSkip skip c s d
  | .tile _ _ _ c skip, .pixel s => combinedSkip skip c s d
  | .write _ _ c skip _, .pixel s => combinedSkip skip c s d
  | .stampExpand _ _ _ fg bg, .bit b => expanded fg bg b
  | .maskExpand _ _ fg bg _, .bit b => expanded fg bg b
  | _, _ => none

end Sys2Proof.Machine
end

