-- ==== Sys2Proof/Machine/Engine.lean ====
section
/-!
DEFINITION. The draw engine (file 06): resolving buffers, the row store, the rows of each kind and what a row writes; and the
picture composed from the latched stack (file 03), which reads the same buffers.
-/

namespace Sys2Proof.Machine

open Sys2Proof

/-! ### Starting a job -/

/-- The buffer a COPY or READ reads (R94): an own source by its select, another link's from its front buffer. -/
def Window.readBuffer (w : Window) (l : Link) (select : BufferSelect) : List Nat :=
  if w.owner = some l then
    match select with
    | .shown => w.frontPages
    | .drawing => w.drawingPages
  else w.frontPages

/-- The buffer select a job carries; only COPY and READ use one. -/
def JobOp.select : JobOp → BufferSelect
  | .copy _ _ _ select _ _ _ _ => select
  | .read _ select _ => select
  | .fill _ _ _ _ => .shown
  | .tile _ _ _ _ _ => .shown
  | .stampExpand _ _ _ _ _ => .shown
  | .maskExpand _ _ _ _ _ => .shown
  | .write _ _ _ _ _ => .shown
  | .present _ => .shown
  | .mark => .shown

/-- The write buffer of a job: the drawing buffer of its target (R94). -/
def State.writeBufferOf (s : State) (op : JobOp) : List Nat :=
  match op.target with
  | some h => (s.window h.slot).drawingPages
  | none => []

/-- The read buffer of a job (R94). -/
def State.readBufferOf (s : State) (l : Link) (op : JobOp) : List Nat :=
  match op.source with
  | some h => (s.window h.slot).readBuffer l op.select
  | none => []

/-! ### Rows -/

/-- The source row of a COPY (5.1); no other kind has one. -/
def JobOp.sourceRow : JobOp → Option Nat
  | .copy _ _ _ _ _ sy _ _ => some sy
  | .fill _ _ _ _ => none
  | .tile _ _ _ _ _ => none
  | .stampExpand _ _ _ _ _ => none
  | .maskExpand _ _ _ _ _ => none
  | .write _ _ _ _ _ => none
  | .read _ _ _ => none
  | .present _ => none
  | .mark => none

/-- Rows are worked from the bottom: a COPY whose read buffer is its write buffer and whose rectangle lies below its source
(R95, R101). -/
def InFlight.bottomUp (f : InFlight) : Bool :=
  match f.job.op.sourceRow, f.job.op.rect with
  | some sy, some r => decide (f.readPages = f.writePages) && decide (sy < r.y)
  | _, _ => false

/-- The height of the job's rectangle. -/
def InFlight.height (f : InFlight) : Nat :=
  match f.job.op.rect with
  | some r => r.h
  | none => 0

/-- The row of the rectangle being worked, 0 at its top (R95). -/
def InFlight.row (f : InFlight) : Nat :=
  if f.bottomUp then f.height - 1 - f.progress else f.progress

/-- The position lies in a window of this record (R30). -/
def Window.hasPixel (w : Window) (x y : Nat) : Bool := decide (x < w.width) && decide (y < w.height)

/-- The source pixel that a job reads at a position of its source window (R30, R100). A position outside the window holds no
pixel and gives a free value; only a handle that 256 releases have made current again leads there (DESIGN CHOICE, log 30). -/
def State.sourcePixel (s : State) (f : InFlight) (src : Handle) (x y : Nat) : Pixel :=
  if (s.window src.slot).hasPixel x y then bufferPixel s.mem f.readPages (y * (s.window src.slot).width + x)
  else Config.absentPixel s.scanout.choice x y

/-- The source values of a row of the rectangle, from the left (R95; R99, R100, R103, R106 to R109). -/
def State.sourceRow (s : State) (f : InFlight) (j : Nat) : List SourceValue :=
  match f.job.op with
  | .fill _ r colour _ => List.replicate r.w (.pixel colour)
  | .copy _ r src _ sx sy _ _ =>
    (List.range r.w).map fun i => .pixel (s.sourcePixel f src (sx + i) (sy + j))
  | .tile _ r st _ _ =>
    (List.range r.w).map fun i => .pixel (patternPixel (s.stamp st.slot).contents ((r.x + i) % 8) ((r.y + j) % 8))
  | .stampExpand _ r st _ _ => (List.range r.w).map fun i => .bit (maskBit (s.stamp st.slot).contents 2 i j)
  | .maskExpand _ r _ _ mask => (List.range r.w).map fun i => .bit (maskBit mask (maskRowBytes r.w) i j)
  | .write _ r _ _ pixels => (List.range r.w).map fun i => .pixel (pixels.getD (j * r.w + i) 0)
  | .read src _ r =>
    (List.range r.w).map fun i => .pixel (s.sourcePixel f src (r.x + i) (r.y + j))
  | .present _ => []
  | .mark => []

/-- The engine at the beginning of a row: the row store holds the row's source values (R95). -/
def State.beginRow (s : State) (f : InFlight) : InFlight := { f with rowStore := s.sourceRow f f.row }

/-- The buffer index of the first pixel of a row of the rectangle in the write buffer (R30). -/
def State.rowBase (s : State) (f : InFlight) : Nat :=
  match f.job.op.target, f.job.op.rect with
  | some h, some r => (r.y + f.row) * (s.window h.slot).width + r.x
  | _, _ => 0

/-- How many pixels of the row, from the left, lie in the target window and are worked: all of them (R30), but for a handle that
256 releases have made current again on a window of another size, of which nothing outside is written (R112; log 30). -/
def State.rowRoom (s : State) (f : InFlight) : Nat :=
  match f.job.op.target, f.job.op.rect with
  | some h, some r => if r.y + f.row < (s.window h.slot).height then (s.window h.slot).width - r.x else 0
  | _, _ => 0

/-- A run of pixels written into a buffer from an index on. The second part of the answer is `earlier` with the value that
each written pixel held before (R53). -/
def drawPixels (op : JobOp) (pages : List Nat) :
    List SourceValue → Nat → Memory → List (Nat × Pixel) → Memory × List (Nat × Pixel)
  | [], _, m, earlier => (m, earlier)
  | v :: vs, index, m, earlier =>
    match pixelAddr pages index with
    | none => drawPixels op pages vs (index + 1) m earlier
    | some a =>
      match op.formed v (readPixel m a) with
      | none => drawPixels op pages vs (index + 1) m earlier
      | some c => drawPixels op pages vs (index + 1) (writePixel m a c) (earlier ++ [(a, readPixel m a)])

/-- The pixels among source values. -/
def pixelsOf (vs : List SourceValue) : List Pixel :=
  vs.filterMap fun v => match v with
    | .pixel c => some c
    | .bit _ => none

/-- A READ places its row in its result; the other kinds have no result (R109). -/
def InFlight.resultAfter (f : InFlight) : List Pixel :=
  match f.job.op with
  | .read _ _ _ => f.result ++ pixelsOf f.rowStore
  | .fill _ _ _ _ => f.result
  | .copy _ _ _ _ _ _ _ _ => f.result
  | .tile _ _ _ _ _ => f.result
  | .stampExpand _ _ _ _ _ => f.result
  | .maskExpand _ _ _ _ _ => f.result
  | .write _ _ _ _ _ => f.result
  | .present _ => f.result
  | .mark => f.result

/-- The engine at a row end: the row progress rises by one and the row store is emptied (R95). -/
def InFlight.rowEnded (f : InFlight) : InFlight :=
  { f with progress := f.progress + 1, rowStore := [], result := f.resultAfter }

/-- Surface memory and scanout after the row in the row store has been worked (R95, R96, R104, R112). -/
def State.drawRow (s : State) (f : InFlight) : State :=
  let drawn := drawPixels f.job.op f.writePages (f.rowStore.take (s.rowRoom f)) (s.rowBase f) s.mem s.scanout.earlier
  { s with mem := drawn.1, scanout := { s.scanout with earlier := drawn.2 } }

/-! ### The picture -/

/-- The value a pixel has once the row under way is worked; a frame composed while the row is written may show it already
(R95, log 11). -/
def State.valueUnderWay (s : State) (a : Nat) : List Pixel :=
  match s.engine with
  | some f => [readPixel (s.drawRow f).mem a]
  | none => []

/-- The values a pixel may show in the present frame: the present one, those it has held since the frame start, and the one that
the row under way gives it (R53, R95). That holds of a CLOSING window on glass too, whose rows written after the close may
show until the next frame start: R54 and 3.9 say so, R11's last sentence does not (DEDUCED, log 29). -/
def State.heldValues (s : State) (a : Nat) : List Pixel :=
  readPixel s.mem a :: (s.scanout.earlier.filter fun c => decide (c.1 = a)).map Prod.snd ++ s.valueUnderWay a

/-- The value of a buffer pixel that the frame shows at a screen pixel: one of those held during the frame, a free choice
(R53, log 10). -/
def State.shownValue (s : State) (sx sy place : Nat) (pages : List Nat) (index : Nat) : Pixel :=
  match pixelAddr pages index with
  | some a =>
    (s.heldValues a).getD (Config.shownVersion s.scanout.choice sx sy place % (s.heldValues a).length) (readPixel s.mem a)
  | none => 0x0000#16

/-- The buffer index of a covered screen pixel (R50). -/
def Latched.bufferIndex (e : Latched) (sx sy : Nat) : Nat :=
  ((sy - e.y) * e.width + (sx - e.x)).toNat

/-- One latched entry laid over the running colour, its buffer pixel being c (R51). -/
def Latched.over (e : Latched) (c running : Pixel) : Pixel :=
  if e.key = some c then running else blend c running e.weight

/-- The entry covers the screen pixel (R50). -/
def Latched.coversPixel (e : Latched) (sx sy : Nat) : Bool :=
  decide (e.x ≤ sx) && decide ((sx : Int) ≤ e.x + e.width - 1) && decide (e.y ≤ sy) && decide ((sy : Int) ≤ e.y + e.height - 1)

/-- The running colour after the latched entries from a place on, bottom to top (R51). -/
def State.composeFrom (s : State) (sx sy : Nat) : List Latched → Nat → Pixel → Pixel
  | [], _, running => running
  | e :: es, place, running =>
    s.composeFrom sx sy es (place + 1)
      (if e.coversPixel sx sy then e.over (s.shownValue sx sy place e.pages (e.bufferIndex sx sy)) running else running)

/-- The colour composed at a screen position from the frame record, over the base colour (R51). -/
def State.composed (s : State) (sx sy : Nat) : Pixel := s.composeFrom sx sy s.scanout.record 0 Config.baseColour

/-- The present frame has a pixel at a screen position: RESET_N is high, so a frame is sent (R56, R57; log 28), and the position
lies on the screen, 0 ≤ sx ≤ W − 1 and 0 ≤ sy ≤ H − 1 (R48, R50). -/
def State.sendsPixel (s : State) (sx sy : Nat) : Bool :=
  s.resetN && decide (sx < screenWidth s.pins.panel) && decide (sy < screenHeight s.pins.panel)

/-- The pixel of the present frame at a screen position; none where no pixel is composed or sent (R48, R50, R56, R57). -/
def State.framePixel (s : State) (sx sy : Nat) : Option Pixel :=
  if s.sendsPixel sx sy then some (s.composed sx sy) else none

/-- The present frame as the panel port sends it: rows 0 to H − 1 from the top, in each the pixels of columns 0 to W − 1 (R48);
nothing while RESET_N is low (R56, R57). -/
def State.panelFrame (s : State) : List (List Pixel) :=
  if s.resetN then
    (List.range (screenHeight s.pins.panel)).map fun sy =>
      (List.range (screenWidth s.pins.panel)).map fun sx => s.composed sx sy
  else []

end Sys2Proof.Machine
end

