-- ==== Sys2Proof/Machine/StampStore.lean ====
section
/-!
DEFINITION. References to stamps and what becomes of a link's stamps at its teardown (file 07).
-/

namespace Sys2Proof.Machine

open Sys2Proof

/-- A job that names a stamp takes one reference at its admission (R77, R122). -/
def State.takeReference (s : State) (h : StampHandle) : State :=
  s.setStamp h.slot { s.stamp h.slot with references := (s.stamp h.slot).references + 1 }

/-- The end of a retirement (R123): the stamp becomes FREE; an owner's count falls, and an owner that is UP is handed
STAMP_FREED with the handle the stamp had. -/
def State.endRetirement (s : State) (i : StampSlot) : State :=
  let st := s.stamp i
  let freed := s.setStamp i st.freed
  match st.owner with
  | none => freed
  | some o => (freed.setOwned o (freed.ownedStamps.get o - 1)).handUnreserved o (.stampFreed ⟨i, st.gen⟩)

/-- A reference is released; a RETIRING stamp whose count falls to 0 becomes FREE in the same rule (R122, R123). -/
def State.releaseReference (s : State) (h : StampHandle) : State :=
  let st := s.stamp h.slot
  let lowered := s.setStamp h.slot { st with references := st.references - 1 }
  if st.state = .retiring ∧ st.references - 1 = 0 then lowered.endRetirement h.slot else lowered

/-- The reference of a job that names a stamp is released (R79). -/
def State.releaseStampOf (s : State) (j : Job) : State :=
  match j.op.stamp with
  | some h => s.releaseReference h
  | none => s

/-- A stamp of a link whose teardown starts: FREE without references, else RETIRING without owner (R125). -/
def Stamp.orphaned (st : Stamp) : Stamp :=
  if st.references = 0 then st.freed else { st with state := .retiring, owner := none }

/-- The stamp store at the start of a link's teardown (R125). -/
def State.orphanStamps (s : State) (l : Link) : State :=
  { s with stamps := s.stamps.map fun st => if st.owner = some l then st.orphaned else st,
           ownedStamps := s.ownedStamps.set l 0 }

end Sys2Proof.Machine
end

