-- ==== Sys2Proof/Machine/PagePool.lean ====
section
/-!
DEFINITION. The page pool and the scrub unit (file 02): allocation, release, scrubbing.
-/

namespace Sys2Proof.Machine

open Sys2Proof

/-- A page put into the free set, which is kept in ascending order (R26). -/
def insertPage (page : Nat) : List Nat → List Nat
  | [] => [page]
  | p :: ps => if page < p then page :: p :: ps else p :: insertPage page ps

/-- The scrub unit is BUSY whenever the scrub queue holds a page: the scrub of the oldest starts (R25). -/
def Pool.startScrub (p : Pool) : Pool := { p with busy := !p.scrub.isEmpty }

/-- The pool after n pages have been taken from the free set for a link (R29). -/
def Pool.allocate (p : Pool) (l : Link) (n : Nat) : Pool :=
  { p with free := p.free.drop n, held := p.held.set l (p.held.get l + n) }

/-- The pool after a window's pages have joined the tail of the scrub queue; the former owner's count falls (R33). -/
def Pool.release (p : Pool) (owner : Option Link) (pages : List Nat) (needed : Nat) : Pool :=
  let queued := { p with scrub := p.scrub ++ pages }.startScrub
  match owner with
  | some l => { queued with held := queued.held.set l (queued.held.get l - needed) }
  | none => queued

/-- A scrub completes: its page leaves the queue for the free set and the next scrub starts (R26). -/
def Pool.scrubDone (p : Pool) : Pool :=
  match p.scrub with
  | [] => p
  | page :: rest => { p with free := insertPage page p.free, scrub := rest }.startScrub

end Sys2Proof.Machine
end

