-- ==== Sys2Proof/Machine/Touch.lean ====
section
/-!
DEFINITION. The touch router (file 08): contact reports, the hit test, touch events and the cancelling of captures.
-/

namespace Sys2Proof.Machine

open Sys2Proof

/-! ### Contact reports -/

/-- An entry of a contact report (8.1). -/
structure ReportEntry where
  number : Nat
  x : Nat
  y : Nat
  deriving DecidableEq, Repr

/-- The entry that four bytes carry (R182). -/
def reportEntry (b0 b1 b2 b3 : Byte) : ReportEntry :=
  { number := b0.toNat, x := b1.toNat * 16 + b2.toNat / 16, y := b2.toNat % 16 * 256 + b3.toNat }

/-- The entries of a report; none when its length is not a whole number of entries (R127, R182). -/
def reportEntries : List Byte → Option (List ReportEntry)
  | [] => some []
  | b0 :: b1 :: b2 :: b3 :: rest => (reportEntries rest).map (reportEntry b0 b1 b2 b3 :: ·)
  | _ => none

/-- Every number is 0 to 4 and none appears twice (R127). -/
def entriesSound (es : List ReportEntry) : Bool :=
  es.all (fun e => decide (e.number ≤ 4)) && decide ((es.map ReportEntry.number).Nodup)

/-- The entries of a report that is not discarded (R127). -/
def takenReport (bytes : List Byte) : Option (List ReportEntry) :=
  match reportEntries bytes with
  | some es => if entriesSound es then some es else none
  | none => none

/-- A point clamped to the screen (R128). -/
def clamped (panel : BitVec 2) (e : ReportEntry) : Pos :=
  { x := min e.x (screenWidth panel - 1), y := min e.y (screenHeight panel - 1) }

/-- Where a report lists a contact; none when the contact is absent from it. -/
def presentAt (panel : BitVec 2) (es : List ReportEntry) (k : ContactNumber) : Option Pos :=
  (es.find? fun e => decide (e.number = k.val)).map (clamped panel)

/-! ### Positions and the hit test -/

/-- A latched entry covers a screen pixel (R50). -/
def Latched.covers (e : Latched) (sx sy : Int) : Bool :=
  decide (e.x ≤ sx) && decide (sx ≤ e.x + e.width - 1) && decide (e.y ≤ sy) && decide (sy ≤ e.y + e.height - 1)

/-- An entry meets the four conditions of the hit test (R131). Condition 4 takes an entry of a window that was hidden after the
latch and is SHOWN again (R43); R139's row on SHOW of a HIDDEN window speaks of one that is not in the frame record (DEDUCED,
log 27). -/
def State.hits (s : State) (p : Pos) (e : Latched) : Bool :=
  e.touch && decide (0 < e.weight) && e.covers p.x p.y && s.current e.handle
    && decide ((s.window e.handle.slot).state = .shown)

/-- The hit test: the topmost entry of the frame record that meets the conditions (R131). -/
def State.hitTest (s : State) (p : Pos) : Option Handle :=
  (s.scanout.record.reverse.find? (s.hits p)).map Latched.handle

/-- The origin that touch positions are measured from: the window's entry in the frame record (R133). A captured window
always has one (R132); without it the window record's position would be used (log 18). -/
def State.touchOrigin (s : State) (h : Handle) : Int × Int :=
  match s.scanout.record.find? fun e => decide (e.handle = h) with
  | some e => (e.x, e.y)
  | none => ((s.window h.slot).x, (s.window h.slot).y)

/-- A touch event of a contact on a window, at a screen position (R133). -/
def State.touchEvent (s : State) (kind : TouchKind) (k : ContactNumber) (h : Handle) (p : Pos) : Event :=
  .touch kind k h (p.x - (s.touchOrigin h).1) (p.y - (s.touchOrigin h).2)

/-- A touch event handed to the owner of the window it names (R134). -/
def State.handTouch (s : State) (kind : TouchKind) (k : ContactNumber) (h : Handle) (p : Pos) : State :=
  match (s.window h.slot).owner with
  | some o => s.handUnreserved o (s.touchEvent kind k h p)
  | none => s

/-! ### What a report does to a contact -/

/-- A SETTLING contact that is present goes down: the hit test, and TOUCH_DOWN to a capture's owner (R130, R131, R134). -/
def State.contactDown (s : State) (k : ContactNumber) (p : Pos) : State :=
  match s.hitTest p with
  | some h => (s.setContact k { state := .held, capture := some h, last := some p, lastSent := some p }).handTouch .down k h p
  | none => s.setContact k { state := .held, capture := none, last := some p, lastSent := none }

/-- A captured contact that is present: TOUCH_MOVE if the position differs from the last sent one (R130, R134). -/
def State.contactMove (s : State) (k : ContactNumber) (h : Handle) (p : Pos) : State :=
  let c := s.contact k
  if c.lastSent = some p then s.setContact k { c with last := some p }
  else (s.setContact k { c with last := some p, lastSent := some p }).handTouch .move k h p

/-- A captured contact that is absent: TOUCH_UP at the last position (R130, R134). A contact in NONE keeps no position
(log 25). -/
def State.contactUp (s : State) (k : ContactNumber) (h : Handle) : State :=
  let lifted := s.setContact k Contact.atReset
  match (s.contact k).last with
  | some p => lifted.handTouch .up k h p
  | none => lifted

/-- A report applied to one contact (R130). -/
def State.applyContact (s : State) (es : List ReportEntry) (k : ContactNumber) : State :=
  let c := s.contact k
  match c.state, presentAt s.pins.panel es k with
  | .none, some p => s.setContact k { c with state := .settling, last := some p }
  | .none, none => s
  | .settling, some p => s.contactDown k p
  | .settling, none => s.setContact k Contact.atReset
  | .held, some p =>
    match c.capture with
    | some h => s.contactMove k h p
    | none => s.setContact k { c with last := some p }
  | .held, none =>
    match c.capture with
    | some h => s.contactUp k h
    | none => s.setContact k Contact.atReset

/-- A report applied to the five contacts in ascending contact number (R130). -/
def State.applyReport (s : State) (es : List ReportEntry) : State :=
  (List.finRange 5).foldl (fun t k => t.applyContact es k) s

/-! ### Cancelling captures -/

/-- The capture of one contact is cancelled if it is on the window; `send` says whether TOUCH_CANCEL goes to the owner
(R136). -/
def State.cancelCapture (s : State) (h : Handle) (send : Bool) (k : ContactNumber) : State :=
  let c := s.contact k
  if c.capture = some h then
    let told := match send, c.last with
      | true, some p => s.handTouch .cancel k h p
      | _, _ => s
    told.setContact k { c with capture := none, lastSent := none }
  else s

/-- Every capture on a window is cancelled, in ascending contact number (R136). -/
def State.cancelCaptures (s : State) (h : Handle) (send : Bool) : State :=
  (List.finRange 5).foldl (fun t k => t.cancelCapture h send k) s

end Sys2Proof.Machine
end

