-- ==== Sys2Proof/Machine/WindowTable.lean ====
section
/-!
DEFINITION. The life of windows (file 01): the live stack's insertions, entering CLOSING, the release test and release, and
the teardown record that counts releases (11.1).
-/

namespace Sys2Proof.Machine

open Sys2Proof

/-! ### The teardown record -/

/-- The end test: a link in TEARDOWN with no window to release and no job pending returns to DOWN (R171, R172). -/
def State.endTest (s : State) (l : Link) : State :=
  let c := s.link l
  if c.state = .teardown ∧ c.toRelease = 0 ∧ c.jobPending = false then s.setLink l { c with state := .down } else s

/-- A window of the link has been released: windows to release falls by one and the end test is made (R169). -/
def State.reportRelease (s : State) (l : Link) : State :=
  (s.setLink l { s.link l with toRelease := (s.link l).toRelease - 1 }).endTest l

/-- The link's job in flight has ended: job pending becomes clear and the end test is made (R93, R169). -/
def State.reportJobEnd (s : State) (l : Link) : State :=
  (s.setLink l { s.link l with jobPending := false }).endTest l

/-! ### Release -/

/-- The record of a released window (R13, steps 1 and 2; its pages go to the pool in step 3). -/
def Window.released (w : Window) : Window :=
  { w with gen := w.gen + 1, state := .free, owner := none, flipPending := none, key := none, closeReason := none,
           buf0 := [], buf1 := [] }

/-- Release of a window (R13): its slot becomes FREE, its pages join the scrub queue, and WINDOW_CLOSED is queued on its
reservation, or the release is reported to the owner's teardown. -/
def State.release (s : State) (i : Slot) : State :=
  let w := s.window i
  let freed := (s.setWindow i w.released).setPool (s.pool.release w.owner (w.buf0 ++ w.buf1) w.pages)
  match w.owner, w.closeReason with
  | some o, some .owner => freed.handReserved o (.windowClosed ⟨i, w.gen⟩)
  | some o, some .teardown => freed.reportRelease o
  | _, _ => freed

/-- The release test: a CLOSING window off the glass and not named in flight is released (R12). -/
def State.releaseTest (s : State) (i : Slot) : State :=
  let w := s.window i
  if w.state = .closing ∧ w.onGlass = false ∧ s.namedInFlight ⟨i, w.gen⟩ = false then s.release i else s

/-! ### Entering CLOSING -/

/-- An abandon request on the job in flight when it names the window, ABANDONED for its target and SOURCE_LOST for its source
alone; one already set stays (R8, R88). So at the start of its owner's teardown too, whatever the last paragraph of R177 says of
the job's last row end (DEDUCED, log 32). -/
def InFlight.windowCloses (f : InFlight) (h : Handle) : InFlight :=
  if f.abandon.isSome then f
  else if f.job.op.target = some h then { f with abandon := some .abandoned }
  else if f.job.op.source = some h then { f with abandon := some .sourceLost }
  else f

/-- The record of a window that enters CLOSING: grants and flip pending are dropped; the on-glass mark stays (R8). -/
def Window.closed (w : Window) (reason : CloseReason) : Window :=
  { w with state := .closing, closeReason := some reason, grants := PerLink.all false, flipPending := none }

/-- The PRESENT whose flip is discarded at a close completes with CANCELLED, on its reservation (R65). -/
def State.cancelPresent (s : State) (w : Window) : State :=
  match w.flipPending, w.owner with
  | some f, some o => s.handReserved o (.jobFailed f.tag .cancelled)
  | _, _ => s

/-- A live window enters CLOSING (R8): it leaves the live stack, its grants and pending flip are dropped, its captures are
cancelled (with TOUCH_CANCEL when its owner closed it), the job in flight that names it is asked to end, and the release test
is made. -/
def State.enterClosing (s : State) (i : Slot) (reason : CloseReason) : State :=
  let w := s.window i
  let h : Handle := ⟨i, w.gen⟩
  let off := (s.setStack (s.stack.filter fun j => decide (j ≠ i))).setWindow i (w.closed reason)
  let told := (off.cancelPresent w).cancelCaptures h (decide (reason = .owner))
  (told.setEngine (told.engine.map fun f => f.windowCloses h)).releaseTest i

/-! ### The live stack -/

/-- The list with `x` inserted directly above the last element that `below` selects; at the bottom if none is. -/
def insertAbove (x : Slot) (below : Slot → Bool) : List Slot → List Slot
  | [] => [x]
  | y :: ys => if (y :: ys).any below then y :: insertAbove x below ys else x :: y :: ys

/-- The list with `x` inserted directly below `ref`. -/
def insertBelow (x ref : Slot) : List Slot → List Slot
  | [] => [x]
  | y :: ys => if y = ref then x :: y :: ys else y :: insertBelow x ref ys

/-- The placements of SHOW (R41); a relative one names its reference's slot. -/
inductive Placed where
  | topOfTier | bottomOfTier | above (ref : Slot) | below (ref : Slot)
  deriving DecidableEq, Repr

/-- The live stack with a window inserted at its placement, once the window itself is out of it (R41). -/
def State.placed (s : State) (i : Slot) (p : Placed) : List Slot :=
  let rest := s.stack.filter fun j => decide (j ≠ i)
  let tier := (s.window i).tier
  match p with
  | .topOfTier => insertAbove i (fun j => decide ((s.window j).tier ≤ tier)) rest
  | .bottomOfTier => insertAbove i (fun j => decide ((s.window j).tier < tier)) rest
  | .above ref => insertAbove i (fun j => decide (j = ref)) rest
  | .below ref => insertBelow i ref rest

end Sys2Proof.Machine
end

