-- ==== Sys2Proof/Machine/Jobs.lean ====
section
/-!
DEFINITION. Job queues and the draw arbiter (file 05): completion, the examination of heads, grants and start checks.
-/

namespace Sys2Proof.Machine

open Sys2Proof

/-! ### Completion -/

/-- How a job completes (R89, R90). -/
inductive Ending where
  | done
  | failed (status : Status)
  deriving DecidableEq, Repr

/-- The status of an abandon request (R88). -/
def Abandon.status : Abandon → Status
  | .abandoned => .abandoned
  | .sourceLost => .sourceLost

/-- The outcome of a job handed to its link's event queue on the job's reservation (R90). -/
def State.handOutcome (s : State) (l : Link) (j : Job) (e : Ending) (result : List Pixel) : State :=
  match e with
  | .failed status => s.handReserved l (.jobFailed j.tag status)
  | .done =>
    match j.op with
    | .read _ _ r => s.handReserved l (.readData j.tag r.w r.h result)
    | _ => if j.notify then s.handReserved l (.jobDone j.tag j.op.kind) else s.handSilent l

/-- The bytes that the staging count falls by at a completion: none for a READ that has queued READ_DATA (R78, R89). -/
def Job.stagingReleased (j : Job) (e : Ending) : Nat :=
  match e, j.op with
  | .done, .read _ _ _ => 0
  | _, op => op.staging

/-- Steps 1 to 4 of a completion (R89): the head leaves its queue, its outcome is handed over, its staging and its stamp
reference are released. The next entry is not yet examined. -/
def State.completeHead (s : State) (l : Link) (j : Job) (e : Ending) (result : List Pixel) : State :=
  let left := s.setQueue l { s.queue l with entries := (s.queue l).entries.tail, head := .empty }
  let told := left.handOutcome l j e result
  let unstaged := told.setQueue l { told.queue l with staging := (told.queue l).staging - j.stagingReleased e }
  unstaged.releaseStampOf j

/-- The slots of the windows that a job in flight names, in ascending order (R10, R89). -/
def InFlight.slots (f : InFlight) : List Slot :=
  (List.finRange 32).filter fun i =>
    decide (f.job.op.target.map Handle.slot = some i) || decide (f.job.op.source.map Handle.slot = some i)

/-- Completion of the job in flight (R89, R93): steps 1 to 4, its in-flight names lapse and the engine is idle, the release
test of each CLOSING window it named is made, and a link in TEARDOWN is told that its job has ended. -/
def State.completeInFlight (s : State) (f : InFlight) (e : Ending) : State :=
  let idle := (s.completeHead f.link f.job e f.result).setEngine none
  let tested := f.slots.foldl State.releaseTest idle
  if (tested.link f.link).state = .teardown then tested.reportJobEnd f.link else tested

/-! ### The head -/

/-- The head is held by its target's pending flip (R80, first case). -/
def State.waitsForFlip (s : State) (op : JobOp) : Bool :=
  match op.target with
  | some h => s.current h && (s.window h.slot).flipPending.isSome
  | none => false

/-- A PRESENT taken at the head: its flip is armed if its target is live, else it completes with TARGET_GONE (R63, R83; log
30 for a handle that 256 releases have made current again). -/
def State.takePresent (s : State) (l : Link) (j : Job) (h : Handle) : State :=
  if s.liveHandle h then
    let left := s.setQueue l { s.queue l with entries := (s.queue l).entries.tail, head := .empty }
    left.setWindow h.slot { left.window h.slot with flipPending := some ⟨j.tag, j.notify⟩ }
  else s.completeHead l j (.failed .targetGone) []

/-- Examination of a link's head (R80): WAIT_FLIP, or a MARK or PRESENT taken at once with the next entry examined in turn, or
ELIGIBLE. The list is the queue's entries. -/
def State.examine (s : State) (l : Link) : List Job → State
  | [] => s.setQueue l { s.queue l with head := .empty }
  | j :: rest =>
    if s.waitsForFlip j.op then s.setQueue l { s.queue l with head := .waitFlip }
    else
      match j.op with
      | .mark => (s.completeHead l j .done []).examine l rest
      | .present h => (s.takePresent l j h).examine l rest
      | _ => s.setQueue l { s.queue l with head := .eligible }

/-- A link's head is examined unless it is already ELIGIBLE or IN_FLIGHT (R80). -/
def State.examineHead (s : State) (l : Link) : State :=
  match (s.queue l).head with
  | .eligible => s
  | .inFlight => s
  | .empty => s.examine l (s.queue l).entries
  | .waitFlip => s.examine l (s.queue l).entries

/-! ### The draw arbiter -/

/-- The link that the arbiter's search reaches first among those with an ELIGIBLE head (R84). -/
def State.nextEligible (s : State) : Option Link :=
  (linksAfter s.lastServed).find? fun l => decide ((s.queue l).head = .eligible)

/-- The window record lets the link read it: its own, or one whose grants include the link (R76 test 5, R86 test 3). -/
def Window.readableBy (w : Window) (l : Link) : Bool := decide (w.owner = some l) || w.grants.get l

/-- The start checks (R86): the status a granted job fails with, if any. A handle that 256 releases have made current again passes
them (R1; DESIGN CHOICE, log 30). -/
def State.startFailure (s : State) (l : Link) (op : JobOp) : Option Status :=
  if op.target.any fun h => !s.liveHandle h then some .targetGone
  else if op.source.any fun h => !s.liveHandle h then some .sourceGone
  else if op.source.any fun h => !(s.window h.slot).readableBy l then some .denied
  else none

/-- The job in flight at its start: buffers resolved, row progress 0, no abandon request (R86, R94). -/
def State.startedJob (s : State) (l : Link) (j : Job) : InFlight :=
  s.beginRow
    { link := l, job := j, abandon := none, progress := 0, writePages := s.writeBufferOf j.op,
      readPages := s.readBufferOf l j.op, rowStore := [], result := [] }

/-- The arbiter's grants (R84, R86): while the engine is idle and some head is ELIGIBLE, the first such link in search order is
granted the engine; a job that fails its start checks completes at once and the search goes on after its link. The first
argument bounds the number of grants; the number of queued jobs is enough. -/
def State.grants : Nat → State → State
  | 0, s => s
  | n + 1, s =>
    match s.engine, s.nextEligible with
    | none, some l =>
      match (s.queue l).entries with
      | [] => s
      | j :: _ =>
        let granted := { s with lastServed := l }.setQueue l { s.queue l with head := .inFlight }
        match granted.startFailure l j.op with
        | some status => State.grants n ((granted.completeHead l j (.failed status) []).examineHead l)
        | none => granted.setEngine (some (granted.startedJob l j))
    | _, _ => s

/-- The number of queued jobs of the part. -/
def State.queuedJobs (s : State) : Nat := (allLinks.map fun l => (s.queue l).entries.length).sum

/-- The arbiter grants the engine as long as it can (R84). -/
def State.arbitrate (s : State) : State := s.grants s.queuedJobs

/-- The end of a rule that may free a head: the link's head is examined, then the arbiter grants (R80, R84, R89). -/
def State.schedule (s : State) (l : Link) : State := (s.examineHead l).arbitrate

/-- The end of a rule that may free the heads of several links: each is examined, links A to D, and the arbiter grants once they
all have been (R80, R81, R84; DEDUCED, log 15). A head that still waits for its flip, is ELIGIBLE or IN_FLIGHT stays so. -/
def State.scheduleAll (s : State) : State := (allLinks.foldl State.examineHead s).arbitrate

/-- A row end (R88, R89, R95): the row is worked, and the job completes if an abandon request is set or the row was its last;
otherwise the next row begins. -/
def State.endRow (s : State) (f : InFlight) : State :=
  let drawn := s.drawRow f
  let ended := f.rowEnded
  match f.abandon with
  | some a => (drawn.completeInFlight ended (.failed a.status)).schedule f.link
  | none =>
    if f.height ≤ ended.progress then (drawn.completeInFlight ended .done).schedule f.link
    else drawn.setEngine (some (drawn.beginRow ended))

/-! ### The start of a teardown -/

/-- The entry that stays in a link's queue at the start of its teardown: the job in flight (R92). -/
def State.keptEntries (s : State) (l : Link) : List Job :=
  match (s.queue l).head with
  | .inFlight => (s.queue l).entries.take 1
  | .empty => []
  | .waitFlip => []
  | .eligible => []

/-- The entries that leave a link's queue at the start of its teardown (R92). -/
def State.droppedEntries (s : State) (l : Link) : List Job :=
  (s.queue l).entries.drop (s.keptEntries l).length

/-- The abandon request of the link's own teardown, which keeps a status already set (R88, R92). -/
def InFlight.linkEnds (f : InFlight) (l : Link) : InFlight :=
  if f.link = l ∧ f.abandon = none then { f with abandon := some .abandoned } else f

/-- The job queue at the start of its link's teardown (R92): every entry except a job in flight is removed, oldest first, its
staging and stamp reference released; the link's job in flight is asked to end. -/
def State.dropJobs (s : State) (l : Link) : State :=
  let gone := s.droppedEntries l
  let kept := s.keptEntries l
  let emptied := s.setQueue l
    { entries := kept, head := if kept = [] then .empty else .inFlight,
      staging := (s.queue l).staging - (gone.map fun j => j.op.staging).sum }
  let released := gone.foldl State.releaseStampOf emptied
  released.setEngine (released.engine.map fun f => f.linkEnds l)

end Sys2Proof.Machine
end

