-- ==== Sys2Proof/Machine/Links.lean ====
section
/-!
DEFINITION. The link controllers (files 10 and 11): responses, the transmitter, the start of a teardown, and what becomes of
a sound inbound frame; and the bytes of outbound frames (file 12).
-/

namespace Sys2Proof.Machine

open Sys2Proof

/-! ### Responses -/

/-- A response joins the tail of the backlog (R159). -/
def LinkCtl.answer (c : LinkCtl) (r : Response) : LinkCtl := { c with backlog := c.backlog ++ [r] }

/-- The response cache with one more entry: at most 4, the oldest leaves (R158). -/
def cached (cache : List (Byte × Response)) (e : Byte × Response) : List (Byte × Response) :=
  (cache ++ [e]).drop ((cache ++ [e]).length - Config.backlogLimit)

/-- A response with the link's expected sequence as it now stands (R181). -/
def LinkCtl.response (c : LinkCtl) (code seq : Byte) (status : Status) (result : Result) : Response :=
  { code := code, seq := seq, status := status, expected := c.expected, result := result }

/-- The backlog holds 4 responses (R159). -/
def LinkCtl.backlogFull (c : LinkCtl) : Bool := decide (Config.backlogLimit ≤ c.backlog.length)

/-- A response outside the sequence, which never enters the cache; discarded when the backlog is full (R154, R155, R156). -/
def State.answerOutside (s : State) (l : Link) (code seq : Byte) (status : Status) : State :=
  if (s.link l).backlogFull then s
  else s.setLink l ((s.link l).answer ((s.link l).response code seq status .none))

/-- An executed command's outcome: the expected sequence rises, and the response, which shows the new value, joins the backlog
and the cache (R157, R158, R181). -/
def LinkCtl.executed (c : LinkCtl) (seq code : Byte) (status : Status) (result : Result) : LinkCtl :=
  let advanced := { c with expected := c.expected + 1 }
  let r := advanced.response code seq status result
  { advanced.answer r with cache := cached c.cache (seq, r) }

/-- The cached response of a sequence number (R157). -/
def LinkCtl.cachedFor (c : LinkCtl) (seq : Byte) : Option Response :=
  (c.cache.find? fun e => decide (e.1 = seq)).map Prod.snd

/-- The lease is renewed: a running timer starts again from zero (R166). -/
def LinkCtl.renewed (c : LinkCtl) : LinkCtl := { c with timer := c.timer.map fun _ => 0 }

/-! ### The transmitter -/

/-- The transmitter of a link chooses when it is idle: the oldest response, else the oldest unsent record when the link is UP
and fewer than 8 are unacknowledged (R146, R160). -/
def State.transmit (s : State) (l : Link) : State :=
  let c := s.link l
  match c.tx with
  | .idle =>
    match c.backlog with
    | r :: rest => s.setLink l { c with tx := .response r, backlog := rest }
    | [] =>
      if c.state = .up ∧ (s.eventsOf l).sentCount < Config.sentLimit then
        match takeUnsent (s.eventsOf l).records with
        | some (e, records) =>
          (s.setLink l { c with tx := .event e }).setEvents l
            { s.eventsOf l with records := records, sentCount := (s.eventsOf l).sentCount + 1 }
        | none => s
      else s
  | .response _ => s
  | .event _ => s

/-- Every link's transmitter chooses, at the end of a rule that may reach any link (log 14). -/
def State.transmitAll (s : State) : State := allLinks.foldl State.transmit s

/-! ### The start of a teardown -/

/-- The number of windows a link owns in state HIDDEN, SHOWN or CLOSING (R169). -/
def State.ownedWindows (s : State) (l : Link) : Nat :=
  (List.finRange 32).countP fun i => decide ((s.window i).owner = some l) && decide ((s.window i).state ≠ .free)

/-- The controller at the start of its link's teardown, with the teardown record set (R169, R170 steps 1 and 2). -/
def LinkCtl.torn (c : LinkCtl) (reason : EndReason) (windows : Nat) (job : Bool) : LinkCtl :=
  { c with state := .teardown, lastEnd := reason, timer := none, goodbye := false, backlog := [], cache := [],
           toRelease := windows, jobPending := job }

/-- The job in the draw engine belongs to the link (R169). -/
def State.ownsEngine (s : State) (l : Link) : Bool := s.engine.any fun f => decide (f.link = l)

/-- The event queue at the start of its link's teardown: emptied, the staging of its READ_DATA records returned (R151, R170
step 3). -/
def State.dropEvents (s : State) (l : Link) : State :=
  (s.setQueue l { s.queue l with staging := (s.queue l).staging - recordsStaging (s.eventsOf l).records }).setEvents l
    (s.eventsOf l).emptied

/-- A window record of another owner loses the link from its grant set (R21). -/
def Window.withoutGrant (w : Window) (l : Link) : Window :=
  if w.owner = some l then w else { w with grants := w.grants.set l false }

/-- One window at the start of a link's teardown: a live one of the link enters CLOSING, and one already CLOSING takes the
reason TEARDOWN (R9, R21). -/
def State.teardownWindow (l : Link) (s : State) (i : Slot) : State :=
  let w := s.window i
  if w.owner = some l then
    if w.live then s.enterClosing i .teardown
    else if w.state = .closing then s.setWindow i { w with closeReason := some .teardown }
    else s
  else s

/-- The window table at the start of a link's teardown (R21, R170 step 6). -/
def State.teardownWindows (s : State) (l : Link) : State :=
  (List.finRange 32).foldl (State.teardownWindow l) { s with windows := s.windows.map fun w => w.withoutGrant l }

/-- The start of a link's teardown, in the order of R170. -/
def State.startTeardown (s : State) (l : Link) (reason : EndReason) : State :=
  let torn := s.setLink l ((s.link l).torn reason (s.ownedWindows l) (s.ownsEngine l))
  ((((torn.dropEvents l).dropJobs l).orphanStamps l).teardownWindows l).endTest l

/-- The end of a link's session: its teardown starts, and every head that the flip of a closing window held is examined (R81;
DEDUCED, log 31: such a head is another link's, the link's own queue being emptied). -/
def State.endSession (s : State) (l : Link) (reason : EndReason) : State := (s.startTeardown l reason).scheduleAll

/-! ### Inbound frames -/

/-- What the block that owns a command answers: the state it leaves, the status and the result fields (10.3). -/
structure Reply where
  state : State
  status : Status
  result : Result

/-- A refusal: the state stays. -/
def Reply.refuse (s : State) (status : Status) : Reply := ⟨s, status, .none⟩

/-- An answer without result fields. -/
def Reply.answer (s : State) (status : Status) : Reply := ⟨s, status, .none⟩

/-- An executed command: its block's reply is answered on the link (R157, R158). -/
def Reply.deliver (r : Reply) (l : Link) (seq code : Byte) : State :=
  r.state.setLink l ((r.state.link l).executed seq code r.status r.result)

/-- A sound frame on an UP link without goodbye pending and with room in the backlog, after it has renewed the lease: the
expected sequence is executed, a cached one answered from the cache, any other answered SEQUENCE_ERROR (R157). -/
def State.takeSequenced (s : State) (l : Link) (seq code : Byte) (body : State → Reply) : State :=
  let c := s.link l
  if seq = c.expected then (body s).deliver l seq code
  else
    match c.cachedFor seq with
    | some r => s.setLink l (c.answer r)
    | none => s.setLink l (c.answer (c.response code seq .sequenceError .none))

/-- A sound frame on an UP link (R154's table): discarded while goodbye is pending, a protocol fault while the backlog is
full, else it renews the lease and is decided by its sequence number (R157, R159, R162, R166). -/
def State.takeUp (s : State) (l : Link) (seq code : Byte) (body : State → Reply) : State :=
  let c := s.link l
  if c.goodbye then s
  else if c.backlogFull then (s.endSession l .fault).transmitAll
  else (s.setLink l c.renewed).takeSequenced l seq code body

/-- A sound frame that carries any command but HELLO (R154's table, R155, R156). -/
def State.takeFrame (s : State) (l : Link) (seq code : Byte) (body : State → Reply) : State :=
  match (s.link l).state with
  | .down => s.answerOutside l code seq .notAttached
  | .teardown => s.answerOutside l code seq .notAttached
  | .up => s.takeUp l seq code body

/-- The meaning of a framed command: nothing is taken while RESET_N is low (R152), and at the end of the rule the link's
transmitter chooses (R160, log 14). -/
def State.command (s : State) (l : Link) (seq code : Byte) (body : State → Reply) : State :=
  if s.resetN then (s.takeFrame l seq code body).transmit l else s

/-- The meaning of a framed command whose rule may end jobs (CLOSE_WINDOW, SUBMIT): a stamp reference that such a job releases
may hand STAMP_FREED to another link (R89, R123), so every link's transmitter chooses (R160, log 14). -/
def State.commandAll (s : State) (l : Link) (seq code : Byte) (body : State → Reply) : State :=
  if s.resetN then (s.takeFrame l seq code body).transmitAll else s

/-! ### Outbound frames -/

/-- Status codes (12.6). -/
def Status.code : Status → Byte
  | .ok => 0x00
  | .accepted => 0x01
  | .freed => 0x02
  | .retiring => 0x03
  | .checkFailed => 0x10
  | .sequenceError => 0x11
  | .notAttached => 0x12
  | .retryLater => 0x13
  | .wrongState => 0x20
  | .badCommand => 0x21
  | .badParam => 0x22
  | .staleHandle => 0x23
  | .notOwner => 0x24
  | .denied => 0x25
  | .outOfBounds => 0x26
  | .tierDenied => 0x27
  | .noWindowSlot => 0x30
  | .quota => 0x31
  | .poolFull => 0x32
  | .poolBusy => 0x33
  | .stampFull => 0x34
  | .stampInUse => 0x35
  | .stampRetiring => 0x36
  | .queueFull => 0x37
  | .stagingFull => 0x38
  | .eventsFull => 0x39
  | .badAck => 0x3A
  | .done => 0x40
  | .targetGone => 0x41
  | .sourceGone => 0x42
  | .abandoned => 0x43
  | .sourceLost => 0x44
  | .cancelled => 0x45

/-- Last end reason codes (12.3). -/
def EndReason.code : EndReason → Byte
  | .reset => 0
  | .goodbye => 1
  | .lease => 2
  | .fault => 3

/-- Job kind codes (12.5). -/
def JobKind.code : JobKind → Byte
  | .fill => 1
  | .copy => 2
  | .tile => 3
  | .stampExpand => 4
  | .maskExpand => 5
  | .write => 6
  | .read => 7
  | .present => 8
  | .mark => 9

/-- A flag as a byte. -/
def flagByte (b : Bool) : Byte := if b then 1 else 0

/-- A 16-bit count. -/
def countBytes (n : Nat) : List Byte := bytesOf16 (BitVec.ofNat 16 n)

/-- A signed 16-bit quantity, two's complement (R179). -/
def signedBytes (i : Int) : List Byte := bytesOf16 (BitVec.ofInt 16 i)

/-- A window handle's two bytes (R179). -/
def Handle.bytes (h : Handle) : List Byte := [BitVec.ofNat 8 h.slot.val, h.gen]

/-- A stamp handle's two bytes (R179). -/
def StampHandle.bytes (h : StampHandle) : List Byte := [BitVec.ofNat 8 h.slot.val, h.gen]

/-- A link set's byte: bit 0 for A to bit 3 for D (R179, log 12). -/
def linkSetByte (g : LinkSet) : Byte :=
  BitVec.ofNat 8 (g.A.toNat + 2 * g.B.toNat + 4 * g.C.toNat + 8 * g.D.toNat)

/-- The flags byte of WINDOW_INFO (12.3). -/
def InfoReport.flags (r : InfoReport) : Byte :=
  BitVec.ofNat 8 (r.key.isSome.toNat + 2 * r.touch.toNat + 4 * r.flipTag.isSome.toNat + 8 * r.onGlass.toNat)

/-- The owner byte of WINDOW_INFO; a live window always has an owner (1.3). -/
def ownerByte : Option Link → Byte
  | some l => linkCode l
  | none => 0

/-- Result fields, from offset 2 of a response payload (12.3). -/
def Result.bytes : Result → List Byte
  | .none => []
  | .hello l e panel policyOpen tier3 lease =>
    [linkCode l, e.code, panel.setWidth 8, flagByte policyOpen, flagByte tier3, 0] ++ countBytes lease
  | .window h => h.bytes
  | .stamp h => h.bytes
  | .status r =>
    countBytes r.freePages ++ countBytes r.scrubBacklog ++ bytesOf32 r.frameNumber ++
      [r.panel.setWidth 8, flagByte r.policyOpen] ++ countBytes r.heldPages ++
      [BitVec.ofNat 8 r.ownedStamps, BitVec.ofNat 8 r.queuedJobs] ++ countBytes r.stagingBytes ++
      [BitVec.ofNat 8 r.queuedEvents, BitVec.ofNat 8 r.reservations]
  | .info r =>
    [if r.shown then 2 else 1, ownerByte r.owner] ++ countBytes r.width ++ countBytes r.height ++ signedBytes r.x ++
      signedBytes r.y ++ [BitVec.ofNat 8 r.tier, if r.buffering = .double then 1 else 0, BitVec.ofNat 8 r.weight, r.flags] ++
      bytesOf16 (r.key.getD 0) ++ [if r.front = .one then 1 else 0, linkSetByte r.grants] ++ bytesOf16 (r.flipTag.getD 0)

/-- A response's payload: the status code, the expected sequence, the result fields (12.3). -/
def Response.payload (r : Response) : List Byte := r.status.code :: r.expected :: r.result.bytes

/-- The response frame on the outbound lane (R178, R181). -/
def Response.frame (r : Response) : List Byte := frameBytes 0x02#8 r.code (be16 0#8 r.seq) r.payload

/-- Event kind codes (12.4). -/
def Event.code : Event → Byte
  | .jobDone _ _ => 0x01
  | .jobFailed _ _ => 0x02
  | .readData _ _ _ _ => 0x03
  | .presented _ _ => 0x04
  | .frame _ _ => 0x05
  | .touch .down _ _ _ _ => 0x06
  | .touch .move _ _ _ _ => 0x07
  | .touch .up _ _ _ _ => 0x08
  | .touch .cancel _ _ _ _ => 0x09
  | .windowClosed _ => 0x0A
  | .stampFreed _ => 0x0B
  | .lostEvents _ => 0x0C

/-- Event payloads (12.4). -/
def Event.payload : Event → List Byte
  | .jobDone tag kind => bytesOf16 tag ++ [kind.code]
  | .jobFailed tag status => bytesOf16 tag ++ [status.code]
  | .readData tag w h pixels => bytesOf16 tag ++ countBytes w ++ countBytes h ++ pixels.flatMap bytesOf16
  | .presented tag n => bytesOf16 tag ++ bytesOf32 n
  | .frame n count => bytesOf32 n ++ countBytes count
  | .touch _ k w x y => [BitVec.ofNat 8 k.val, 0] ++ w.bytes ++ signedBytes x ++ signedBytes y
  | .windowClosed w => w.bytes
  | .stampFreed st => st.bytes
  | .lostEvents count => countBytes count

/-- The event frame on the outbound lane (R178). -/
def EventRecord.frame (r : EventRecord) : List Byte := frameBytes 0x03#8 r.event.code r.seq r.event.payload

/-- The frame the transmitter is sending, as bytes; none while it is idle (R160, R178). -/
def Transmitter.bytes : Transmitter → Option (List Byte)
  | .idle => none
  | .response r => some r.frame
  | .event e => some e.frame

end Sys2Proof.Machine
end

