-- ==== Sys2Proof/Machine/Operands.lean ====
section
/-!
DEFINITION. The fields of command payloads (file 12, sections 12.2 and 12.5): each reader answers none exactly where test 1 of
its command refuses with BAD_PARAM (R179). Surplus bytes after the fixed fields are ignored, and reserved bits are not tested
(R179, R180). And the job record as a host lays it out.
-/

namespace Sys2Proof.Machine

open Sys2Proof

/-! ### Fields -/

/-- A one-byte unsigned field. -/
def field8 (p : List Byte) (i : Nat) : Nat := (p.getD i 0).toNat

/-- A two-byte field, most significant byte first (R179). -/
def field16 (p : List Byte) (i : Nat) : BitVec 16 := be16 (p.getD i 0) (p.getD (i + 1) 0)

/-- A two-byte unsigned field. -/
def fieldNat (p : List Byte) (i : Nat) : Nat := (field16 p i).toNat

/-- A two-byte signed field (R179). -/
def fieldInt (p : List Byte) (i : Nat) : Int := (field16 p i).toInt

/-- A window handle: slot number first, then generation; a slot above 31 fails the field check (R1, R179). -/
def windowHandle (p : List Byte) (i : Nat) : Option Handle :=
  if h : field8 p i < 32 then some ⟨⟨field8 p i, h⟩, p.getD (i + 1) 0⟩ else none

/-- A stamp handle; a slot above 191 fails the field check (R115, R179). -/
def stampHandle (p : List Byte) (i : Nat) : Option StampHandle :=
  if h : field8 p i < 192 then some ⟨⟨field8 p i, h⟩, p.getD (i + 1) 0⟩ else none

/-- A field coded 0 or 1. -/
def binaryField (p : List Byte) (i : Nat) : Option Bool :=
  match field8 p i with
  | 0 => some false
  | 1 => some true
  | _ => none

/-- A window position coordinate, −2048 to 2047 (1.1). -/
def position (p : List Byte) (i : Nat) : Option Int :=
  if -2048 ≤ fieldInt p i ∧ fieldInt p i ≤ 2047 then some (fieldInt p i) else none

/-- A number with both ends of its range. -/
def ranged (lo hi n : Nat) : Option Nat := if lo ≤ n ∧ n ≤ hi then some n else none

/-- The value where a payload is at least as long as its fixed fields (R179). -/
def atLeast {α : Type} (n : Nat) (p : List Byte) (x : Option α) : Option α := if n ≤ p.length then x else none

/-! ### Link and event commands -/

/-- HELLO's lease, 10 to 2000 ms (R161). -/
def helloLease (p : List Byte) : Option Nat := atLeast 2 p (ranged 10 2000 (fieldNat p 0))

/-- SET_NOTIFY's field (R164). -/
def notifyField (p : List Byte) : Option Bool := atLeast 1 p (binaryField p 0)

/-- ACK_EVENTS' seq (R147). -/
def ackField (p : List Byte) : Option Half := atLeast 2 p (some (field16 p 0))

/-! ### Window commands -/

/-- The fields of OPEN_WINDOW (1.4). -/
structure OpenRequest where
  width : Nat
  height : Nat
  x : Int
  y : Int
  tier : Nat
  buffering : Buffering
  deriving DecidableEq, Repr

/-- A buffering field: 0 SINGLE, 1 DOUBLE (12.2). -/
def bufferingField (p : List Byte) (i : Nat) : Option Buffering :=
  (binaryField p i).map fun b => if b then .double else .single

/-- The fields of OPEN_WINDOW (1.4, 12.2). -/
def openRequest (p : List Byte) : Option OpenRequest :=
  atLeast 10 p do
    let width ← ranged 1 1024 (fieldNat p 0)
    let height ← ranged 1 1024 (fieldNat p 2)
    let x ← position p 4
    let y ← position p 6
    let tier ← ranged 0 3 (field8 p 8)
    let buffering ← bufferingField p 9
    pure ⟨width, height, x, y, tier, buffering⟩

/-- The handle field of CLOSE_WINDOW, HIDE and WINDOW_INFO (12.2). -/
def handleField (p : List Byte) : Option Handle := atLeast 2 p (windowHandle p 0)

/-- The fields of MOVE_WINDOW (1.7, 12.2). -/
def moveRequest (p : List Byte) : Option (Handle × Int × Int) :=
  atLeast 6 p do
    let h ← windowHandle p 0
    let x ← position p 2
    let y ← position p 4
    pure (h, x, y)

/-- The fields of SET_LOOK (1.7, 12.2): handle, weight, key colour; a key colour sent with key present 0 is discarded
(R16). -/
def lookRequest (p : List Byte) : Option (Handle × Nat × Option Pixel) :=
  atLeast 6 p do
    let h ← windowHandle p 0
    let weight ← ranged 0 16 (field8 p 2)
    let keyed ← binaryField p 3
    pure (h, weight, if keyed then some (field16 p 4) else none)

/-- The fields of SET_TOUCH (1.7, 12.2). -/
def touchRequest (p : List Byte) : Option (Handle × Bool) :=
  atLeast 3 p do
    let h ← windowHandle p 0
    let on ← binaryField p 2
    pure (h, on)

/-- A link set: bit 0 for A to bit 3 for D; bits 4 to 7 are ignored (R179, R180; log 12). -/
def linkSet (b : Byte) : LinkSet := ⟨b.getLsbD 0, b.getLsbD 1, b.getLsbD 2, b.getLsbD 3⟩

/-- The fields of GRANT (1.7, 12.2). -/
def grantRequest (p : List Byte) : Option (Handle × LinkSet) :=
  atLeast 3 p do
    let h ← windowHandle p 0
    pure (h, linkSet (p.getD 2 0))

/-- The placement of a SHOW with its reference's handle; the band placements discard the reference field (R42, 12.2). -/
inductive Placement where
  | topOfTier | bottomOfTier | above (ref : Handle) | below (ref : Handle)
  deriving DecidableEq, Repr

/-- The placement and reference fields of SHOW (12.2). -/
def placementField (p : List Byte) : Option Placement :=
  match field8 p 2 with
  | 0 => some .topOfTier
  | 1 => some .bottomOfTier
  | 2 => (windowHandle p 3).map .above
  | 3 => (windowHandle p 3).map .below
  | _ => none

/-- The fields of SHOW (3.2, 12.2). -/
def showRequest (p : List Byte) : Option (Handle × Placement) :=
  atLeast 5 p do
    let h ← windowHandle p 0
    let pl ← placementField p
    pure (h, pl)

/-! ### The job record (12.5) -/

/-- The job record's fixed part is 32 bytes; the inline data follows (12.5). -/
def inlineData (p : List Byte) : List Byte := p.drop 32

/-- The rectangle: x, y 0 to 1023, width and height 1 to 1024 (5.1). -/
def rectField (p : List Byte) : Option Rect := do
  let x ← ranged 0 1023 (fieldNat p 6)
  let y ← ranged 0 1023 (fieldNat p 8)
  let w ← ranged 1 1024 (fieldNat p 10)
  let h ← ranged 1 1024 (fieldNat p 12)
  pure ⟨x, y, w, h⟩

/-- The combine, with the weight of a BLEND, 0 to 16 (R75, 12.5). -/
def combineField (p : List Byte) : Option Combine :=
  match field8 p 17 with
  | 0 => some .replace
  | 1 => some .and
  | 2 => some .or
  | 3 => some .xor
  | 4 => some .invertDest
  | 5 => some .sourceInvert
  | 6 => some .andInverted
  | 7 => (ranged 0 16 (field8 p 18)).map .blend
  | _ => none

/-- The buffer select: 0 SHOWN, 1 DRAWING (12.5). -/
def selectField (p : List Byte) : Option BufferSelect :=
  (binaryField p 16).map fun b => if b then .drawing else .shown

/-- A bit of the flags byte (12.5): 0 notify on, 1 skip colour present, 2 bg present. -/
def flagBit (p : List Byte) (i : Nat) : Bool := (p.getD 1 0).getLsbD i

/-- The skip colour, when flag bit 1 is set (12.5). -/
def skipField (p : List Byte) : Option Pixel := if flagBit p 1 then some (field16 p 28) else none

/-- bg, when flag bit 2 is set (12.5). -/
def bgField (p : List Byte) : Option Pixel := if flagBit p 2 then some (field16 p 26) else none

/-- The pixels of inline data, two bytes each, most significant first (R179). -/
def inlinePixels : List Byte → List Pixel
  | hi :: lo :: rest => be16 hi lo :: inlinePixels rest
  | _ => []

/-- The value where a condition of well-formedness holds (R75). -/
def onlyIf {α : Type} (c : Bool) (x : Option α) : Option α := if c then x else none

/-- A COPY's fields (12.5). -/
def copyField (p : List Byte) : Option JobOp := do
  let t ← windowHandle p 4
  let r ← rectField p
  let src ← windowHandle p 14
  let sel ← selectField p
  let sx ← ranged 0 1023 (fieldNat p 20)
  let sy ← ranged 0 1023 (fieldNat p 22)
  let c ← combineField p
  pure (.copy t r src sel sx sy c (skipField p))

/-- The kind with its fields, where the job is well formed for its kind (R75, 12.5). -/
def jobOpField (p : List Byte) : Option JobOp :=
  match field8 p 0 with
  | 1 => onlyIf (inlineData p).isEmpty do
      let t ← windowHandle p 4
      let r ← rectField p
      let c ← combineField p
      pure (.fill t r (field16 p 24) c)
  | 2 => onlyIf (inlineData p).isEmpty (copyField p)
  | 3 => onlyIf (inlineData p).isEmpty do
      let t ← windowHandle p 4
      let r ← rectField p
      let st ← stampHandle p 30
      let c ← combineField p
      pure (.tile t r st c (skipField p))
  | 4 => onlyIf (inlineData p).isEmpty do
      let t ← windowHandle p 4
      let r ← rectField p
      let st ← stampHandle p 30
      onlyIf (decide (r.w ≤ 16) && decide (r.h ≤ 16)) (some (.stampExpand t r st (field16 p 24) (bgField p)))
  | 5 => do
      let t ← windowHandle p 4
      let r ← rectField p
      onlyIf (decide ((inlineData p).length = r.h * maskRowBytes r.w) && decide ((inlineData p).length ≤ 4096))
        (some (.maskExpand t r (field16 p 24) (bgField p) (inlineData p)))
  | 6 => do
      let t ← windowHandle p 4
      let r ← rectField p
      let c ← combineField p
      onlyIf (decide (r.w * r.h ≤ 2048) && decide ((inlineData p).length = 2 * r.w * r.h))
        (some (.write t r c (skipField p) (inlinePixels (inlineData p))))
  | 7 => onlyIf (inlineData p).isEmpty do
      let src ← windowHandle p 14
      let sel ← selectField p
      let r ← rectField p
      onlyIf (decide (r.w * r.h ≤ 2048)) (some (.read src sel r))
  | 8 => onlyIf (inlineData p).isEmpty ((windowHandle p 4).map .present)
  | 9 => onlyIf (inlineData p).isEmpty (some .mark)
  | _ => none

/-- The job of a SUBMIT, where it is well formed (R75). -/
def jobRequest (p : List Byte) : Option Job :=
  atLeast 32 p ((jobOpField p).map fun op => ⟨field16 p 2, flagBit p 0, op⟩)

/-! ### The job record as a host lays it out -/

/-- The code and weight bytes of a combine (12.5). -/
def Combine.bytes : Combine → Byte × Byte
  | .replace => (0, 0)
  | .and => (1, 0)
  | .or => (2, 0)
  | .xor => (3, 0)
  | .invertDest => (4, 0)
  | .sourceInvert => (5, 0)
  | .andInverted => (6, 0)
  | .blend w => (7, BitVec.ofNat 8 w)

/-- The fields of a job record, 12.5, each zero where the kind does not carry it. -/
structure JobRecord where
  kind : Byte
  flags : Byte
  tag : Half
  target : Byte × Byte
  rect : Rect
  source : Byte × Byte
  select : Byte
  combine : Byte × Byte
  sx : Nat
  sy : Nat
  colour : Pixel
  bg : Pixel
  skip : Pixel
  stamp : Byte × Byte
  inline : List Byte
  deriving DecidableEq, Repr

/-- The bytes of a job record (12.5). -/
def JobRecord.bytes (r : JobRecord) : List Byte :=
  [r.kind, r.flags, hiByte r.tag, loByte r.tag, r.target.1, r.target.2,
   hiByte (BitVec.ofNat 16 r.rect.x), loByte (BitVec.ofNat 16 r.rect.x),
   hiByte (BitVec.ofNat 16 r.rect.y), loByte (BitVec.ofNat 16 r.rect.y),
   hiByte (BitVec.ofNat 16 r.rect.w), loByte (BitVec.ofNat 16 r.rect.w),
   hiByte (BitVec.ofNat 16 r.rect.h), loByte (BitVec.ofNat 16 r.rect.h),
   r.source.1, r.source.2, r.select, r.combine.1, r.combine.2, 0,
   hiByte (BitVec.ofNat 16 r.sx), loByte (BitVec.ofNat 16 r.sx),
   hiByte (BitVec.ofNat 16 r.sy), loByte (BitVec.ofNat 16 r.sy),
   hiByte r.colour, loByte r.colour, hiByte r.bg, loByte r.bg, hiByte r.skip, loByte r.skip,
   r.stamp.1, r.stamp.2] ++ r.inline

/-- The two bytes of a window handle. -/
def Handle.pair (h : Handle) : Byte × Byte := (BitVec.ofNat 8 h.slot.val, h.gen)

/-- The two bytes of a stamp handle. -/
def StampHandle.pair (h : StampHandle) : Byte × Byte := (BitVec.ofNat 8 h.slot.val, h.gen)

/-- The code of a buffer select (12.5). -/
def BufferSelect.code : BufferSelect → Byte
  | .shown => 0
  | .drawing => 1

/-- The flags byte (12.5). -/
def flagsByte (notify skip bg : Bool) : Byte := BitVec.ofNat 8 (notify.toNat + 2 * skip.toNat + 4 * bg.toNat)

/-- A job record with every field zero but the tag and the notify flag. -/
def JobRecord.blank (tag : Half) (notify : Bool) : JobRecord :=
  { kind := 0, flags := flagsByte notify false false, tag := tag, target := (0, 0), rect := ⟨0, 0, 0, 0⟩, source := (0, 0),
    select := 0, combine := (0, 0), sx := 0, sy := 0, colour := 0, bg := 0, skip := 0, stamp := (0, 0), inline := [] }

/-- The record of a job as a host lays it out (12.5). -/
def Job.record (j : Job) : JobRecord :=
  let b := JobRecord.blank j.tag j.notify
  match j.op with
  | .fill t r colour c => { b with kind := 1, target := t.pair, rect := r, colour := colour, combine := c.bytes }
  | .copy t r src sel sx sy c skip =>
    { b with kind := 2, target := t.pair, rect := r, source := src.pair, select := sel.code, sx := sx, sy := sy,
             combine := c.bytes, skip := skip.getD 0, flags := flagsByte j.notify skip.isSome false }
  | .tile t r st c skip =>
    { b with kind := 3, target := t.pair, rect := r, stamp := st.pair, combine := c.bytes, skip := skip.getD 0,
             flags := flagsByte j.notify skip.isSome false }
  | .stampExpand t r st fg bg =>
    { b with kind := 4, target := t.pair, rect := r, stamp := st.pair, colour := fg, bg := bg.getD 0,
             flags := flagsByte j.notify false bg.isSome }
  | .maskExpand t r fg bg mask =>
    { b with kind := 5, target := t.pair, rect := r, colour := fg, bg := bg.getD 0, inline := mask,
             flags := flagsByte j.notify false bg.isSome }
  | .write t r c skip pixels =>
    { b with kind := 6, target := t.pair, rect := r, combine := c.bytes, skip := skip.getD 0,
             inline := pixels.flatMap bytesOf16, flags := flagsByte j.notify skip.isSome false }
  | .read src sel r => { b with kind := 7, source := src.pair, select := sel.code, rect := r }
  | .present t => { b with kind := 8, target := t.pair }
  | .mark => { b with kind := 9 }

/-- The payload of the SUBMIT that carries a job (12.2, 12.5). -/
def Job.payload (j : Job) : List Byte := j.record.bytes

end Sys2Proof.Machine
end

