-- ==== Sys2Proof/Machine/DrawCommands.lean ====
section
/-!
DEFINITION. SUBMIT and ROW_END (files 05 and 06).
-/

namespace Sys2Proof.Machine

open Sys2Proof

/-- The rectangle lies wholly inside the window (R76). -/
def Rect.inside (r : Rect) (w : Window) : Bool := decide (r.x + r.w ≤ w.width) && decide (r.y + r.h ≤ w.height)

/-- The rectangles of a job lie inside their windows (R76, test 10). -/
def State.jobInside (s : State) : JobOp → Bool
  | .fill t r _ _ => r.inside (s.window t.slot)
  | .copy t r src _ sx sy _ _ =>
    r.inside (s.window t.slot) && ({ r with x := sx, y := sy } : Rect).inside (s.window src.slot)
  | .tile t r _ _ _ => r.inside (s.window t.slot)
  | .stampExpand t r _ _ _ => r.inside (s.window t.slot)
  | .maskExpand t r _ _ _ => r.inside (s.window t.slot)
  | .write t r _ _ _ => r.inside (s.window t.slot)
  | .read src _ r => r.inside (s.window src.slot)
  | .present _ => true
  | .mark => true

/-- The kind of stamp that a job kind draws from (5.1); only TILE and STAMP_EXPAND draw from one. -/
def JobOp.stampKind : JobOp → StampKind
  | .tile _ _ _ _ _ => .pattern8
  | .stampExpand _ _ _ _ _ => .mask16
  | .fill _ _ _ _ => .mask16
  | .copy _ _ _ _ _ _ _ _ => .mask16
  | .maskExpand _ _ _ _ _ => .mask16
  | .write _ _ _ _ _ => .mask16
  | .read _ _ _ => .mask16
  | .present _ => .mask16
  | .mark => .mask16

/-- Tests 2 to 5 of R76: the windows a job names. -/
def State.windowRefusal (s : State) (l : Link) (op : JobOp) : Option Status :=
  if op.target.any fun h => !s.current h then some .staleHandle
  else if op.source.any fun h => !s.current h then some .staleHandle
  else if op.target.any fun h => decide ((s.window h.slot).state = .closing) then some .wrongState
  else if op.source.any fun h => decide ((s.window h.slot).state = .closing) then some .wrongState
  else if op.target.any fun h => decide ((s.window h.slot).owner ≠ some l) then some .notOwner
  else if op.source.any fun h => !(s.window h.slot).readableBy l then some .denied
  else none

/-- Tests 6 to 9 of R76: the stamp a job names. -/
def State.stampRefusal (s : State) (l : Link) (op : JobOp) : Option Status :=
  match op.stamp with
  | none => none
  | some h =>
    if s.stampCurrent h = false then some .staleHandle
    else if (s.stamp h.slot).state = .retiring then some .stampRetiring
    else if (s.stamp h.slot).kind ≠ op.stampKind then some .badParam
    else if (s.stamp h.slot).visibility = .priv ∧ (s.stamp h.slot).owner ≠ some l then some .denied
    else none

/-- Tests 10 to 13 of R76: bounds and room. -/
def State.roomRefusal (s : State) (l : Link) (op : JobOp) : Option Status :=
  if s.jobInside op = false then some .outOfBounds
  else if Config.queueLimit ≤ (s.queue l).entries.length then some .queueFull
  else if Config.stagingLimit < (s.queue l).staging + op.staging then some .stagingFull
  else if (s.eventsOf l).hasRoom = false then some .eventsFull
  else none

/-- Tests 2 to 13 of R76: the status of the first that holds. -/
def State.submitRefusal (s : State) (l : Link) (op : JobOp) : Option Status :=
  match s.windowRefusal l op with
  | some status => some status
  | none =>
    match s.stampRefusal l op with
    | some status => some status
    | none => s.roomRefusal l op

/-- The stamp a job names gains a reference (R77, step 4). -/
def State.referStamp (s : State) (op : JobOp) : State :=
  match op.stamp with
  | some h => s.takeReference h
  | none => s

/-- A job is admitted: it joins the tail of the queue with a reservation, its staging and a stamp reference (R77). -/
def State.admitJob (s : State) (l : Link) (j : Job) : State :=
  ((s.setQueue l { s.queue l with entries := (s.queue l).entries ++ [j],
                                  staging := (s.queue l).staging + j.op.staging }).takeReservation l).referStamp j.op

/-- What SUBMIT answers (R76, R77): an admitted job that is at once its queue's head is examined in the same rule. -/
def submitReply (l : Link) (payload : List Byte) (t : State) : Reply :=
  match jobRequest payload with
  | none => .refuse t .badParam
  | some j =>
    match t.submitRefusal l j.op with
    | some status => .refuse t status
    | none => .answer ((t.admitJob l j).schedule l) .accepted

/-- SUBMIT (R75 to R77). -/
def execSubmit (l : Link) (seq : Byte) (payload : List Byte) (s : State) : Host.Outcome State Fault Refusal :=
  .next (s.commandAll l seq 0x20#8 (submitReply l payload))

/-- ROW_END (R87 to R89, R95): the draw engine finishes one row of the job in flight. With the engine idle, or while RESET_N is
low, no row ends (logs 4 and 5). -/
def execRowEnd (s : State) : Host.Outcome State Fault Refusal :=
  .next
    (if s.resetN then
      match s.engine with
      | some f => (s.endRow f).transmitAll
      | none => s
    else s)

end Sys2Proof.Machine
end

