-- ==== Sys2Proof/Machine/EventCommands.lean ====
section
/-!
DEFINITION. ACK_EVENTS and RESEND_EVENTS (file 09).
-/

namespace Sys2Proof.Machine

open Sys2Proof

/-- The event queue after records have been retired, `rest` being those that stay (R147). -/
def EventQueue.retired (q : EventQueue) (gone rest : List EventRecord) : EventQueue :=
  { q with records := rest, sentCount := q.sentCount - gone.length }.reportLost

/-- The state after a link's records have been retired: READ_DATA records give back their staging (R78, R147). -/
def State.retire (s : State) (l : Link) (gone rest : List EventRecord) : State :=
  (s.setQueue l { s.queue l with staging := (s.queue l).staging - recordsStaging gone }).setEvents l
    ((s.eventsOf l).retired gone rest)

/-- What ACK_EVENTS answers (R147). -/
def ackReply (l : Link) (payload : List Byte) (t : State) : Reply :=
  match ackField payload with
  | none => .refuse t .badParam
  | some seq =>
    match splitAcked seq (t.eventsOf l).records with
    | none => .refuse t .badAck
    | some (gone, rest) => .answer (t.retire l gone rest) .ok

/-- ACK_EVENTS (R147). -/
def execAckEvents (l : Link) (seq : Byte) (payload : List Byte) (s : State) : Host.Outcome State Fault Refusal :=
  .next (s.command l seq 0x06#8 (ackReply l payload))

/-- RESEND_EVENTS (R148). -/
def execResendEvents (l : Link) (seq : Byte) (s : State) : Host.Outcome State Fault Refusal :=
  .next (s.command l seq 0x07#8 fun t => .answer (t.setEvents l (t.eventsOf l).resend) .ok)

end Sys2Proof.Machine
end

