-- ==== Sys2Proof/Machine/FrameCommands.lean ====
section
/-!
DEFINITION. FRAME_START (file 04), in its five parts, and CONTACT_REPORT (file 08).
-/

namespace Sys2Proof.Machine

open Sys2Proof

/-- The count: the frame number rises by one (R58). A new frame has overwritten nothing yet (R53, log 10). -/
def Scanout.counted (c : Scanout) : Scanout :=
  { c with frameNumber := c.frameNumber + 1, earlier := [], choice := c.choice + 1 }

/-- The record of a window whose flip is taken: a DOUBLE window's front index is toggled, and flip pending becomes absent
(R59). -/
def Window.flipped (w : Window) : Window :=
  { w with front := (match w.buffering with | .single => w.front | .double => w.front.other), flipPending := none }

/-- The outcome of a taken flip: PRESENTED on the reservation, or a silent release (R60). -/
def State.handPresented (s : State) (w : Window) (f : ArmedFlip) : State :=
  match w.owner with
  | some o => if f.notify then s.handReserved o (.presented f.tag s.scanout.frameNumber) else s.handSilent o
  | none => s

/-- The flip of one window, if it is in the pending-flip set (R59, R60). -/
def State.takeFlip (s : State) (i : Slot) : State :=
  match (s.window i).flipPending with
  | some f => (s.setWindow i (s.window i).flipped).handPresented (s.window i) f
  | none => s

/-- The latched entry of a window (R61). -/
def State.latched (s : State) (i : Slot) : Latched :=
  let w := s.window i
  { handle := ⟨i, w.gen⟩, x := w.x, y := w.y, width := w.width, height := w.height, weight := w.weight, key := w.key,
    touch := w.touch, pages := w.frontPages }

/-- The latch: the frame record becomes the live stack's entries, bottom to top (R61). -/
def State.latch (s : State) : State := s.setScanout { s.scanout with record := s.stack.map s.latched }

/-- The window of a slot is in the frame record. -/
def State.inRecord (s : State) (i : Slot) : Bool := s.scanout.record.any fun e => decide (e.handle.slot = i)

/-- The slots whose on-glass mark is cleared by the present frame record, in ascending order (R62). -/
def State.clearedMarks (s : State) : List Slot :=
  (List.finRange 32).filter fun i => (s.window i).onGlass && !s.inRecord i

/-- The on-glass marks brought into line with the frame record (R62). -/
def State.markGlass (s : State) : State :=
  { s with windows := Vector.ofFn fun i : Slot => { s.window i with onGlass := s.inRecord i } }

/-- The marks, and the release test of each CLOSING window whose mark is cleared, in ascending slot order (R12, R62). -/
def State.updateMarks (s : State) : State := s.clearedMarks.foldl State.releaseTest s.markGlass

/-- The notice to one link: FRAME with a count of 1, if it is UP with its frame notify flag set (R68). -/
def State.noticeFrame (s : State) (l : Link) : State :=
  if (s.link l).notify then s.handUnreserved l (.frame s.scanout.frameNumber 1) else s

/-- The five parts of a frame start: count, flips, latch, marks, notice (4.2). -/
def State.frameParts (s : State) : State :=
  let counted := s.setScanout s.scanout.counted
  let flipped := (List.finRange 32).foldl State.takeFlip counted
  allLinks.foldl State.noticeFrame flipped.latch.updateMarks

/-- A frame start (R58 to R69): its five parts; then the heads that a taken flip has freed are examined, and the arbiter grants
once they all have been (R81, R84; DEDUCED, log 15). -/
def State.startFrame (s : State) : State := s.frameParts.scheduleAll

/-- FRAME_START (R56, R58 to R69). While RESET_N is low there is no frame start (R56). -/
def execFrameStart (s : State) : Host.Outcome State Fault Refusal :=
  .next (if s.resetN then s.startFrame.transmitAll else s)

/-- CONTACT_REPORT (R126, R127, R130): a malformed report is discarded whole; any other is applied to the five contacts. While
RESET_N is low the router takes no report (R126). -/
def execContactReport (bytes : List Byte) (s : State) : Host.Outcome State Fault Refusal :=
  .next
    (if s.resetN then
      match takenReport bytes with
      | some es => (s.applyReport es).transmitAll
      | none => s
    else s)

end Sys2Proof.Machine
end

