-- ==== Sys2Proof/Machine/LinkCommands.lean ====
section
/-!
DEFINITION. The link controller's commands and events (file 10): CHECK_FAILED, BAD_COMMAND, HELLO, GOODBYE, PING, SET_NOTIFY,
STATUS, LEASE_EXPIRY and TRANSMIT_COMPLETION, and the millisecond that passes on an empty queue.
-/

namespace Sys2Proof.Machine

open Sys2Proof

/-- CHECK_FAILED (R154, R181): answered with the expected sequence in both places and code byte 0x00, in every link state, or
discarded when the backlog is full. -/
def execCheckFailed (l : Link) (s : State) : Host.Outcome State Fault Refusal :=
  .next (if s.resetN then (s.answerOutside l 0x00#8 (s.link l).expected .checkFailed).transmit l else s)

/-- BAD_COMMAND (R157): a code that names no command, with the expected sequence, is executed and answered BAD_COMMAND; it is
treated like any other frame otherwise. -/
def execBadCommand (l : Link) (seq code : Byte) (s : State) : Host.Outcome State Fault Refusal :=
  .next (s.command l seq code fun t => .refuse t .badCommand)

/-- The controller of a link whose session begins (R161, steps 1 to 4). -/
def LinkCtl.begun (c : LinkCtl) (seq : Byte) (lease : Nat) : LinkCtl :=
  { c with state := .up, goodbye := false, lease := some lease, timer := some 0, expected := seq + 1, notify := false }

/-- The result fields of HELLO's OK (R161). -/
def State.helloResult (s : State) (l : Link) (lease : Nat) : Result :=
  .hello l (s.link l).lastEnd s.pins.panel s.pins.pool (alertOf s.pins l) lease

/-- A HELLO that passes its test on a DOWN link begins a session (R161). -/
def State.beginSession (s : State) (l : Link) (seq : Byte) (lease : Nat) : State :=
  let begun := (s.link l).begun seq lease
  let r := begun.response 0x01#8 seq .ok (s.helloResult l lease)
  (s.setLink l { begun.answer r with cache := [(seq, r)] }).setEvents l EventQueue.atReset

/-- HELLO on a DOWN link (R161): discarded while the backlog is full, refused with BAD_PARAM for a bad lease, else a session
begins. -/
def State.helloDown (s : State) (l : Link) (seq : Byte) (payload : List Byte) : State :=
  if (s.link l).backlogFull then s
  else
    match helloLease payload with
    | none => s.answerOutside l 0x01#8 seq .badParam
    | some lease => s.beginSession l seq lease

/-- HELLO by the state of its link (R154's table): RETRY_LATER in TEARDOWN (R156), and WRONG_STATE when an UP link executes one
(R157; its field is not tested, log 16). A HELLO that finds the link DOWN begins a session even right after the expiry or the
completion that ended the last one, if that teardown ended in its own start (R171; DEDUCED, log 33). -/
def State.takeHello (s : State) (l : Link) (seq : Byte) (payload : List Byte) : State :=
  match (s.link l).state with
  | .down => s.helloDown l seq payload
  | .teardown => s.answerOutside l 0x01#8 seq .retryLater
  | .up => s.takeUp l seq 0x01#8 fun t => .refuse t .wrongState

/-- HELLO (R156, R157, R161). -/
def execHello (l : Link) (seq : Byte) (payload : List Byte) (s : State) : Host.Outcome State Fault Refusal :=
  .next (if s.resetN then (s.takeHello l seq payload).transmit l else s)

/-- GOODBYE (R162): answered OK; goodbye pending is set and the lease timer stops. The teardown starts when its OK has been
sent. -/
def execGoodbye (l : Link) (seq : Byte) (s : State) : Host.Outcome State Fault Refusal :=
  .next (s.command l seq 0x02#8 fun t => .answer (t.setLink l { t.link l with goodbye := true, timer := none }) .ok)

/-- PING (R163): answered OK; the renewal of the lease is every sound frame's (R166). -/
def execPing (l : Link) (seq : Byte) (s : State) : Host.Outcome State Fault Refusal :=
  .next (s.command l seq 0x03#8 fun t => .answer t .ok)

/-- What SET_NOTIFY answers (R164). -/
def notifyReply (l : Link) (payload : List Byte) (t : State) : Reply :=
  match notifyField payload with
  | none => .refuse t .badParam
  | some on => .answer (t.setLink l { t.link l with notify := on }) .ok

/-- SET_NOTIFY (R164). -/
def execSetNotify (l : Link) (seq : Byte) (payload : List Byte) (s : State) : Host.Outcome State Fault Refusal :=
  .next (s.command l seq 0x04#8 (notifyReply l payload))

/-- STATUS (R165): answered OK with the figures as they stand; no state changes. -/
def execStatus (l : Link) (seq : Byte) (s : State) : Host.Outcome State Fault Refusal :=
  .next (s.command l seq 0x05#8 fun t => ⟨t, .ok, .status (t.statusReport l)⟩)

/-- The lease of a link expires (R166): its timer stops with the start of its teardown. -/
def State.expireLease (s : State) (l : Link) : State := s.endSession l .lease

/-- The lease timer runs and has reached the lease (R166). -/
def LinkCtl.leaseReached (c : LinkCtl) : Bool :=
  match c.timer, c.lease with
  | some t, some lease => decide (lease ≤ t)
  | _, _ => false

/-- LEASE_EXPIRY (R166): the session of a link whose timer has reached the lease ends with reason LEASE. A frame taken first has
renewed the lease, and the expiry does not happen (R168; log 3). -/
def execLeaseExpiry (l : Link) (s : State) : Host.Outcome State Fault Refusal :=
  .next (if s.resetN && (s.link l).leaseReached then (s.expireLease l).transmitAll else s)

/-- The response is the OK of an accepted GOODBYE (R162). -/
def Response.isGoodbyeOk (r : Response) : Bool := decide (r.code = 0x02#8) && decide (r.status = .ok)

/-- The completion of the frame being sent ends the session: it is GOODBYE's OK while goodbye is pending (R160, R162). -/
def LinkCtl.goodbyeSent (c : LinkCtl) : Bool :=
  match c.tx with
  | .response r => c.goodbye && r.isGoodbyeOk
  | .event _ => false
  | .idle => false

/-- TRANSMIT_COMPLETION (R160, R162): the transmitter becomes idle and chooses again; GOODBYE's OK sent starts the teardown
with reason GOODBYE. An idle transmitter, or one held in reset, completes nothing (logs 4 and 5). -/
def execTransmitCompletion (l : Link) (s : State) : Host.Outcome State Fault Refusal :=
  .next
    (if s.resetN = true ∧ (s.link l).tx ≠ .idle then
      let idle := s.setLink l { s.link l with tx := .idle }
      if (s.link l).goodbyeSent then (idle.endSession l .goodbye).transmitAll else idle.transmit l
    else s)

/-- One millisecond of a link's lease timer (R166, log 2): a running timer counts one; one that has already reached its lease,
with no LEASE_EXPIRY and no renewing frame taken since, expires now. -/
def State.tickLink (s : State) (l : Link) : State :=
  if (s.link l).leaseReached then s.expireLease l
  else s.setLink l { s.link l with timer := (s.link l).timer.map fun t => t + 1 }

/-- What a step on an empty queue does: one millisecond passes (DESIGN CHOICE, log 2). While RESET_N is low nothing runs. -/
def State.idleTick (s : State) : State :=
  if s.resetN then (allLinks.foldl State.tickLink s).transmitAll else s

end Sys2Proof.Machine
end

