-- ==== Sys2Proof/Machine/ResetCommands.lean ====
section
/-!
DEFINITION. PIN_RESET, RESET_RELEASE and SCRUB_COMPLETION (files 02 and 10).
-/

namespace Sys2Proof.Machine

open Sys2Proof

/-- PIN_RESET (R152; R3, R24, R39, R57, R91, R116, R129, R151): RESET_N goes low, every block takes its pin-reset values and
the pins are sampled. Surface memory keeps its contents (R24), and the commands still waiting stay in the queue (log 23). -/
def execPinReset (pins : Pins) (s : State) : Host.Outcome State Fault Refusal :=
  .next { State.heldInReset pins with pending := s.pending, mem := s.mem,
                                      scanout := { (State.heldInReset pins).scanout with choice := s.scanout.choice } }

/-- RESET_RELEASE (R24): RESET_N goes high and the scrub unit starts the scrub of page 0. With RESET_N already high there is no
such edge (log 4). -/
def execResetRelease (s : State) : Host.Outcome State Fault Refusal :=
  .next (if s.resetN then s else { s with resetN := true, pool := s.pool.startScrub })

/-- SCRUB_COMPLETION (R26): the scrubbed page, its pixels now zero (R25), joins the free set, and the next scrub starts. With
the unit IDLE, or while RESET_N is low, no scrub can complete (logs 4 and 5). -/
def execScrubCompletion (s : State) : Host.Outcome State Fault Refusal :=
  .next
    (if s.resetN && s.pool.busy then
      match s.pool.scrub with
      | page :: _ => { s with mem := clearPage s.mem page, pool := s.pool.scrubDone }
      | [] => s
    else s)

end Sys2Proof.Machine
end

