-- ==== Sys2Proof/Machine/WindowCommands.lean ====
section
/-!
DEFINITION. The window table's commands (file 01): OPEN_WINDOW, CLOSE_WINDOW, MOVE_WINDOW, SET_LOOK, SET_TOUCH, GRANT,
WINDOW_INFO.
-/

namespace Sys2Proof.Machine

open Sys2Proof

/-- Tests 2 to 4 of R2 on a handle: the status of the first that holds. -/
def State.changeRefusal (s : State) (l : Link) (h : Handle) : Option Status :=
  if s.current h = false then some .staleHandle
  else if (s.window h.slot).state = .closing then some .wrongState
  else if (s.window h.slot).owner ≠ some l then some .notOwner
  else none

/-- A command that changes one window of the commanding link: refused by R2, or answered OK with what `change` makes of the
state. -/
def State.changeWindow (s : State) (l : Link) (h : Handle) (change : State → State) : Reply :=
  match s.changeRefusal l h with
  | some status => .refuse s status
  | none => .answer (change s) .ok

/-! ### OPEN_WINDOW -/

/-- The pages needed by an OPEN_WINDOW (R28). -/
def OpenRequest.pages (r : OpenRequest) : Nat := pagesNeeded r.width r.height r.buffering

/-- Tests 2 to 7 of R4: the status of the first that holds. -/
def State.openRefusal (s : State) (l : Link) (r : OpenRequest) : Option Status :=
  if r.tier = 3 ∧ alertOf s.pins l = false then some .tierDenied
  else if s.freeSlot = none then some .noWindowSlot
  else if (s.eventsOf l).hasRoom = false then some .eventsFull
  else if s.pins.pool = false ∧ Config.evenPageLimit < s.pool.held.get l + r.pages then some .quota
  else if s.pool.free.length + s.pool.scrub.length < r.pages then some .poolFull
  else if s.pool.free.length < r.pages then some .poolBusy
  else none

/-- The record of a window just opened (R5), its buffers taken from the free set (R29). -/
def Window.opened (w : Window) (l : Link) (r : OpenRequest) (free : List Nat) : Window :=
  { gen := w.gen, state := .hidden, owner := some l, width := r.width, height := r.height, x := r.x, y := r.y,
    tier := r.tier, buffering := r.buffering, buf0 := free.take (pagesPerBuffer r.width r.height),
    buf1 := (free.take r.pages).drop (pagesPerBuffer r.width r.height), front := .zero, flipPending := none, weight := 16,
    key := none, touch := true, grants := PerLink.all false, onGlass := false, closeReason := none }

/-- An OPEN_WINDOW that passes every test opens a window in a slot (R5, R29). -/
def State.openIn (s : State) (l : Link) (r : OpenRequest) (i : Slot) : State :=
  ((s.setWindow i ((s.window i).opened l r s.pool.free)).setPool (s.pool.allocate l r.pages)).takeReservation l

/-- What OPEN_WINDOW answers (R4, R5). -/
def openReply (l : Link) (payload : List Byte) (t : State) : Reply :=
  match openRequest payload with
  | none => .refuse t .badParam
  | some r =>
    match t.openRefusal l r, t.freeSlot with
    | none, some i => ⟨t.openIn l r i, .ok, .window (t.handleOf i)⟩
    | some status, _ => .refuse t status
    | none, none => .refuse t .noWindowSlot

/-- OPEN_WINDOW (R4, R5). -/
def execOpenWindow (l : Link) (seq : Byte) (payload : List Byte) (s : State) : Host.Outcome State Fault Refusal :=
  .next (s.command l seq 0x10#8 (openReply l payload))

/-! ### CLOSE_WINDOW -/

/-- What CLOSE_WINDOW answers (R7, R8): the window enters CLOSING with reason OWNER; every head
that its pending flip held is then examined (R65, R81; DEDUCED for a head of another link, log 31). -/
def closeReply (l : Link) (payload : List Byte) (t : State) : Reply :=
  match handleField payload with
  | none => .refuse t .badParam
  | some h => t.changeWindow l h fun u => (u.enterClosing h.slot .owner).scheduleAll

/-- CLOSE_WINDOW (R7, R8). -/
def execCloseWindow (l : Link) (seq : Byte) (payload : List Byte) (s : State) : Host.Outcome State Fault Refusal :=
  .next (s.commandAll l seq 0x11#8 (closeReply l payload))

/-! ### Changing a window -/

/-- What MOVE_WINDOW answers (R15). -/
def moveReply (l : Link) (payload : List Byte) (t : State) : Reply :=
  match moveRequest payload with
  | none => .refuse t .badParam
  | some (h, x, y) => t.changeWindow l h fun u => u.setWindow h.slot { u.window h.slot with x := x, y := y }

/-- MOVE_WINDOW (R15). -/
def execMoveWindow (l : Link) (seq : Byte) (payload : List Byte) (s : State) : Host.Outcome State Fault Refusal :=
  .next (s.command l seq 0x14#8 (moveReply l payload))

/-- What SET_LOOK answers (R16). -/
def lookReply (l : Link) (payload : List Byte) (t : State) : Reply :=
  match lookRequest payload with
  | none => .refuse t .badParam
  | some (h, weight, key) =>
    t.changeWindow l h fun u => u.setWindow h.slot { u.window h.slot with weight := weight, key := key }

/-- SET_LOOK (R16). -/
def execSetLook (l : Link) (seq : Byte) (payload : List Byte) (s : State) : Host.Outcome State Fault Refusal :=
  .next (s.command l seq 0x15#8 (lookReply l payload))

/-- What SET_TOUCH answers (R17). -/
def touchReply (l : Link) (payload : List Byte) (t : State) : Reply :=
  match touchRequest payload with
  | none => .refuse t .badParam
  | some (h, on) => t.changeWindow l h fun u => u.setWindow h.slot { u.window h.slot with touch := on }

/-- SET_TOUCH (R17). -/
def execSetTouch (l : Link) (seq : Byte) (payload : List Byte) (s : State) : Host.Outcome State Fault Refusal :=
  .next (s.command l seq 0x16#8 (touchReply l payload))

/-- What GRANT answers (R18): after the tests of R2, a set that contains the owner is refused with BAD_PARAM. -/
def grantReply (l : Link) (payload : List Byte) (t : State) : Reply :=
  match grantRequest payload with
  | none => .refuse t .badParam
  | some (h, links) =>
    match t.changeRefusal l h with
    | some status => .refuse t status
    | none =>
      if links.get l then .refuse t .badParam
      else .answer (t.setWindow h.slot { t.window h.slot with grants := links }) .ok

/-- GRANT (R18). -/
def execGrant (l : Link) (seq : Byte) (payload : List Byte) (s : State) : Host.Outcome State Fault Refusal :=
  .next (s.command l seq 0x17#8 (grantReply l payload))

/-! ### WINDOW_INFO -/

/-- What WINDOW_INFO answers, of a window of any link (R20). -/
def infoReply (payload : List Byte) (t : State) : Reply :=
  match handleField payload with
  | none => .refuse t .badParam
  | some h =>
    if t.current h = false then .refuse t .staleHandle
    else if (t.window h.slot).state = .closing then .refuse t .wrongState
    else ⟨t, .ok, .info (t.window h.slot).infoReport⟩

/-- WINDOW_INFO (R20). -/
def execWindowInfo (l : Link) (seq : Byte) (payload : List Byte) (s : State) : Host.Outcome State Fault Refusal :=
  .next (s.command l seq 0x18#8 (infoReply payload))

end Sys2Proof.Machine
end

