-- ==== Sys2Proof/Machine/StackCommands.lean ====
section
/-!
DEFINITION. The stack unit's commands (file 03): SHOW and HIDE.
-/

namespace Sys2Proof.Machine

open Sys2Proof

/-- Tests 5 to 8 of R42 on a reference: the status of the first that holds. -/
def State.referenceRefusal (s : State) (h ref : Handle) : Option Status :=
  if s.current ref = false then some .staleHandle
  else if ref.slot = h.slot then some .badParam
  else if (s.window ref.slot).state ≠ .shown then some .wrongState
  else if (s.window ref.slot).tier ≠ (s.window h.slot).tier then some .badParam
  else none

/-- Tests 5 to 8 of R42, made for the relative placements only. -/
def State.placementRefusal (s : State) (h : Handle) : Placement → Option Status
  | .topOfTier => none
  | .bottomOfTier => none
  | .above ref => s.referenceRefusal h ref
  | .below ref => s.referenceRefusal h ref

/-- A placement by its reference's slot. -/
def Placement.placed : Placement → Placed
  | .topOfTier => .topOfTier
  | .bottomOfTier => .bottomOfTier
  | .above ref => .above ref.slot
  | .below ref => .below ref.slot

/-- A window shown or restacked at its placement (R41, R43, R44). -/
def State.shownAt (s : State) (h : Handle) (p : Placement) : State :=
  (s.setStack (s.placed h.slot p.placed)).setWindow h.slot { s.window h.slot with state := .shown }

/-- What SHOW answers (R42 to R44). -/
def showReply (l : Link) (payload : List Byte) (t : State) : Reply :=
  match showRequest payload with
  | none => .refuse t .badParam
  | some (h, p) =>
    match t.changeRefusal l h, t.placementRefusal h p with
    | some status, _ => .refuse t status
    | none, some status => .refuse t status
    | none, none => .answer (t.shownAt h p) .ok

/-- SHOW (R42 to R44). -/
def execShow (l : Link) (seq : Byte) (payload : List Byte) (s : State) : Host.Outcome State Fault Refusal :=
  .next (s.command l seq 0x12#8 (showReply l payload))

/-- A SHOWN window leaves the live stack, becomes HIDDEN and loses its captures, with TOUCH_CANCEL to the owner; a HIDDEN one
stays as it is (R45). -/
def State.hidden (s : State) (h : Handle) : State :=
  if (s.window h.slot).state = .shown then
    ((s.setStack (s.stack.filter fun j => decide (j ≠ h.slot))).setWindow h.slot
      { s.window h.slot with state := .hidden }).cancelCaptures h true
  else s

/-- What HIDE answers (R45). -/
def hideReply (l : Link) (payload : List Byte) (t : State) : Reply :=
  match handleField payload with
  | none => .refuse t .badParam
  | some h => t.changeWindow l h fun u => u.hidden h

/-- HIDE (R45). -/
def execHide (l : Link) (seq : Byte) (payload : List Byte) (s : State) : Host.Outcome State Fault Refusal :=
  .next (s.command l seq 0x13#8 (hideReply l payload))

end Sys2Proof.Machine
end

