-- ==== Sys2Proof/Machine/StampCommands.lean ====
section
/-!
DEFINITION. The stamp store's commands (file 07): LOAD_STAMP, RELOAD_STAMP, FREE_STAMP.
-/

namespace Sys2Proof.Machine

open Sys2Proof

/-- The fields of LOAD_STAMP (7.3, 12.2). -/
structure LoadRequest where
  kind : StampKind
  visibility : Visibility
  data : List Byte
  deriving DecidableEq, Repr

/-- Test 1 of LOAD_STAMP: the encodings and the data length (R118, R179). -/
def loadRequest (p : List Byte) : Option LoadRequest :=
  atLeast 2 p do
    let pattern ← binaryField p 0
    let isPublic ← binaryField p 1
    let kind : StampKind := if pattern then .pattern8 else .mask16
    if (p.drop 2).length = stampBytes kind then
      some ⟨kind, if isPublic then .pub else .priv, p.drop 2⟩
    else none

/-- Tests 2 and 3 of R118. -/
def State.loadRefusal (s : State) (l : Link) : Option Status :=
  if s.freeStampSlot = none then some .stampFull
  else if s.pins.pool = false ∧ Config.evenStampLimit ≤ s.ownedStamps.get l then some .quota
  else none

/-- The record of a stamp just loaded (R119). -/
def Stamp.loaded (st : Stamp) (l : Link) (r : LoadRequest) : Stamp :=
  { gen := st.gen, state := .loaded, kind := r.kind, owner := some l, visibility := r.visibility, references := 0,
    contents := r.data }

/-- A LOAD_STAMP that passes every test loads a stamp into a slot (R119). -/
def State.loadIn (s : State) (l : Link) (r : LoadRequest) (i : StampSlot) : State :=
  (s.setStamp i ((s.stamp i).loaded l r)).setOwned l (s.ownedStamps.get l + 1)

/-- What LOAD_STAMP answers (R118, R119). -/
def loadReply (l : Link) (payload : List Byte) (t : State) : Reply :=
  match loadRequest payload with
  | none => .refuse t .badParam
  | some r =>
    match t.loadRefusal l, t.freeStampSlot with
    | none, some i => ⟨t.loadIn l r i, .ok, .stamp ⟨i, (t.stamp i).gen⟩⟩
    | some status, _ => .refuse t status
    | none, none => .refuse t .stampFull

/-- LOAD_STAMP (R118, R119). -/
def execLoadStamp (l : Link) (seq : Byte) (payload : List Byte) (s : State) : Host.Outcome State Fault Refusal :=
  .next (s.command l seq 0x30#8 (loadReply l payload))

/-- Tests 2 to 4 of R120 and of R121: the status of the first that holds. -/
def State.stampChangeRefusal (s : State) (l : Link) (h : StampHandle) : Option Status :=
  if s.stampCurrent h = false then some .staleHandle
  else if (s.stamp h.slot).state = .retiring then some .stampRetiring
  else if (s.stamp h.slot).owner ≠ some l then some .notOwner
  else none

/-- Test 1 of RELOAD_STAMP: the handle, and data of 32 or 128 bytes (R120). -/
def reloadRequest (p : List Byte) : Option (StampHandle × List Byte) :=
  atLeast 2 p do
    let h ← stampHandle p 0
    if (p.drop 2).length = 32 ∨ (p.drop 2).length = 128 then some (h, p.drop 2) else none

/-- What RELOAD_STAMP answers (R120). -/
def reloadReply (l : Link) (payload : List Byte) (t : State) : Reply :=
  match reloadRequest payload with
  | none => .refuse t .badParam
  | some (h, data) =>
    match t.stampChangeRefusal l h with
    | some status => .refuse t status
    | none =>
      if data.length ≠ stampBytes (t.stamp h.slot).kind then .refuse t .badParam
      else if 0 < (t.stamp h.slot).references then .refuse t .stampInUse
      else .answer (t.setStamp h.slot { t.stamp h.slot with contents := data }) .ok

/-- RELOAD_STAMP (R120). -/
def execReloadStamp (l : Link) (seq : Byte) (payload : List Byte) (s : State) : Host.Outcome State Fault Refusal :=
  .next (s.command l seq 0x31#8 (reloadReply l payload))

/-- A FREE_STAMP that passes its tests: FREED at once without references, else RETIRING (R121). -/
def State.freeOrRetire (s : State) (l : Link) (h : StampHandle) : Reply :=
  if (s.stamp h.slot).references = 0 then
    .answer ((s.setStamp h.slot (s.stamp h.slot).freed).setOwned l (s.ownedStamps.get l - 1)) .freed
  else .answer (s.setStamp h.slot { s.stamp h.slot with state := .retiring }) .retiring

/-- What FREE_STAMP answers (R121). -/
def freeReply (l : Link) (payload : List Byte) (t : State) : Reply :=
  match atLeast 2 payload (stampHandle payload 0) with
  | none => .refuse t .badParam
  | some h =>
    match t.stampChangeRefusal l h with
    | some status => .refuse t status
    | none => t.freeOrRetire l h

/-- FREE_STAMP (R121). -/
def execFreeStamp (l : Link) (seq : Byte) (payload : List Byte) (s : State) : Host.Outcome State Fault Refusal :=
  .next (s.command l seq 0x32#8 (freeReply l payload))

end Sys2Proof.Machine
end

