-- ==== Sys2Proof/Machine/Dispatch.lean ====
section
/-!
DEFINITION. exec: one arm per command.
-/

namespace Sys2Proof.Machine

open Sys2Proof

def exec (i : Instr) (s : State) : Host.Outcome State Fault Refusal :=
  match i with
  | .pinReset pins => Sys2Proof.Machine.execPinReset pins s
  | .resetRelease => Sys2Proof.Machine.execResetRelease s
  | .scrubCompletion => Sys2Proof.Machine.execScrubCompletion s
  | .checkFailed l => Sys2Proof.Machine.execCheckFailed l s
  | .badCommand l seq code => Sys2Proof.Machine.execBadCommand l seq code s
  | .hello l seq payload => Sys2Proof.Machine.execHello l seq payload s
  | .goodbye l seq => Sys2Proof.Machine.execGoodbye l seq s
  | .ping l seq => Sys2Proof.Machine.execPing l seq s
  | .setNotify l seq payload => Sys2Proof.Machine.execSetNotify l seq payload s
  | .status l seq => Sys2Proof.Machine.execStatus l seq s
  | .ackEvents l seq payload => Sys2Proof.Machine.execAckEvents l seq payload s
  | .resendEvents l seq => Sys2Proof.Machine.execResendEvents l seq s
  | .openWindow l seq payload => Sys2Proof.Machine.execOpenWindow l seq payload s
  | .closeWindow l seq payload => Sys2Proof.Machine.execCloseWindow l seq payload s
  | .moveWindow l seq payload => Sys2Proof.Machine.execMoveWindow l seq payload s
  | .setLook l seq payload => Sys2Proof.Machine.execSetLook l seq payload s
  | .setTouch l seq payload => Sys2Proof.Machine.execSetTouch l seq payload s
  | .grant l seq payload => Sys2Proof.Machine.execGrant l seq payload s
  | .windowInfo l seq payload => Sys2Proof.Machine.execWindowInfo l seq payload s
  | .showWindow l seq payload => Sys2Proof.Machine.execShow l seq payload s
  | .hide l seq payload => Sys2Proof.Machine.execHide l seq payload s
  | .submit l seq payload => Sys2Proof.Machine.execSubmit l seq payload s
  | .rowEnd => Sys2Proof.Machine.execRowEnd s
  | .loadStamp l seq payload => Sys2Proof.Machine.execLoadStamp l seq payload s
  | .reloadStamp l seq payload => Sys2Proof.Machine.execReloadStamp l seq payload s
  | .freeStamp l seq payload => Sys2Proof.Machine.execFreeStamp l seq payload s
  | .frameStart => Sys2Proof.Machine.execFrameStart s
  | .contactReport bytes => Sys2Proof.Machine.execContactReport bytes s
  | .leaseExpiry l => Sys2Proof.Machine.execLeaseExpiry l s
  | .transmitCompletion l => Sys2Proof.Machine.execTransmitCompletion l s

end Sys2Proof.Machine
end

