-- ==== Sys2Proof/Safety.lean ====
section
/-!
DEFINITION. What the statements speak of: when a link executes a command, what an answer leaves, when a transmitter has nothing
to take, which jobs are well formed, and the laws of the part that every step keeps.
-/

namespace Sys2Proof.Machine

open Sys2Proof

/-! ### Executed commands and their answers -/

/-- The link executes a sound frame with this sequence number: it is UP without goodbye pending, fewer than 4 responses wait,
and the number is the expected one (R157). -/
def State.ready (s : State) (l : Link) (seq : Byte) : Prop :=
  s.resetN = true ∧ (s.link l).state = .up ∧ (s.link l).goodbye = false ∧ (s.link l).backlog.length < 4
    ∧ seq = (s.link l).expected

/-- The responses a link has produced and not yet sent whole: the one being transmitted, then the backlog (R160). -/
def LinkCtl.outgoing (c : LinkCtl) : List Response :=
  (match c.tx with
    | .response r => [r]
    | .event _ => []
    | .idle => []) ++ c.backlog

/-- The response to an executed command shows the expected sequence after it (R181). -/
def executedResponse (seq code : Byte) (status : Status) (result : Result) : Response :=
  { code := code, seq := seq, status := status, expected := seq + 1, result := result }

/-- What the execution of a command makes of its link's controller (R157, R158, R160, R166): the response is the last to go
out and the newest of at most 4 cached ones, the expected sequence has risen, a running lease timer starts again, and nothing
else of the controller changes. -/
structure Replied (c c' : LinkCtl) (seq code : Byte) (status : Status) (result : Result) : Prop where
  sends : c'.outgoing = c.outgoing ++ [executedResponse seq code status result]
  takes : c'.tx ≠ .idle
  goesOn : c.tx ≠ .idle → c'.tx = c.tx
  caches : c'.cache = (c.cache ++ [(seq, executedResponse seq code status result)]).drop (c.cache.length - 3)
  advances : c'.expected = seq + 1
  renews : c'.timer = c.timer.map fun _ => 0
  rest : { c' with tx := c.tx, backlog := c.backlog, cache := c.cache, expected := c.expected, timer := c.timer } = c

/-- t is u with the response to an executed command of link l produced: outside that link's controller nothing differs. -/
structure Answers (u t : State) (l : Link) (seq code : Byte) (status : Status) (result : Result) : Prop where
  onlyLinks : { t with links := u.links } = u
  otherLinks : ∀ k, k ≠ l → t.link k = u.link k
  replied : Replied (u.link l) (t.link l) seq code status result

/-- What an answer outside the sequence makes of a link's controller: the response is the last to go out; nothing else of the
controller changes but what the transmitter took (R154 to R157). -/
structure RepliedOutside (c c' : LinkCtl) (r : Response) : Prop where
  sends : c'.outgoing = c.outgoing ++ [r]
  takes : c'.tx ≠ .idle
  goesOn : c.tx ≠ .idle → c'.tx = c.tx
  rest : { c' with tx := c.tx, backlog := c.backlog } = c

/-- t is s with a response outside the sequence produced on link l: outside that link's controller nothing differs. -/
structure AnswersOutside (s t : State) (l : Link) (r : Response) : Prop where
  onlyLinks : { t with links := s.links } = s
  otherLinks : ∀ k, k ≠ l → t.link k = s.link k
  replied : RepliedOutside (s.link l) (t.link l) r

/-- The transmitter of a link has nothing to take: it is sending, or no response waits and, on an UP link with fewer than 8
unacknowledged records, no record is unsent (R146, R160). -/
def State.settled (s : State) (l : Link) : Prop :=
  (s.link l).tx = .idle → (s.link l).backlog = [] ∧
    ((s.link l).state = .up → (s.eventsOf l).sentCount < 8 → ∀ r ∈ (s.eventsOf l).records, r.sent = true)

/-! ### Commands that change one window -/

/-- Link, sequence number, code and handle of the commands that R2 tests: those that name one window and change it. The handle
is absent where a field is outside its range or the payload too short. -/
def changeOf : Instr → Option (Link × Byte × Byte × Option Handle)
  | .closeWindow l seq p => some (l, seq, 0x11#8, handleField p)
  | .showWindow l seq p => some (l, seq, 0x12#8, (showRequest p).map Prod.fst)
  | .hide l seq p => some (l, seq, 0x13#8, handleField p)
  | .moveWindow l seq p => some (l, seq, 0x14#8, (moveRequest p).map Prod.fst)
  | .setLook l seq p => some (l, seq, 0x15#8, (lookRequest p).map Prod.fst)
  | .setTouch l seq p => some (l, seq, 0x16#8, (touchRequest p).map Prod.fst)
  | .grant l seq p => some (l, seq, 0x17#8, (grantRequest p).map Prod.fst)
  | _ => none

/-- A handle that passes tests 2 to 4 of R2 for a link: current, not CLOSING, owned by the link. -/
def State.mayChange (s : State) (l : Link) (h : Handle) : Prop :=
  (s.window h.slot).state ≠ .free ∧ (s.window h.slot).gen = h.gen ∧ (s.window h.slot).state ≠ .closing
    ∧ (s.window h.slot).owner = some l

/-! ### Heads that wait -/

/-- Every head in WAIT_FLIP of the links but l waits for the pending flip of a window that meets a condition. -/
def State.othersWaitFor (s : State) (l : Link) (P : Slot → Prop) : Prop :=
  ∀ k, k ≠ l → (s.queue k).head = .waitFlip → ∃ j rest h, (s.queue k).entries = j :: rest ∧ j.op.target = some h ∧
    s.current h = true ∧ (s.window h.slot).flipPending ≠ none ∧ P h.slot

/-! ### The start of a teardown -/

/-- A window waits for a frame start or a job before it can be released (R12). -/
def State.stillUsed (s : State) (i : Slot) : Prop := (s.window i).onGlass = true ∨ s.namedInFlight ⟨i, (s.window i).gen⟩ = true

/-- The entries that leave a link's queue when its session ends: all but a job in flight (R92). -/
def State.leavingJobs (s : State) (l : Link) : List Job :=
  (s.queue l).entries.drop (if (s.queue l).head = .inFlight then 1 else 0)

/-- How many of the jobs name the stamp of a slot. -/
def namings (js : List Job) (i : StampSlot) : Nat := js.countP fun j => decide (j.op.stamp.map StampHandle.slot = some i)

/-- The stamp of a slot becomes FREE as the jobs release their references: it is RETIRING, and one of them holds the last
(R122, R123). -/
def State.retires (s : State) (js : List Job) (i : StampSlot) : Bool :=
  decide ((s.stamp i).state = .retiring) && decide (0 < namings js i) && decide ((s.stamp i).references ≤ namings js i)

/-- The slots of a link's windows that the end of its session releases at once, in ascending order: live, off the glass and
named by no job in flight (R12, R170 step 6). -/
def State.releasedAtEnd (s : State) (l : Link) : List Slot :=
  (List.finRange 32).filter fun i =>
    decide ((s.window i).owner = some l) && (s.window i).live && !(s.window i).onGlass &&
      !s.namedInFlight ⟨i, (s.window i).gen⟩

/-- The pages of the windows in the slots, buffer 0 before buffer 1 of each (R33). -/
def State.pagesOfSlots (s : State) (is : List Slot) : List Nat :=
  is.flatMap fun i => (s.window i).buf0 ++ (s.window i).buf1

/-- The windows of the link that wait for their release when its session has ended (R169). -/
def State.awaitedWindows (s : State) (l : Link) : Nat :=
  ((List.finRange 32).countP fun i => decide ((s.window i).owner = some l) && decide ((s.window i).state ≠ .free)) -
    (s.releasedAtEnd l).length

/-- What the start of link l's teardown with a reason makes of a state, before heads are examined and the transmitters choose (R21, R36, R92, R125,
R151, R170, R173): every part of the state is given, and nothing changes but what the rules name. Fields of a released window and
of a freed stamp that no rule names keep their values (log 21). That another link's job in flight that reads a window of the
link takes SOURCE_LOST at this start is the model's reading (R8, R88, R170 and R173 against the last paragraph of R177, log 32).
The examination of other links' heads that this start frees comes after it (R81, log 31). -/
structure SessionEnded (s t : State) (l : Link) (reason : EndReason) : Prop where
  controller : { t.link l with tx := (s.link l).tx } =
    { s.link l with
        state := if s.awaitedWindows l = 0 ∧ (∀ f, s.engine = some f → f.link ≠ l) then .down else .teardown
        lastEnd := reason, goodbye := false, timer := none, backlog := [], cache := []
        toRelease := s.awaitedWindows l
        jobPending := s.engine.any fun f => decide (f.link = l) }
  events : t.eventsOf l =
    { records := [], reserved := 0, sentCount := 0, lost := 0, nextSeq := (s.eventsOf l).nextSeq }
  jobs : t.queue l =
    { entries := if (s.queue l).head = .inFlight then (s.queue l).entries.take 1 else []
      head := if (s.queue l).head = .inFlight ∧ (s.queue l).entries ≠ [] then .inFlight else .empty
      staging := (s.queue l).staging
        - ((s.eventsOf l).records.map fun r => match r.event with | .readData _ w h _ => 2 * w * h | _ => 0).sum
        - ((s.leavingJobs l).map fun j => j.op.staging).sum }
  engine : t.engine = s.engine.map fun f =>
    { f with abandon :=
        if f.abandon ≠ none then f.abandon
        else if f.link = l then some .abandoned
        else
          match (List.finRange 32).find? fun i => decide ((s.window i).owner = some l) && (s.window i).live &&
              (decide (f.job.op.target = some ⟨i, (s.window i).gen⟩) || decide (f.job.op.source = some ⟨i, (s.window i).gen⟩)) with
          | some i => if f.job.op.target = some ⟨i, (s.window i).gen⟩ then some .abandoned else some .sourceLost
          | none => none }
  stamps : ∀ i, t.stamp i =
    let st := s.stamp i
    let left := st.references - namings (s.leavingJobs l) i
    if s.retires (s.leavingJobs l) i = true ∨ (st.owner = some l ∧ left = 0) then
      { st with gen := st.gen + 1, state := .free, owner := none, references := 0,
                contents := List.replicate (match st.kind with | .mask16 => 32 | .pattern8 => 128) 0 }
    else if st.owner = some l then { st with state := .retiring, owner := none, references := left }
    else { st with references := left }
  ownedStamps : ∀ k, t.ownedStamps.get k = if k = l then 0 else s.ownedStamps.get k -
    (List.finRange 192).countP fun i => s.retires (s.leavingJobs l) i && decide ((s.stamp i).owner = some k)
  stack : t.stack = s.stack.filter fun i => !((s.window i).live && decide ((s.window i).owner = some l))
  windows : ∀ i, t.window i =
    let w := s.window i
    let closed : Window :=
      { w with state := .closing, closeReason := some .teardown, grants := PerLink.all false, flipPending := none }
    if w.owner ≠ some l then { w with grants := w.grants.set l false }
    else if i ∈ s.releasedAtEnd l then
      { closed with gen := w.gen + 1, state := .free, owner := none, key := none, closeReason := none, buf0 := [], buf1 := [] }
    else if w.live then closed
    else if w.state = .closing then { w with closeReason := some .teardown }
    else w
  pool : t.pool =
    { s.pool with
        scrub := s.pool.scrub ++ s.pagesOfSlots (s.releasedAtEnd l)
        busy := if s.releasedAtEnd l = [] then s.pool.busy
          else decide (s.pool.scrub ++ s.pagesOfSlots (s.releasedAtEnd l) ≠ [])
        held := s.pool.held.set l (s.pool.held.get l - ((s.releasedAtEnd l).map fun i => (s.window i).pages).sum) }
  contacts : ∀ k, t.contact k =
    match (s.contact k).capture with
    | some h =>
      if (s.window h.slot).owner = some l ∧ (s.window h.slot).live = true ∧ (s.window h.slot).gen = h.gen then
        { s.contact k with capture := none, lastSent := none }
      else s.contact k
    | none => s.contact k
  otherLinks : ∀ k, k ≠ l → t.link k = s.link k ∧ t.queue k = s.queue k
  otherEvents : ∀ k, k ≠ l → t.eventsOf k =
    (List.range (s.leavingJobs l).length).foldl (fun (q : EventQueue) n =>
      match (s.leavingJobs l)[n]?.bind fun j => j.op.stamp with
      | some h =>
        let st := s.stamp h.slot
        if st.state = .retiring ∧ st.owner = some k ∧ s.isUp k = true ∧
            namings ((s.leavingJobs l).take n) h.slot + 1 = max 1 st.references then
          q.queueUnreserved (.stampFreed ⟨h.slot, st.gen⟩)
        else q
      | none => q) (s.eventsOf k)
  apart : { t with links := s.links, events := s.events, queues := s.queues, engine := s.engine, stamps := s.stamps,
                   ownedStamps := s.ownedStamps, stack := s.stack, windows := s.windows, pool := s.pool,
                   contacts := s.contacts } = s

/-! ### Well-formed jobs (R75) -/

/-- The rectangle's fields lie in the ranges of 5.1. -/
def Rect.wf (r : Rect) : Prop := r.x ≤ 1023 ∧ r.y ≤ 1023 ∧ 1 ≤ r.w ∧ r.w ≤ 1024 ∧ 1 ≤ r.h ∧ r.h ≤ 1024

/-- A BLEND weight is 0 to 16. -/
def Combine.wf : Combine → Prop
  | .blend w => w ≤ 16
  | _ => True

/-- The job is well formed for its kind (R75). -/
def JobOp.wf : JobOp → Prop
  | .fill _ r _ c => r.wf ∧ c.wf
  | .copy _ r _ _ sx sy c _ => r.wf ∧ c.wf ∧ sx ≤ 1023 ∧ sy ≤ 1023
  | .tile _ r _ c _ => r.wf ∧ c.wf
  | .stampExpand _ r _ _ _ => r.wf ∧ r.w ≤ 16 ∧ r.h ≤ 16
  | .maskExpand _ r _ _ mask => r.wf ∧ mask.length = r.h * ((r.w + 7) / 8) ∧ mask.length ≤ 4096
  | .write _ r c _ pixels => r.wf ∧ c.wf ∧ pixels.length = r.w * r.h ∧ r.w * r.h ≤ 2048
  | .read _ _ r => r.wf ∧ r.w * r.h ≤ 2048
  | .present _ => True
  | .mark => True

/-! ### The laws of the part -/

/-- Surface memory is in its canonical form. -/
def MemoryLaw (s : State) : Prop := Memory.wf s.mem

/-- The law of the live stack (R38). -/
structure StackLaw (s : State) : Prop where
  once : s.stack.Nodup
  holdsShown : ∀ i, i ∈ s.stack ↔ (s.window i).state = .shown
  tiersRise : s.stack.Pairwise fun i j => (s.window i).tier ≤ (s.window j).tier

/-- The law of one event queue (R141, R142, R144): its bounds, its sent records the oldest ones, its numbers consecutive, and a
lost count that waits only while nothing can take it. -/
structure EventQueue.Sound (q : EventQueue) : Prop where
  bounded : q.records.length + q.reserved ≤ 64
  sentBounded : q.sentCount ≤ 8
  sentHeld : q.sentCount ≤ q.records.length
  sentOldest : ∀ r ∈ q.records.take q.sentCount, r.sent = true
  unsentNewest : ∀ r ∈ q.records.drop q.sentCount, r.sent = false
  consecutive : ∀ k (h : k < q.records.length), (q.records[k]).seq = q.nextSeq - BitVec.ofNat 16 (q.records.length - k)
  lostBounded : q.lost ≤ 65535
  lostWaits : q.lost ≠ 0 → q.records.length + q.reserved = 64 ∧
    ∀ r, (q.records.filter EventRecord.isLost).getLast? = some r → r.sent = true

/-- The law of the event queues. -/
def EventLaw (s : State) : Prop := ∀ l, (s.eventsOf l).Sound

/-- The law of one link controller (R153, R158, R159, R162, R166, R171, R172). -/
structure LinkCtl.Sound (c : LinkCtl) : Prop where
  backlogBounded : c.backlog.length ≤ 4
  cacheBounded : c.cache.length ≤ 4
  cacheInSession : c.state ≠ .up → c.cache = []
  goodbyeInUp : c.goodbye = true → c.state = .up
  timerRuns : c.timer.isSome = true ↔ c.state = .up ∧ c.goodbye = false
  timerWithinLease : ∀ t, c.timer = some t → ∃ lease, c.lease = some lease ∧ 10 ≤ lease ∧ lease ≤ 2000 ∧ t ≤ lease
  recordAtRest : c.state ≠ .teardown → c.toRelease = 0 ∧ c.jobPending = false
  waitsForSomething : c.state = .teardown → c.toRelease ≠ 0 ∨ c.jobPending = true

/-- The law of the link controllers. -/
def LinkLaw (s : State) : Prop := ∀ l, (s.link l).Sound

/-- Every live window has an owner that is UP (R21, R131). -/
def LiveOwned (s : State) : Prop := ∀ i, (s.window i).live = true → ∃ l, (s.window i).owner = some l ∧ s.isUp l = true

/-- The law of the contacts (R132): a capture is held by a HELD contact and names a SHOWN window whose owner is UP. -/
structure TouchLaw (s : State) : Prop where
  liveOwned : LiveOwned s
  captured : ∀ k h, (s.contact k).capture = some h →
    (s.contact k).state = .held ∧ s.current h = true ∧ (s.window h.slot).state = .shown ∧
      ∃ l, (s.window h.slot).owner = some l ∧ s.isUp l = true

/-- The pages needed by the windows a link owns (R31). -/
def State.pagesOwned (s : State) (l : Link) : Nat :=
  ((List.finRange 32).map fun i => if (s.window i).owner = some l then (s.window i).pages else 0).sum

/-- The law of the pages (R22, R30, R31, R32): every page is in exactly one place, the free set is kept in ascending order, a
page is being scrubbed exactly while one is queued and RESET_N is high, buffers have the sizes of their windows, and the
held-page counts are those of the windows owned, at most 1024 under EVEN. Every page of the free set holds only zero pixels
(R23); the job in flight writes into a buffer that its target still holds (R11, R112). -/
structure PageLaw (s : State) : Prop where
  partition : (s.pool.free ++ s.pool.scrub ++ s.heldPages).Perm (List.range 4096)
  ascending : s.pool.free.Pairwise (· < ·)
  scrubbing : s.pool.busy = (s.resetN && !s.pool.scrub.isEmpty)
  freeWindows : ∀ i, (s.window i).state = .free → (s.window i).owner = none ∧ (s.window i).buf0 = [] ∧ (s.window i).buf1 = []
  usedWindows : ∀ i, (s.window i).state ≠ .free → (s.window i).owner ≠ none ∧
    (s.window i).buf0.length = pagesPerBuffer (s.window i).width (s.window i).height ∧
    (s.window i).buf1.length =
      match (s.window i).buffering with
      | .single => 0
      | .double => pagesPerBuffer (s.window i).width (s.window i).height
  counted : ∀ l, s.pool.held.get l = s.pagesOwned l
  even : s.pins.pool = false → ∀ l, s.pool.held.get l ≤ 1024
  zeroed : ∀ p ∈ s.pool.free, ∀ a, p * 2048 ≤ a → a < (p + 1) * 2048 → readByte s.mem a = 0
  drawnInTarget : ∀ f h, s.engine = some f → f.job.op.target = some h →
    (s.window h.slot).gen = h.gen ∧ (s.window h.slot).state ≠ .free ∧
      (f.writePages = (s.window h.slot).buf0 ∨ f.writePages = (s.window h.slot).buf1)

/-- A job for the draw engine: neither PRESENT nor MARK (5.1). -/
def JobOp.forEngine : JobOp → Bool
  | .present _ => false
  | .mark => false
  | _ => true

/-- The law of the job queues and the engine (R74, R80, R84): the bounds, the head states, the job in flight at the head of its
link's queue, and no ELIGIBLE head beside an idle engine. -/
structure JobLaw (s : State) : Prop where
  entriesBounded : ∀ l, (s.queue l).entries.length ≤ 16
  stagingBounded : ∀ l, (s.queue l).staging ≤ 16384
  emptyHead : ∀ l, (s.queue l).head = .empty ↔ (s.queue l).entries = []
  flightHead : ∀ l, (s.queue l).head = .inFlight ↔ ∃ f, s.engine = some f ∧ f.link = l
  flightJob : ∀ f, s.engine = some f → (s.queue f.link).entries.head? = some f.job ∧ f.job.op.forEngine = true
  eligibleJob : ∀ l, (s.queue l).head = .eligible → ∀ j, (s.queue l).entries.head? = some j → j.op.forEngine = true
  engineBusy : s.engine = none → ∀ l, (s.queue l).head ≠ .eligible

/-- The job names the stamp of a slot. -/
def Job.namesStamp (i : StampSlot) (j : Job) : Bool := j.op.stamp.any fun h => decide (h.slot = i)

/-- The number of queued and in-flight jobs that name the stamp of a slot; a job in flight is the head of its queue. -/
def State.naming (s : State) (i : StampSlot) : Nat :=
  (allLinks.map fun l => (s.queue l).entries.countP (Job.namesStamp i)).sum

/-- The number of stamps a link owns (R117). -/
def State.stampsOwned (s : State) (l : Link) : Nat :=
  (List.finRange 192).countP fun i => decide ((s.stamp i).owner = some l)

/-- The law of the stamps (R116, R117, R122). -/
structure StampLaw (s : State) : Prop where
  counted : ∀ i, (s.stamp i).references = s.naming i
  named : ∀ l, ∀ j ∈ (s.queue l).entries, ∀ h, j.op.stamp = some h → s.stampCurrent h = true
  freeStamps : ∀ i, (s.stamp i).state = .free →
    (s.stamp i).references = 0 ∧ (s.stamp i).owner = none ∧ ∀ b ∈ (s.stamp i).contents, b = 0
  unowned : ∀ i, (s.stamp i).owner = none → (s.stamp i).state ≠ .loaded
  retiringUsed : ∀ i, (s.stamp i).state = .retiring → (s.stamp i).references ≠ 0
  owned : ∀ l, s.ownedStamps.get l = s.stampsOwned l
  even : s.pins.pool = false → ∀ l, s.ownedStamps.get l ≤ 48

/-- The law of the sessions (R9, R169, R172): what the links that are not UP hold, and what a teardown waits for. -/
structure SessionLaw (s : State) : Prop where
  liveOwned : LiveOwned s
  freeOwnerless : ∀ i, (s.window i).state = .free ↔ (s.window i).owner = none
  closingInUp : ∀ i l, (s.window i).state = .closing → (s.window i).owner = some l → s.isUp l = true →
    (s.window i).closeReason = some .owner
  closingInTeardown : ∀ i l, (s.window i).state = .closing → (s.window i).owner = some l → (s.link l).state = .teardown →
    (s.window i).closeReason = some .teardown
  eventsInUp : ∀ l, s.isUp l = false → (s.eventsOf l).records = [] ∧ (s.eventsOf l).reserved = 0
  stampsInUp : ∀ l, s.isUp l = false → ∀ i, (s.stamp i).owner ≠ some l
  jobsInUp : ∀ l, s.isUp l = false → (s.queue l).entries ≠ [] →
    (s.queue l).head = .inFlight ∧ (s.queue l).entries.length = 1
  awaited : ∀ l, (s.link l).state = .teardown →
    (s.link l).toRelease = s.ownedWindows l ∧ (s.link l).jobPending = s.ownsEngine l
  nothingInDown : ∀ l, (s.link l).state = .down →
    (∀ i, (s.window i).owner ≠ some l) ∧ (s.queue l).entries = []

/-- The law of the transmitters (R160): every transmitter that is idle has nothing to take. -/
def TransmitterLaw (s : State) : Prop := ∀ l, s.settled l

end Sys2Proof.Machine
end

