-- ==== Sys2Proof/Certificates/Slice0/Obligations.lean ====
section
/-!
DEFINITION. The statements for the provers, in the order of the spec's files.
A response is spoken of through `Answers` and `AnswersOutside`, a session's end through `SessionEnded`, the laws through the
structures of Sys2Proof/Safety.lean.
`TransmitterLaw` as a premise says that no idle transmitter has anything to take; it is stated as a law of its own.
-/

open Sys2Proof Sys2Proof.Machine

/-! ### The machine as a whole -/

/-- A step takes the command at the front of the queue and executes it on the state with the queue's rest. -/
def Obligations.FrontCommandIsExecuted : Prop :=
  ∀ (c : Instr) (rest : List Instr) (s : State), s.pending = c :: rest → step s = exec c { s with pending := rest }

/-- Every command, on every state, answers a next state, and leaves the commands that wait behind it as they are. That they stay
through a PIN_RESET too is the model's choice (log 23). -/
def Obligations.EveryCommandAnswersNext : Prop :=
  ∀ (c : Instr) (s : State), ∃ t, exec c s = .next t ∧ t.pending = s.pending

/-- While RESET_N is low, no command but PIN_RESET and RESET_RELEASE changes anything (log 5 for the internal events). -/
def Obligations.NothingMovesInReset : Prop :=
  ∀ (c : Instr) (s : State), s.resetN = false → (∀ pins, c ≠ .pinReset pins) → c ≠ .resetRelease → exec c s = .next s

/-- A step on an empty queue is one millisecond of the lease timers (the model's choice, log 2): a timer short of its lease
counts on with its session, one that has already reached its lease ends the session with reason LEASE, a stopped one stays
stopped. Where none has reached its lease nothing else changes; where one has, links A to D in turn count on or end their session,
as `SessionEnded` gives it, after which heads are examined and the arbiter grants (logs 21, 31 and 32); then the transmitters
choose. -/
def Obligations.IdleMillisecond : Prop :=
  ∀ s : State, s.pending = [] → s.resetN = true →
    (∃ t, step s = .next t ∧ ∀ l,
      (∀ n lease, (s.link l).timer = some n → (s.link l).lease = some lease → n < lease →
        (t.link l).timer = some (n + 1) ∧ (t.link l).state = (s.link l).state) ∧
      (∀ n lease, (s.link l).timer = some n → (s.link l).lease = some lease → lease ≤ n →
        (t.link l).timer = none ∧ (t.link l).state ≠ .up ∧ (t.link l).lastEnd = .lease) ∧
      ((s.link l).timer = none → (t.link l).timer = none)) ∧
    (let reached := fun (u : State) (l : Link) =>
       ∃ n lease, (u.link l).timer = some n ∧ (u.link l).lease = some lease ∧ lease ≤ n
     let older := fun c : LinkCtl => { c with timer := c.timer.map fun n => n + 1 }
     ((∀ l, ¬ reached s l) →
       let counted : State :=
         { s with links := ⟨older s.links.A, older s.links.B, older s.links.C, older s.links.D⟩ }
       step s = .next counted.transmitAll ∧ (TransmitterLaw s → counted.transmitAll = counted)) ∧
     (let counts := fun (l : Link) (u v : State) =>
        (reached u l → ∃ w, SessionEnded u w l .lease ∧ (w.link l).tx = (u.link l).tx ∧
          v = (allLinks.foldl State.examineHead w).arbitrate) ∧
          (¬ reached u l → v = u.setLink l (older (u.link l)))
      ∃ a b c d : State, counts .A s a ∧ counts .B a b ∧ counts .C b c ∧ counts .D c d ∧ step s = .next d.transmitAll))

/-! ### Reset and the page pool -/

/-- What PIN_RESET leaves in every block, with the pin levels it samples, and what RESET_RELEASE then changes. -/
def Obligations.PinResetAndRelease : Prop :=
  (∀ (pins : Pins) (s : State), ∃ t, exec (.pinReset pins) s = .next t ∧ t.resetN = false ∧ t.pins = pins ∧
    (∀ i, (t.window i).state = .free ∧ (t.window i).gen = 0 ∧ (t.window i).owner = none ∧ (t.window i).flipPending = none ∧
      (t.window i).key = none ∧ (t.window i).closeReason = none ∧ (t.window i).grants = PerLink.all false ∧
      (t.window i).onGlass = false) ∧
    t.pool = { free := [], scrub := List.range 4096, busy := false, held := PerLink.all 0 } ∧
    t.stack = [] ∧ t.scanout.frameNumber = 0 ∧ t.scanout.record = [] ∧
    (∀ l, t.queue l = { entries := [], head := .empty, staging := 0 }) ∧ t.lastServed = .D ∧ t.engine = none ∧
    (∀ i, (t.stamp i).state = .free ∧ (t.stamp i).gen = 0 ∧ (t.stamp i).references = 0 ∧ (t.stamp i).owner = none ∧
      ∀ b ∈ (t.stamp i).contents, b = 0) ∧
    (∀ l, t.ownedStamps.get l = 0) ∧
    (∀ k, t.contact k = { state := .none, capture := none, last := none, lastSent := none }) ∧
    (∀ l, t.eventsOf l = { records := [], reserved := 0, sentCount := 0, lost := 0, nextSeq := 0 }) ∧
    (∀ l, t.link l = { state := .down, goodbye := false, expected := 0, cache := [], backlog := [], lease := none,
                       timer := none, lastEnd := .reset, notify := false, tx := .idle, toRelease := 0,
                       jobPending := false })) ∧
  (∀ s : State, s.resetN = false →
    exec .resetRelease s = .next { s with resetN := true, pool := { s.pool with busy := decide (s.pool.scrub ≠ []) } })

/-- SCRUB_COMPLETION: the page being scrubbed leaves the queue for the free set with every pixel zero, the next page's scrub
starts or the unit becomes idle, and nothing else changes. -/
def Obligations.ScrubCompletionFreesPage : Prop :=
  ∀ (s : State) (page : Nat) (rest : List Nat), s.resetN = true → s.pool.busy = true → s.pool.scrub = page :: rest →
    ∃ t, exec .scrubCompletion s = .next t ∧ t.pool.scrub = rest ∧ t.pool.busy = decide (rest ≠ []) ∧
      (∀ q, q ∈ t.pool.free ↔ q = page ∨ q ∈ s.pool.free) ∧ t.pool.free.length = s.pool.free.length + 1 ∧
      t.pool.held = s.pool.held ∧ t.pageState page = .free ∧
      (∀ a, readByte t.mem a = if page * 2048 ≤ a ∧ a < (page + 1) * 2048 then 0 else readByte s.mem a) ∧
      { t with pool := s.pool, mem := s.mem } = s

/-! ### Formats -/

/-- Frames in both directions. For every well-formed command that arrives in a frame, the frame that carries it, with any frame
type byte and any value of the reserved byte 2, is taken as that command; a payload on a command without fields is ignored; and
a frame is CHECK_FAILED exactly if it is shorter than 8 bytes, carries another check, or declares a payload above 4160 bytes or
of another length than its own. And the bytes that a transmitter sends, written out: the 6-byte header, the payload of every
response and of every event, and the check, which is the CRC-16 taken bit by bit; an idle transmitter sends none. (The grants
byte of WINDOW_INFO has link D in bit 3: log 12.) -/
def Obligations.FrameRoundTrip : Prop :=
  (∀ (i : Instr) (l : Link) (code seq : Byte) (p : List Byte), i.wf = true → i.framed = some (l, code, seq, p) →
    ∀ ty reserved : Byte, Instr.ofFrame l (frameBytes ty code (be16 reserved seq) p) = i) ∧
  (let b1 := fun n : Nat => BitVec.ofNat 8 n
   let b2 := fun n : Nat => [b1 (n / 256), b1 n]
   let b4 := fun n : Nat => b2 (n / 65536) ++ b2 n
   let signed := fun x : Int => b2 (x % 65536).toNat
   let flag := fun c : Bool => if c then 1 else 0
   let handle := fun h : Handle => [b1 h.slot.val, h.gen]
   let stampHandle := fun h : StampHandle => [b1 h.slot.val, h.gen]
   let link := fun l : Link => match l with | .A => 0 | .B => 1 | .C => 2 | .D => 3
   let check := fun bytes : List Byte =>
     (bytes.flatMap fun b => (List.range 8).map fun i => b.getLsbD (7 - i)).foldl
       (fun (c : BitVec 16) bit => (c <<< 1) ^^^ (if c.msb ≠ bit then 0x1021#16 else 0#16)) 0xFFFF#16
   let frame := fun (ty code : Byte) (seq : Nat) (payload : List Byte) =>
     let body := [ty, code] ++ b2 seq ++ b2 payload.length ++ payload
     some (body ++ b2 (check body).toNat)
   let response := fun (r : Response) (fields : List Byte) =>
     (Transmitter.response r).bytes = frame 0x02 r.code r.seq.toNat ([r.status.code, r.expected] ++ fields)
   let event := fun (r : EventRecord) (kind : Byte) (payload : List Byte) =>
     (Transmitter.event r).bytes = frame 0x03 kind r.seq.toNat payload
   (∀ (ty code : Byte) (seq : Half) (p : List Byte), some (frameBytes ty code seq p) = frame ty code seq.toNat p) ∧
   (∀ (l : Link) (bytes : List Byte),
     let declared := (bytes.getD 4 0).toNat * 256 + (bytes.getD 5 0).toNat
     let carried := (bytes.getD (bytes.length - 2) 0).toNat * 256 + (bytes.getD (bytes.length - 1) 0).toNat
     Instr.ofFrame l bytes = .checkFailed l ↔
       bytes.length < 8 ∨ carried ≠ (check (bytes.take (bytes.length - 2))).toNat ∨ 4160 < declared ∨
         bytes.length ≠ declared + 8) ∧
   (∀ (l : Link) (ty reserved seq : Byte) (p : List Byte), p.length ≤ 4160 →
     let taken := fun code : Byte => Instr.ofFrame l (frameBytes ty code (be16 reserved seq) p)
     taken 0x02 = .goodbye l seq ∧ taken 0x03 = .ping l seq ∧ taken 0x05 = .status l seq ∧ taken 0x07 = .resendEvents l seq ∧
       ∀ code, (Instr.badCommand l seq code).wf = true → taken code = .badCommand l seq code) ∧
   Transmitter.idle.bytes = none ∧
   (∀ r : Response, r.result = .none → response r []) ∧
   (∀ (r : Response) (l : Link) (e : EndReason) (panel : BitVec 2) (isOpen tier3 : Bool) (lease : Nat),
     r.result = .hello l e panel isOpen tier3 lease →
     response r
       ([b1 (link l), match e with | .reset => 0 | .goodbye => 1 | .lease => 2 | .fault => 3, b1 panel.toNat, flag isOpen,
         flag tier3, 0] ++ b2 lease)) ∧
   (∀ (r : Response) (h : Handle), r.result = .window h → response r (handle h)) ∧
   (∀ (r : Response) (h : StampHandle), r.result = .stamp h → response r (stampHandle h)) ∧
   (∀ (r : Response) (f : StatusReport), r.result = .status f →
     response r
       (b2 f.freePages ++ b2 f.scrubBacklog ++ b4 f.frameNumber.toNat ++ [b1 f.panel.toNat, flag f.policyOpen] ++
         b2 f.heldPages ++ [b1 f.ownedStamps, b1 f.queuedJobs] ++ b2 f.stagingBytes ++
         [b1 f.queuedEvents, b1 f.reservations])) ∧
   (∀ (r : Response) (w : InfoReport) (o : Link), r.result = .info w → w.owner = some o →
     response r
       ([if w.shown then 2 else 1, b1 (link o)] ++ b2 w.width ++ b2 w.height ++ signed w.x ++ signed w.y ++
         [b1 w.tier, match w.buffering with | .single => 0 | .double => 1, b1 w.weight,
          b1 ((if w.key = none then 0 else 1) + (if w.touch then 2 else 0) + (if w.flipTag = none then 0 else 4) +
            (if w.onGlass then 8 else 0))] ++
         b2 (match w.key with | some c => c.toNat | none => 0) ++
         [match w.front with | .zero => 0 | .one => 1,
          b1 ((if w.grants.get .A then 1 else 0) + (if w.grants.get .B then 2 else 0) + (if w.grants.get .C then 4 else 0) +
            (if w.grants.get .D then 8 else 0))] ++
         b2 (match w.flipTag with | some tag => tag.toNat | none => 0))) ∧
   (∀ (r : EventRecord) (tag : Half) (kind : JobKind), r.event = .jobDone tag kind →
     event r 0x01 (b2 tag.toNat ++ [kind.code])) ∧
   (∀ (r : EventRecord) (tag : Half) (status : Status), r.event = .jobFailed tag status →
     event r 0x02 (b2 tag.toNat ++ [status.code])) ∧
   (∀ (r : EventRecord) (tag : Half) (w h : Nat) (pixels : List Pixel), r.event = .readData tag w h pixels →
     event r 0x03 (b2 tag.toNat ++ b2 w ++ b2 h ++ pixels.flatMap fun c => b2 c.toNat)) ∧
   (∀ (r : EventRecord) (tag : Half) (n : BitVec 32), r.event = .presented tag n →
     event r 0x04 (b2 tag.toNat ++ b4 n.toNat)) ∧
   (∀ (r : EventRecord) (n : BitVec 32) (count : Nat), r.event = .frame n count → event r 0x05 (b4 n.toNat ++ b2 count)) ∧
   (∀ (r : EventRecord) (kind : TouchKind) (k : ContactNumber) (h : Handle) (x y : Int), r.event = .touch kind k h x y →
     event r (match kind with | .down => 0x06 | .move => 0x07 | .up => 0x08 | .cancel => 0x09)
       ([b1 k.val, 0] ++ handle h ++ signed x ++ signed y)) ∧
   (∀ (r : EventRecord) (h : Handle), r.event = .windowClosed h → event r 0x0A (handle h)) ∧
   (∀ (r : EventRecord) (h : StampHandle), r.event = .stampFreed h → event r 0x0B (stampHandle h)) ∧
   (∀ (r : EventRecord) (count : Nat), r.event = .lostEvents count → event r 0x0C (b2 count)) ∧
   [JobKind.fill, .copy, .tile, .stampExpand, .maskExpand, .write, .read, .present, .mark].map JobKind.code =
     [1, 2, 3, 4, 5, 6, 7, 8, 9] ∧
   [Status.ok, .accepted, .freed, .retiring, .checkFailed, .sequenceError, .notAttached, .retryLater].map Status.code =
     [0x00, 0x01, 0x02, 0x03, 0x10, 0x11, 0x12, 0x13] ∧
   [Status.wrongState, .badCommand, .badParam, .staleHandle, .notOwner, .denied, .outOfBounds, .tierDenied].map Status.code =
     [0x20, 0x21, 0x22, 0x23, 0x24, 0x25, 0x26, 0x27] ∧
   [Status.noWindowSlot, .quota, .poolFull, .poolBusy, .stampFull, .stampInUse, .stampRetiring, .queueFull, .stagingFull,
       .eventsFull, .badAck].map Status.code =
     [0x30, 0x31, 0x32, 0x33, 0x34, 0x35, 0x36, 0x37, 0x38, 0x39, 0x3A] ∧
   [Status.done, .targetGone, .sourceGone, .abandoned, .sourceLost, .cancelled].map Status.code =
     [0x40, 0x41, 0x42, 0x43, 0x44, 0x45])

/-- For every well-formed job of the nine kinds, the payload a host lays it out in is read back as that job. And for any payload
of SUBMIT at all: it is ill formed in exactly the listed cases (too short, a kind or a field of the kind outside its range or
codes, sizes above the kind's, inline data of the wrong length), and any other gives the job whose fields its bytes spell; bytes
that the kind does not carry are not read. -/
def Obligations.JobRecordRoundTrip : Prop :=
  (∀ j : Job, j.op.wf → jobRequest j.payload = some j) ∧
  (∀ p : List Byte,
    let byte := fun i => (p.getD i 0).toNat
    let half := fun i => byte i * 256 + byte (i + 1)
    let kind := byte 0
    let inline := p.drop 32
    let isOne := fun ks : List Nat => kind ∈ ks
    let illFormed :=
      p.length < 32 ∨ ¬ isOne [1, 2, 3, 4, 5, 6, 7, 8, 9] ∨
      (isOne [1, 2, 3, 4, 5, 6, 8] ∧ 31 < byte 4) ∨
      (isOne [1, 2, 3, 4, 5, 6, 7] ∧
        (1023 < half 6 ∨ 1023 < half 8 ∨ half 10 = 0 ∨ 1024 < half 10 ∨ half 12 = 0 ∨ 1024 < half 12)) ∨
      (isOne [2, 7] ∧ (31 < byte 14 ∨ 1 < byte 16)) ∨
      (isOne [2] ∧ (1023 < half 20 ∨ 1023 < half 22)) ∨
      (isOne [1, 2, 3, 6] ∧ (7 < byte 17 ∨ (byte 17 = 7 ∧ 16 < byte 18))) ∨
      (isOne [3, 4] ∧ 191 < byte 30) ∨
      (isOne [4] ∧ (16 < half 10 ∨ 16 < half 12)) ∨
      (isOne [6, 7] ∧ 2048 < half 10 * half 12) ∨
      (isOne [6] ∧ inline.length ≠ 2 * half 10 * half 12) ∨
      (isOne [5] ∧ (inline.length ≠ half 12 * ((half 10 + 7) / 8) ∨ 4096 < inline.length)) ∨
      (isOne [1, 2, 3, 4, 7, 8, 9] ∧ inline ≠ [])
    let window := fun i => (⟨Fin.ofNat 32 (byte i), p.getD (i + 1) 0⟩ : Handle)
    let stamp := (⟨Fin.ofNat 192 (byte 30), p.getD 31 0⟩ : StampHandle)
    let rect : Rect := ⟨half 6, half 8, half 10, half 12⟩
    let select := if byte 16 = 0 then BufferSelect.shown else .drawing
    let combine := match byte 17 with
      | 0 => Combine.replace
      | 1 => .and
      | 2 => .or
      | 3 => .xor
      | 4 => .invertDest
      | 5 => .sourceInvert
      | 6 => .andInverted
      | _ => .blend (byte 18)
    let colour := fun i => BitVec.ofNat 16 (half i)
    let flag := fun i => (p.getD 1 0).getLsbD i
    let skip := if flag 1 then some (colour 28) else none
    let bg := if flag 2 then some (colour 26) else none
    let op := match kind with
      | 1 => JobOp.fill (window 4) rect (colour 24) combine
      | 2 => .copy (window 4) rect (window 14) select (half 20) (half 22) combine skip
      | 3 => .tile (window 4) rect stamp combine skip
      | 4 => .stampExpand (window 4) rect stamp (colour 24) bg
      | 5 => .maskExpand (window 4) rect (colour 24) bg inline
      | 6 => .write (window 4) rect combine skip ((List.range (half 10 * half 12)).map fun i => colour (32 + 2 * i))
      | 7 => .read (window 14) select rect
      | 8 => .present (window 4)
      | _ => .mark
    (illFormed → jobRequest p = none) ∧ (¬ illFormed → jobRequest p = some ⟨colour 2, flag 0, op⟩))

/-- The fields of the command payloads, written out byte by byte with any surplus bytes behind them: a payload is read exactly
when its fields lie in their ranges, and gives their values. A payload shorter than its command's fixed fields gives none, and
so does one whose window handle has a slot number above 31. -/
def Obligations.CommandFieldsRead : Prop :=
  (∀ p : List Byte,
    (p.length < 2 → helloLease p = none ∧ ackField p = none ∧ handleField p = none) ∧
    (p.length < 1 → notifyField p = none) ∧ (p.length < 10 → openRequest p = none) ∧
    (p.length < 6 → moveRequest p = none ∧ lookRequest p = none) ∧
    (p.length < 3 → touchRequest p = none ∧ grantRequest p = none) ∧ (p.length < 5 → showRequest p = none) ∧
    (31 < (p.getD 0 0).toNat → handleField p = none ∧ moveRequest p = none ∧ lookRequest p = none ∧ touchRequest p = none ∧
      grantRequest p = none ∧ showRequest p = none)) ∧
  (∀ (lease : BitVec 16) (extra : List Byte),
    helloLease (bytesOf16 lease ++ extra) =
      if 10 ≤ lease.toNat ∧ lease.toNat ≤ 2000 then some lease.toNat else none) ∧
  (∀ (b : Byte) (extra : List Byte),
    notifyField (b :: extra) = if b = 0 then some false else if b = 1 then some true else none) ∧
  (∀ (n : BitVec 16) (extra : List Byte), ackField (bytesOf16 n ++ extra) = some n) ∧
  (∀ (slot gen : Byte) (extra : List Byte),
    handleField (slot :: gen :: extra) = if h : slot.toNat < 32 then some ⟨⟨slot.toNat, h⟩, gen⟩ else none) ∧
  (∀ (w h x y : BitVec 16) (tier buffering : Byte) (extra : List Byte),
    openRequest (bytesOf16 w ++ bytesOf16 h ++ bytesOf16 x ++ bytesOf16 y ++ tier :: buffering :: extra) =
      if 1 ≤ w.toNat ∧ w.toNat ≤ 1024 ∧ 1 ≤ h.toNat ∧ h.toNat ≤ 1024 ∧ -2048 ≤ x.toInt ∧ x.toInt ≤ 2047 ∧
          -2048 ≤ y.toInt ∧ y.toInt ≤ 2047 ∧ tier.toNat ≤ 3 ∧ buffering.toNat ≤ 1 then
        some ⟨w.toNat, h.toNat, x.toInt, y.toInt, tier.toNat, if buffering = 0 then .single else .double⟩
      else none) ∧
  (∀ (slot gen : Byte) (x y : BitVec 16) (extra : List Byte) (hs : slot.toNat < 32),
    moveRequest (slot :: gen :: bytesOf16 x ++ bytesOf16 y ++ extra) =
      if -2048 ≤ x.toInt ∧ x.toInt ≤ 2047 ∧ -2048 ≤ y.toInt ∧ y.toInt ≤ 2047 then
        some (⟨⟨slot.toNat, hs⟩, gen⟩, x.toInt, y.toInt)
      else none) ∧
  (∀ (slot gen weight keyed : Byte) (key : BitVec 16) (extra : List Byte) (hs : slot.toNat < 32),
    lookRequest (slot :: gen :: weight :: keyed :: bytesOf16 key ++ extra) =
      if weight.toNat ≤ 16 ∧ keyed.toNat ≤ 1 then
        some (⟨⟨slot.toNat, hs⟩, gen⟩, weight.toNat, if keyed = 0 then none else some key)
      else none) ∧
  (∀ (slot gen on : Byte) (extra : List Byte) (hs : slot.toNat < 32),
    touchRequest (slot :: gen :: on :: extra) =
      if on.toNat ≤ 1 then some (⟨⟨slot.toNat, hs⟩, gen⟩, decide (on = 1)) else none) ∧
  (∀ (slot gen links : Byte) (extra : List Byte) (hs : slot.toNat < 32),
    grantRequest (slot :: gen :: links :: extra) =
      some (⟨⟨slot.toNat, hs⟩, gen⟩, ⟨links.getLsbD 0, links.getLsbD 1, links.getLsbD 2, links.getLsbD 3⟩)) ∧
  (∀ (slot gen place rslot rgen : Byte) (extra : List Byte) (hs : slot.toNat < 32),
    showRequest (slot :: gen :: place :: rslot :: rgen :: extra) =
      if place = 0 then some (⟨⟨slot.toNat, hs⟩, gen⟩, .topOfTier)
      else if place = 1 then some (⟨⟨slot.toNat, hs⟩, gen⟩, .bottomOfTier)
      else if hr : rslot.toNat < 32 then
        if place = 2 then some (⟨⟨slot.toNat, hs⟩, gen⟩, .above ⟨⟨rslot.toNat, hr⟩, rgen⟩)
        else if place = 3 then some (⟨⟨slot.toNat, hs⟩, gen⟩, .below ⟨⟨rslot.toNat, hr⟩, rgen⟩)
        else none
      else none)

/-! ### Pixels and the picture -/

/-- The blend of two colours: each component is the rounded weighted mean; weight 16 gives the top colour, weight 0 the below
colour, equal colours themselves, weight 8 the mean with a half rounded up. -/
def Obligations.BlendArithmetic : Prop :=
  ∀ (top below : Pixel) (w : Nat), w ≤ 16 →
    red (blend top below w) = (w * red top + (16 - w) * red below + 8) / 16 ∧
    green (blend top below w) = (w * green top + (16 - w) * green below + 8) / 16 ∧
    blue (blend top below w) = (w * blue top + (16 - w) * blue below + 8) / 16 ∧
    (w = 16 → blend top below w = top) ∧ (w = 0 → blend top below w = below) ∧
    (top = below → blend top below w = top) ∧
    (w = 8 → red (blend top below w) = (red top + red below + 1) / 2 ∧
      green (blend top below w) = (green top + green below + 1) / 2 ∧
      blue (blend top below w) = (blue top + blue below + 1) / 2)

/-- The written value of each combine of S and D. -/
def Obligations.CombineFunctions : Prop :=
  ∀ (s d : Pixel),
    combined s d .replace = s ∧ combined s d .and = s &&& d ∧ combined s d .or = s ||| d ∧ combined s d .xor = s ^^^ d ∧
    combined s d .invertDest = ~~~d ∧ combined s d .sourceInvert = ~~~s ∧ combined s d .andInverted = d &&& ~~~s ∧
    (∀ w, combined s d (.blend w) = blend s d w) ∧ combined s d (.blend 16) = s ∧ combined s d (.blend 0) = d

/-- The frame on the panel port has the W × H pixels of the screen, row by row from the top and in each row from the left, and
no pixel while RESET_N is low. Every pixel of it is composed from the latched entries, bottom to top, starting from the base
colour; for each covering entry the value read is one that the buffer pixel has held since the frame start, or the one that the
row under way gives it, whatever the free choice, and it is the present value where nothing has been overwritten or is being
drawn (logs 10 and 11; of a CLOSING window on glass too, log 29). That the frame has its pixels before the first frame start
too is the model's reading (log 28). Where a buffer pixel lies is stated beside (that its high byte lies lower is log 8, and
what an index beyond the pages would read, which no run reaches, is log 18). -/
def Obligations.ComposedPixel : Prop :=
  (∀ s : State,
    let width := match s.pins.panel.toNat with | 0 => 480 | 1 => 640 | 2 => 800 | _ => 1024
    let height := match s.pins.panel.toNat with | 0 => 272 | 1 => 480 | 2 => 480 | _ => 600
    s.panelFrame.length = (if s.resetN then height else 0) ∧ (∀ row ∈ s.panelFrame, row.length = width) ∧
    (∀ sx sy, (s.panelFrame[sy]?).bind (fun row => row[sx]?) = s.framePixel sx sy) ∧
    (∀ sx sy, (s.framePixel sx sy).isSome = true ↔ s.resetN = true ∧ sx < width ∧ sy < height)) ∧
  (∀ (s : State) (sx sy : Nat) (c : Pixel), s.framePixel sx sy = some c →
    c =
      s.scanout.record.zipIdx.foldl
        (fun running entry =>
          let e := entry.1
          if e.x ≤ (sx : Int) ∧ (sx : Int) ≤ e.x + e.width - 1 ∧ e.y ≤ (sy : Int) ∧ (sy : Int) ≤ e.y + e.height - 1 then
            let c := s.shownValue sx sy entry.2 e.pages ((((sy : Int) - e.y) * e.width + ((sx : Int) - e.x)).toNat)
            if e.key = some c then running else blend c running e.weight
          else running)
        0x0000#16) ∧
  (∀ (s : State) (sx sy : Nat) (c : Pixel), s.framePixel sx sy = some c → s.scanout.earlier = [] →
    (∀ f, s.engine = some f → f.job.op.target = none) →
    c =
      s.scanout.record.foldl
        (fun running e =>
          if e.x ≤ (sx : Int) ∧ (sx : Int) ≤ e.x + e.width - 1 ∧ e.y ≤ (sy : Int) ∧ (sy : Int) ≤ e.y + e.height - 1 then
            let c := bufferPixel s.mem e.pages ((((sy : Int) - e.y) * e.width + ((sx : Int) - e.x)).toNat)
            if e.key = some c then running else blend c running e.weight
          else running)
        0x0000#16) ∧
  (∀ (s : State) (sx sy place index a : Nat) (pages : List Nat), pixelAddr pages index = some a →
    s.shownValue sx sy place pages index = readPixel s.mem a ∨
      (a, s.shownValue sx sy place pages index) ∈ s.scanout.earlier ∨
      ∃ f, s.engine = some f ∧ s.shownValue sx sy place pages index = readPixel (s.drawRow f).mem a) ∧
  (∀ (s : State) (sx sy place index : Nat) (pages : List Nat), pixelAddr pages index = none →
    s.shownValue sx sy place pages index = 0x0000#16) ∧
  (∀ (mem : Memory) (pages : List Nat) (index a : Nat),
    pixelAddr pages index = (pages[index / 1024]?).map (fun page => page * 2048 + 2 * (index % 1024)) ∧
    readPixel mem a = readByte mem a ++ readByte mem (a + 1) ∧
    bufferPixel mem pages index = match pixelAddr pages index with
      | some b => readPixel mem b
      | none => 0x0000#16)

/-! ### Links -/

/-- CHECK_FAILED is answered in every link state with the expected sequence in both places and code byte 0x00, and changes
nothing else; with 4 responses waiting the frame is discarded. -/
def Obligations.CheckFailedAnswered : Prop :=
  ∀ (l : Link) (s : State), s.resetN = true → s.settled l →
    ((s.link l).backlog.length < 4 →
      ∃ t, exec (.checkFailed l) s = .next t ∧
        AnswersOutside s t l ⟨0x00#8, (s.link l).expected, .checkFailed, (s.link l).expected, .none⟩) ∧
    (4 ≤ (s.link l).backlog.length → exec (.checkFailed l) s = .next s)

/-- On a link that is not UP, every sound frame but HELLO is answered NOT_ATTACHED, and HELLO in TEARDOWN RETRY_LATER, each
with the frame's code and sequence number and without executing anything; with 4 responses waiting, every frame is discarded. -/
def Obligations.OutsideSessionAnswered : Prop :=
  ∀ (i : Instr) (l : Link) (code seq : Byte) (p : List Byte) (s : State), i.framed = some (l, code, seq, p) →
    s.resetN = true → TransmitterLaw s → (s.link l).state ≠ .up →
    ((s.link l).backlog.length < 4 → (∀ q, i ≠ .hello l seq q) →
      ∃ t, exec i s = .next t ∧ AnswersOutside s t l ⟨code, seq, .notAttached, (s.link l).expected, .none⟩) ∧
    ((s.link l).backlog.length < 4 → i = .hello l seq p → (s.link l).state = .teardown →
      ∃ t, exec i s = .next t ∧ AnswersOutside s t l ⟨code, seq, .retryLater, (s.link l).expected, .none⟩) ∧
    (4 ≤ (s.link l).backlog.length → exec i s = .next s)

/-- On an UP link a sound frame is discarded while goodbye is pending; a number held in the response cache is answered with the
cached response; any other number that is not the expected one is answered SEQUENCE_ERROR. Nothing is executed, and the lease
is renewed in the last two cases. -/
def Obligations.SequenceNumberDecides : Prop :=
  ∀ (i : Instr) (l : Link) (code seq : Byte) (p : List Byte) (s : State), i.framed = some (l, code, seq, p) →
    s.resetN = true → TransmitterLaw s → (s.link l).state = .up →
    ((s.link l).goodbye = true → exec i s = .next s) ∧
    ((s.link l).goodbye = false → (s.link l).backlog.length < 4 → seq ≠ (s.link l).expected →
      let u := s.setLink l { s.link l with timer := (s.link l).timer.map fun _ => 0 }
      (∀ n r, (s.link l).cache.find? (fun e => decide (e.1 = seq)) = some (n, r) →
        ∃ t, exec i s = .next t ∧ AnswersOutside u t l r) ∧
      ((∀ e ∈ (s.link l).cache, e.1 ≠ seq) →
        ∃ t, exec i s = .next t ∧ AnswersOutside u t l ⟨code, seq, .sequenceError, (s.link l).expected, .none⟩))

/-- The three ways a session ends. A sound frame on an UP link without goodbye pending while 4 responses wait is a protocol
fault; the lease expires when its timer has reached it, and not before (log 3); the completion of GOODBYE's OK while goodbye is
pending ends the session. Each records its reason and starts the teardown, which `SessionEnded` gives part by part; then every
head that the flip of a closing window held is examined, links A to D, the arbiter grants, and the transmitters choose; a frame
under way is still sent. (Fields of a released window and of a freed stamp that no rule names keep their values: log 21. A head
so freed is another link's, which only a handle current again after 256 releases leads to: log 31; where there is none, nothing
is examined. That another link's job reading a window of the link takes SOURCE_LOST at once, in spite of the last paragraph of
R177, is the model's reading: log 32.) -/
def Obligations.SessionEnds : Prop :=
  let ends := fun (i : Instr) (s : State) (l : Link) (reason : EndReason) (tx : Transmitter) =>
    ∃ t u : State, exec i s = .next t ∧ SessionEnded s u l reason ∧ (u.link l).tx = tx ∧
      t = ((allLinks.foldl State.examineHead u).arbitrate).transmitAll ∧ t.link l = u.link l ∧
      (JobLaw s → s.othersWaitFor l (fun i => (s.window i).owner ≠ some l) → t = u.transmitAll)
  (∀ (i : Instr) (l : Link) (code seq : Byte) (p : List Byte) (s : State), i.framed = some (l, code, seq, p) →
    s.resetN = true → (s.link l).state = .up → (s.link l).goodbye = false → 4 ≤ (s.link l).backlog.length →
    ends i s l .fault (s.link l).tx) ∧
  (∀ (l : Link) (s : State) (n lease : Nat), s.resetN = true → (s.link l).timer = some n → (s.link l).lease = some lease →
    lease ≤ n →
    ends (.leaseExpiry l) s l .lease (s.link l).tx) ∧
  (∀ (l : Link) (s : State), (∀ n lease, (s.link l).timer = some n → (s.link l).lease = some lease → n < lease) →
    exec (.leaseExpiry l) s = .next s) ∧
  (∀ (l : Link) (s : State) (r : Response), s.resetN = true → (s.link l).tx = .response r → (s.link l).goodbye = true →
    r.code = 0x02#8 → r.status = .ok →
    ends (.transmitCompletion l) s l .goodbye .idle)

/-- HELLO on a DOWN link with room in the backlog and a lease of 10 to 2000 ms begins a session. -/
def Obligations.HelloBeginsSession : Prop :=
  ∀ (l : Link) (seq hi lo : Byte) (extra : List Byte) (s : State), s.resetN = true → (s.link l).state = .down →
    (s.link l).backlog.length < 4 → 10 ≤ (be16 hi lo).toNat → (be16 hi lo).toNat ≤ 2000 →
    ∃ t, exec (.hello l seq (hi :: lo :: extra)) s = .next t ∧
      let r : Response :=
        ⟨0x01#8, seq, .ok, seq + 1,
          .hello l (s.link l).lastEnd s.pins.panel s.pins.pool (alertOf s.pins l) (be16 hi lo).toNat⟩
      (t.link l).outgoing = (s.link l).outgoing ++ [r] ∧ (t.link l).tx ≠ .idle ∧
      { t.link l with tx := (s.link l).tx, backlog := (s.link l).backlog } =
        { s.link l with state := .up, goodbye := false, lease := some (be16 hi lo).toNat, timer := some 0,
                        expected := seq + 1, notify := false, cache := [(seq, r)] } ∧
      t.eventsOf l = { records := [], reserved := 0, sentCount := 0, lost := 0, nextSeq := 0 } ∧
      (∀ k, k ≠ l → t.link k = s.link k ∧ t.eventsOf k = s.eventsOf k) ∧
      { t with links := s.links, events := s.events } = s

/-- HELLO on a DOWN link whose lease is absent or outside 10 to 2000 ms is answered BAD_PARAM and the link stays DOWN; HELLO
executed on an UP link is answered WRONG_STATE and the session stays unchanged. -/
def Obligations.HelloRefused : Prop :=
  (∀ (l : Link) (seq : Byte) (p : List Byte) (s : State), s.resetN = true → (s.link l).state = .down →
    (s.link l).backlog.length < 4 →
    (p.length < 2 ∨ (be16 (p.getD 0 0) (p.getD 1 0)).toNat < 10 ∨ 2000 < (be16 (p.getD 0 0) (p.getD 1 0)).toNat) →
    ∃ t, exec (.hello l seq p) s = .next t ∧
      AnswersOutside s t l ⟨0x01#8, seq, .badParam, (s.link l).expected, .none⟩) ∧
  (∀ (l : Link) (seq : Byte) (p : List Byte) (s : State), s.ready l seq →
    ∃ t, exec (.hello l seq p) s = .next t ∧ Answers s t l seq 0x01#8 .wrongState .none)

/-- A code that names no command, with the expected sequence, is answered BAD_COMMAND and advances the sequence; PING is
answered OK. Neither changes anything else but the renewed lease. -/
def Obligations.BadCommandAndPing : Prop :=
  ∀ (l : Link) (seq : Byte) (s : State), s.ready l seq →
    (∀ code, ∃ t, exec (.badCommand l seq code) s = .next t ∧ Answers s t l seq code .badCommand .none) ∧
    (∃ t, exec (.ping l seq) s = .next t ∧ Answers s t l seq 0x03#8 .ok .none)

/-- GOODBYE is answered OK, sets goodbye pending and stops the lease timer; the link stays UP. -/
def Obligations.GoodbyeAccepted : Prop :=
  ∀ (l : Link) (seq : Byte) (s : State), s.ready l seq →
    ∃ t, exec (.goodbye l seq) s = .next t ∧
      Answers (s.setLink l { s.link l with goodbye := true, timer := none }) t l seq 0x02#8 .ok .none ∧
      (t.link l).state = .up

/-- SET_NOTIFY sets or clears the frame notify flag, and refuses an absent field or an undefined encoding with BAD_PARAM. -/
def Obligations.SetNotifyResult : Prop :=
  ∀ (l : Link) (seq : Byte) (s : State), s.ready l seq →
    (∀ (b : Byte) (extra : List Byte), b = 0 ∨ b = 1 →
      ∃ t, exec (.setNotify l seq (b :: extra)) s = .next t ∧
        Answers (s.setLink l { s.link l with notify := decide (b = 1) }) t l seq 0x04#8 .ok .none) ∧
    (∀ p : List Byte, (p = [] ∨ 1 < (p.getD 0 0).toNat) →
      ∃ t, exec (.setNotify l seq p) s = .next t ∧ Answers s t l seq 0x04#8 .badParam .none)

/-- STATUS is answered OK with the figures as they stand, and changes no state. -/
def Obligations.StatusResult : Prop :=
  ∀ (l : Link) (seq : Byte) (s : State), s.ready l seq →
    ∃ t, exec (.status l seq) s = .next t ∧
      Answers s t l seq 0x05#8 .ok
        (.status
          { freePages := s.pool.free.length, scrubBacklog := s.pool.scrub.length, frameNumber := s.scanout.frameNumber,
            panel := s.pins.panel, policyOpen := s.pins.pool, heldPages := s.pool.held.get l,
            ownedStamps := s.ownedStamps.get l, queuedJobs := (s.queue l).entries.length,
            stagingBytes := (s.queue l).staging, queuedEvents := (s.eventsOf l).records.length,
            reservations := (s.eventsOf l).reserved })

/-- When a frame completes that does not end the session, the transmitter takes the oldest waiting response; else, on an UP link
with fewer than 8 unacknowledged records, the oldest unsent record, which it marks sent and counts; else it stays idle. The ATTN
line is high exactly while RESET_N is high, the link is UP, and a response waits or a record is unsent. The choice of a
transmitter in any state is stated beside, and that all choose in the order A to D. -/
def Obligations.TransmitterChooses : Prop :=
  (∀ (l : Link) (s : State), s.resetN = true → (s.link l).tx ≠ .idle →
     (∀ r, (s.link l).tx = .response r → (s.link l).goodbye = true → ¬ (r.code = 0x02#8 ∧ r.status = .ok)) →
     (∀ r rest, (s.link l).backlog = r :: rest →
       exec (.transmitCompletion l) s = .next (s.setLink l { s.link l with tx := .response r, backlog := rest })) ∧
     (∀ old e new, (s.link l).backlog = [] → (s.link l).state = .up → (s.eventsOf l).sentCount < 8 →
       (s.eventsOf l).records = old ++ e :: new → (∀ x ∈ old, x.sent = true) → e.sent = false →
       exec (.transmitCompletion l) s =
         .next ((s.setLink l { s.link l with tx := .event { e with sent := true } }).setEvents l
           { s.eventsOf l with records := old ++ { e with sent := true } :: new,
                               sentCount := (s.eventsOf l).sentCount + 1 })) ∧
     ((s.link l).backlog = [] →
       ((s.link l).state ≠ .up ∨ 8 ≤ (s.eventsOf l).sentCount ∨ ∀ x ∈ (s.eventsOf l).records, x.sent = true) →
       exec (.transmitCompletion l) s = .next (s.setLink l { s.link l with tx := .idle }))) ∧
  (∀ (l : Link) (s : State), s.attn l = true ↔
    s.resetN = true ∧ (s.link l).state = .up ∧
      ((s.link l).backlog ≠ [] ∨ ∃ r ∈ (s.eventsOf l).records, r.sent = false)) ∧
  (∀ (l : Link) (s : State),
    ((s.link l).tx ≠ .idle → s.transmit l = s) ∧
    (∀ r rest, (s.link l).tx = .idle → (s.link l).backlog = r :: rest →
      s.transmit l = s.setLink l { s.link l with tx := .response r, backlog := rest }) ∧
    (∀ old e new, (s.link l).tx = .idle → (s.link l).backlog = [] → (s.link l).state = .up → (s.eventsOf l).sentCount < 8 →
      (s.eventsOf l).records = old ++ e :: new → (∀ x ∈ old, x.sent = true) → e.sent = false →
      s.transmit l =
        (s.setLink l { s.link l with tx := .event { e with sent := true } }).setEvents l
          { s.eventsOf l with records := old ++ { e with sent := true } :: new,
                              sentCount := (s.eventsOf l).sentCount + 1 }) ∧
    ((s.link l).tx = .idle → (s.link l).backlog = [] →
      ((s.link l).state ≠ .up ∨ 8 ≤ (s.eventsOf l).sentCount ∨ ∀ x ∈ (s.eventsOf l).records, x.sent = true) →
      s.transmit l = s)) ∧
  (∀ s : State, s.transmitAll = (((s.transmit .A).transmit .B).transmit .C).transmit .D)

/-! ### Event queues -/

/-- ACK_EVENTS retires the records up to and including the sent one it names, gives back the staging of retired READ_DATA
records and examines the lost count; it refuses a short payload with BAD_PARAM and any other number with BAD_ACK. RESEND_EVENTS
marks every record unsent, sets the sent-unacknowledged count to 0 and examines the lost count. -/
def Obligations.AckAndResend : Prop :=
  ∀ (l : Link) (seq : Byte) (s : State), s.ready l seq →
    (∀ p : List Byte, p.length < 2 →
      ∃ t, exec (.ackEvents l seq p) s = .next t ∧ Answers s t l seq 0x06#8 .badParam .none) ∧
    (∀ (hi lo : Byte) (extra : List Byte), (∀ r ∈ (s.eventsOf l).records, ¬ (r.seq = be16 hi lo ∧ r.sent = true)) →
      ∃ t, exec (.ackEvents l seq (hi :: lo :: extra)) s = .next t ∧ Answers s t l seq 0x06#8 .badAck .none) ∧
    (∀ (hi lo : Byte) (extra : List Byte) (old : List EventRecord) (r : EventRecord) (new : List EventRecord),
      (s.eventsOf l).records = old ++ r :: new → r.seq = be16 hi lo → r.sent = true →
      (∀ x ∈ old, ¬ (x.seq = be16 hi lo ∧ x.sent = true)) →
      ∃ t, exec (.ackEvents l seq (hi :: lo :: extra)) s = .next t ∧
        Answers
          ((s.setQueue l
              { s.queue l with staging := (s.queue l).staging - ((old ++ [r]).map fun x =>
                  match x.event with
                  | .readData _ w h _ => 2 * w * h
                  | _ => 0).sum }).setEvents l
            ({ s.eventsOf l with records := new,
                                 sentCount := (s.eventsOf l).sentCount - (old.length + 1) } : EventQueue).reportLost)
          t l seq 0x06#8 .ok .none) ∧
    (∃ t, exec (.resendEvents l seq) s = .next t ∧
      Answers
        (s.setEvents l
          ({ s.eventsOf l with records := (s.eventsOf l).records.map fun x => { x with sent := false },
                               sentCount := 0 } : EventQueue).reportLost)
        t l seq 0x07#8 .ok .none)

/-- How an event queue takes an unreserved event, and reports its lost count. An event that finds a record to absorb it
changes that record alone; otherwise it joins the tail if there is room; otherwise it is lost and counted. A waiting lost count
is added to an unsent newest LOST_EVENTS record, or makes a new one if there is room, or waits. -/
def Obligations.UnreservedEventsTaken : Prop :=
  (∀ q : EventQueue, q.lost = 0 → q.reportLost = q) ∧
  (∀ (q : EventQueue) (old new : List EventRecord) (n : Half) (c : Nat), q.lost ≠ 0 →
    q.records = old ++ ⟨n, .lostEvents c, false⟩ :: new → (∀ x ∈ new, x.isLost = false) →
    q.reportLost =
      { q with records := old ++ ⟨n, .lostEvents (min (c + q.lost) 65535), false⟩ :: new, lost := 0 }) ∧
  (∀ q : EventQueue, q.lost ≠ 0 → (∀ r, (q.records.filter EventRecord.isLost).getLast? = some r → r.sent = true) →
    q.reportLost =
      if q.records.length + q.reserved < 64 then
        { q with records := q.records ++ [⟨q.nextSeq, .lostEvents q.lost, false⟩], nextSeq := q.nextSeq + 1, lost := 0 }
      else q) ∧
  (∀ (q : EventQueue) (old new : List EventRecord) (n : Half) (f g : BitVec 32) (c k : Nat),
    q.records = old ++ ⟨n, .frame f c, false⟩ :: new → (∀ x ∈ new, x.isFrame = false) →
    q.queueUnreserved (.frame g k) =
      ({ q with records := old ++ ⟨n, .frame g (min (c + k) 65535), false⟩ :: new } : EventQueue).reportLost) ∧
  (∀ (q : EventQueue) (old new : List EventRecord) (n : Half) (k : ContactNumber) (w : Handle) (x y x' y' : Int),
    q.records = old ++ ⟨n, .touch .move k w x y, false⟩ :: new → (∀ r ∈ new, r.isTouchOf k = false) →
    q.queueUnreserved (.touch .move k w x' y') =
      ({ q with records := old ++ ⟨n, .touch .move k w x' y', false⟩ :: new } : EventQueue).reportLost) ∧
  (∀ (q : EventQueue) (e : Event),
    (match e with
      | .frame _ _ => ∀ r, (q.records.filter EventRecord.isFrame).getLast? = some r → r.sent = true
      | .touch .move k w _ _ => ∀ r, (q.records.filter fun r => r.isTouchOf k).getLast? = some r →
          r.sent = true ∨ ∀ x y, r.event ≠ .touch .move k w x y
      | _ => True) →
    q.queueUnreserved e =
      if q.records.length + q.reserved < 64 then
        ({ q with records := q.records ++ [⟨q.nextSeq, e, false⟩], nextSeq := q.nextSeq + 1 } : EventQueue).reportLost
      else ({ q with lost := min (q.lost + 1) 65535 } : EventQueue).reportLost)

/-! ### Windows -/

/-- OPEN_WINDOW's tests in their order; a refused command changes nothing but its answer. -/
def Obligations.OpenWindowRefusals : Prop :=
  ∀ (l : Link) (seq : Byte) (p : List Byte) (s : State), s.ready l seq →
    (openRequest p = none →
      ∃ t, exec (.openWindow l seq p) s = .next t ∧ Answers s t l seq 0x10#8 .badParam .none) ∧
    (∀ (r : OpenRequest) (status : Status), openRequest p = some r →
      let needed := (match r.buffering with | .single => 1 | .double => 2) * ((r.width * r.height + 1023) / 1024)
      (if r.tier = 3 ∧ alertOf s.pins l = false then some .tierDenied
        else if ∀ i : Slot, (s.window i).state ≠ .free then some .noWindowSlot
        else if 64 ≤ (s.eventsOf l).records.length + (s.eventsOf l).reserved then some .eventsFull
        else if s.pins.pool = false ∧ 1024 < s.pool.held.get l + needed then some .quota
        else if s.pool.free.length + s.pool.scrub.length < needed then some .poolFull
        else if s.pool.free.length < needed then some Status.poolBusy
        else none) = some status →
      ∃ t, exec (.openWindow l seq p) s = .next t ∧ Answers s t l seq 0x10#8 status .none)

/-- An OPEN_WINDOW that passes every test opens the lowest-numbered FREE slot with the lowest-numbered free pages, reserves one
event slot, and answers OK with the new handle. -/
def Obligations.OpenWindowOpens : Prop :=
  ∀ (l : Link) (seq : Byte) (p : List Byte) (s : State) (r : OpenRequest) (i : Slot), s.ready l seq →
    openRequest p = some r →
    let each := (r.width * r.height + 1023) / 1024
    let needed := (match r.buffering with | .single => 1 | .double => 2) * each
    ¬ (r.tier = 3 ∧ alertOf s.pins l = false) →
    (s.window i).state = .free → (∀ j : Slot, j < i → (s.window j).state ≠ .free) →
    (s.eventsOf l).records.length + (s.eventsOf l).reserved < 64 →
    (s.pins.pool = true ∨ s.pool.held.get l + needed ≤ 1024) → needed ≤ s.pool.free.length →
    ∃ t, exec (.openWindow l seq p) s = .next t ∧
      Answers
        (((s.setWindow i
              { gen := (s.window i).gen, state := .hidden, owner := some l, width := r.width, height := r.height, x := r.x,
                y := r.y, tier := r.tier, buffering := r.buffering, buf0 := s.pool.free.take each,
                buf1 := (s.pool.free.drop each).take (needed - each), front := .zero, flipPending := none, weight := 16,
                key := none, touch := true, grants := PerLink.all false, onGlass := false, closeReason := none }).setPool
            { s.pool with free := s.pool.free.drop needed, held := s.pool.held.set l (s.pool.held.get l + needed) }).setEvents
          l { s.eventsOf l with reserved := (s.eventsOf l).reserved + 1 })
        t l seq 0x10#8 .ok (.window ⟨i, (s.window i).gen⟩)

/-- The tests of R2, in their order, on CLOSE_WINDOW, MOVE_WINDOW, SET_LOOK, SET_TOUCH, GRANT, SHOW and HIDE; a refused command
changes nothing but its answer. -/
def Obligations.WindowCommandRefusals : Prop :=
  ∀ (c : Instr) (l : Link) (seq code : Byte) (h? : Option Handle) (s : State), changeOf c = some (l, seq, code, h?) →
    s.ready l seq → TransmitterLaw s →
    (h? = none → ∃ t, exec c s = .next t ∧ Answers s t l seq code .badParam .none) ∧
    (∀ h status, h? = some h →
      (if (s.window h.slot).state = .free ∨ (s.window h.slot).gen ≠ h.gen then some .staleHandle
        else if (s.window h.slot).state = .closing then some .wrongState
        else if (s.window h.slot).owner ≠ some l then some Status.notOwner
        else none) = some status →
      ∃ t, exec c s = .next t ∧ Answers s t l seq code status .none)

/-- MOVE_WINDOW, SET_LOOK, SET_TOUCH and GRANT that pass the tests of R2 set the fields they name of the window they name, and
nothing else; a GRANT set that contains the owner is refused with BAD_PARAM. -/
def Obligations.WindowChangesApplied : Prop :=
  ∀ (l : Link) (seq : Byte) (p : List Byte) (s : State) (h : Handle), s.ready l seq → s.mayChange l h →
    (∀ x y, moveRequest p = some (h, x, y) →
      ∃ t, exec (.moveWindow l seq p) s = .next t ∧
        Answers (s.setWindow h.slot { s.window h.slot with x := x, y := y }) t l seq 0x14#8 .ok .none) ∧
    (∀ weight key, lookRequest p = some (h, weight, key) →
      ∃ t, exec (.setLook l seq p) s = .next t ∧
        Answers (s.setWindow h.slot { s.window h.slot with weight := weight, key := key }) t l seq 0x15#8 .ok .none) ∧
    (∀ on, touchRequest p = some (h, on) →
      ∃ t, exec (.setTouch l seq p) s = .next t ∧
        Answers (s.setWindow h.slot { s.window h.slot with touch := on }) t l seq 0x16#8 .ok .none) ∧
    (∀ links, grantRequest p = some (h, links) →
      (links.get l = false →
        ∃ t, exec (.grant l seq p) s = .next t ∧
          Answers (s.setWindow h.slot { s.window h.slot with grants := links }) t l seq 0x17#8 .ok .none) ∧
      (links.get l = true →
        ∃ t, exec (.grant l seq p) s = .next t ∧ Answers s t l seq 0x17#8 .badParam .none))

/-- WINDOW_INFO, of a window of any link: its tests in their order, and the record it reports; it changes no state. -/
def Obligations.WindowInfoResult : Prop :=
  ∀ (l : Link) (seq : Byte) (p : List Byte) (s : State), s.ready l seq →
    (handleField p = none →
      ∃ t, exec (.windowInfo l seq p) s = .next t ∧ Answers s t l seq 0x18#8 .badParam .none) ∧
    (∀ h, handleField p = some h →
      let w := s.window h.slot
      (w.state = .free ∨ w.gen ≠ h.gen →
        ∃ t, exec (.windowInfo l seq p) s = .next t ∧ Answers s t l seq 0x18#8 .staleHandle .none) ∧
      (w.gen = h.gen → w.state = .closing →
        ∃ t, exec (.windowInfo l seq p) s = .next t ∧ Answers s t l seq 0x18#8 .wrongState .none) ∧
      (w.gen = h.gen → w.state = .hidden ∨ w.state = .shown →
        ∃ t, exec (.windowInfo l seq p) s = .next t ∧
          Answers s t l seq 0x18#8 .ok
            (.info
              { shown := decide (w.state = .shown), owner := w.owner, width := w.width, height := w.height, x := w.x,
                y := w.y, tier := w.tier, buffering := w.buffering, weight := w.weight, key := w.key, touch := w.touch,
                front := w.front, flipTag := w.flipPending.map fun f => f.tag, onGlass := w.onGlass,
                grants := w.grants })))

/-- A CLOSE_WINDOW that passes its tests: the window leaves the live stack, its captures are cleared, the job in flight that
names it is asked to end, and the window is CLOSING, or, off the glass and not named in flight, released at once with its pages
at the tail of the scrub queue. The owner's event queue takes, in this order, JOB_FAILED with CANCELLED for a discarded flip,
TOUCH_CANCEL for each contact captured on the window, and WINDOW_CLOSED for a released one; then every head that the flip held
is examined, the arbiter grants, and the transmitters choose. The other windows change at most in a flip that a freed head arms.
Until the head is examined nothing else changes but the link's lease timer, which starts again: the other links' controllers, the
stamps, the job queues and the last-served link stay. (Fields of a released window that no rule names keep their values: log 21.
A captured window without a latched entry, which the spec rules out, is measured from its record: log 18. A head of another link
that the flip held, which only a handle current again after 256 releases leads to, is examined too: log 31; where there is none,
the owner's alone is.) -/
def Obligations.CloseWindowResult : Prop :=
  ∀ (l : Link) (seq : Byte) (p : List Byte) (s : State) (h : Handle), s.ready l seq → handleField p = some h →
    s.mayChange l h →
    ∃ (t u : State) (c : LinkCtl), exec (.closeWindow l seq p) s = .next t ∧
      t = (((allLinks.foldl State.examineHead u).arbitrate).setLink l c).transmitAll ∧
      (JobLaw s → s.othersWaitFor l (fun i => i ≠ h.slot) → allLinks.foldl State.examineHead u = u.examineHead l) ∧
      Replied (s.link l) (t.link l) seq 0x11#8 .ok .none ∧
      t.stack = s.stack.filter (fun j => decide (j ≠ h.slot)) ∧
      (∀ k, t.contact k = if (s.contact k).capture = some h then
          { s.contact k with capture := none, lastSent := none } else s.contact k) ∧
      (s.stillUsed h.slot →
        t.window h.slot = { s.window h.slot with state := .closing, closeReason := some .owner,
                                                 grants := PerLink.all false, flipPending := none } ∧
        t.pool = s.pool) ∧
      (¬ s.stillUsed h.slot →
        (t.window h.slot).state = .free ∧ (t.window h.slot).gen = h.gen + 1 ∧ (t.window h.slot).owner = none ∧
        (t.window h.slot).buf0 = [] ∧ (t.window h.slot).buf1 = [] ∧ (t.window h.slot).closeReason = none ∧
        t.pool.scrub = s.pool.scrub ++ (s.window h.slot).buf0 ++ (s.window h.slot).buf1 ∧ t.pool.free = s.pool.free ∧
        t.pool.held = s.pool.held.set l (s.pool.held.get l - (s.window h.slot).pages)) ∧
      (∀ j, j ≠ h.slot →
        { t.window j with flipPending := none } = { s.window j with flipPending := none }) ∧
      t.mem = s.mem ∧ t.scanout = s.scanout ∧ t.pending = s.pending ∧ t.pins = s.pins ∧ t.resetN = s.resetN ∧
      u.queues = s.queues ∧
      { u with windows := s.windows, stack := s.stack, pool := s.pool, contacts := s.contacts, engine := s.engine,
               events := s.events, links := s.links } = s ∧
      (∀ k, k ≠ l → u.link k = s.link k) ∧ u.link l = { s.link l with timer := (s.link l).timer.map fun _ => 0 } ∧
      u.stack = s.stack.filter (fun j => decide (j ≠ h.slot)) ∧
      (∀ k, u.contact k = if (s.contact k).capture = some h then
          { s.contact k with capture := none, lastSent := none } else s.contact k) ∧
      (∀ j, j ≠ h.slot → u.window j = s.window j) ∧
      (let w := s.window h.slot
       let closed : Window :=
         { w with state := .closing, closeReason := some .owner, grants := PerLink.all false, flipPending := none }
       let scrub := s.pool.scrub ++ w.buf0 ++ w.buf1
       (s.stillUsed h.slot → u.window h.slot = closed ∧ u.pool = s.pool) ∧
       (¬ s.stillUsed h.slot →
         u.window h.slot =
           { closed with gen := w.gen + 1, state := .free, owner := none, key := none, closeReason := none, buf0 := [],
                         buf1 := [] } ∧
         u.pool = { s.pool with scrub := scrub, busy := decide (scrub ≠ []),
                                held := s.pool.held.set l (s.pool.held.get l - w.pages) })) ∧
      u.engine = s.engine.map (fun f =>
        { f with abandon :=
            if f.abandon ≠ none then f.abandon
            else if f.job.op.target = some h then some .abandoned
            else if f.job.op.source = some h then some .sourceLost
            else none }) ∧
      (let origin : Int × Int :=
          match s.scanout.record.find? fun e => decide (e.handle = h) with
          | some e => (e.x, e.y)
          | none => ((s.window h.slot).x, (s.window h.slot).y)
       let cancelled := match (s.window h.slot).flipPending with
          | some f => (s.eventsOf l).queueReserved (.jobFailed f.tag .cancelled)
          | none => s.eventsOf l
       let told := (List.finRange 5).foldl (fun (q : EventQueue) k =>
          match (s.contact k).capture, (s.contact k).last with
          | some g, some pos =>
            if g = h then q.queueUnreserved (.touch .cancel k h (pos.x - origin.1) (pos.y - origin.2)) else q
          | _, _ => q) cancelled
       (s.stillUsed h.slot → u.eventsOf l = told) ∧
       (¬ s.stillUsed h.slot → u.eventsOf l = told.queueReserved (.windowClosed h))) ∧
      (∀ k, k ≠ l → u.eventsOf k = s.eventsOf k)

/-- The window a link's SHOW names is inserted at the place its placement gives among the other windows of the live stack, and
is SHOWN; nothing else changes. -/
def Obligations.ShowPlacesWindow : Prop :=
  ∀ (l : Link) (seq : Byte) (p : List Byte) (s : State) (h : Handle) (place : Placement), s.ready l seq → s.mayChange l h →
    showRequest p = some (h, place) →
    (∀ ref, place = .above ref ∨ place = .below ref →
      (s.window ref.slot).state = .shown ∧ (s.window ref.slot).gen = ref.gen ∧ ref.slot ≠ h.slot ∧
        (s.window ref.slot).tier = (s.window h.slot).tier ∧ ref.slot ∈ s.stack) →
    ∃ lower upper t, s.stack.filter (fun j => decide (j ≠ h.slot)) = lower ++ upper ∧
      exec (.showWindow l seq p) s = .next t ∧
      Answers ((s.setStack (lower ++ h.slot :: upper)).setWindow h.slot { s.window h.slot with state := .shown })
        t l seq 0x12#8 .ok .none ∧
      (place = .topOfTier → (∀ j ∈ upper, (s.window h.slot).tier < (s.window j).tier) ∧
        ∀ j, lower.getLast? = some j → (s.window j).tier ≤ (s.window h.slot).tier) ∧
      (place = .bottomOfTier → (∀ j ∈ upper, (s.window h.slot).tier ≤ (s.window j).tier) ∧
        ∀ j, lower.getLast? = some j → (s.window j).tier < (s.window h.slot).tier) ∧
      (∀ ref, place = .above ref → lower.getLast? = some ref.slot) ∧
      (∀ ref, place = .below ref → upper.head? = some ref.slot)

/-- The tests of a relative placement's reference, in their order; a refused SHOW changes nothing but its answer. -/
def Obligations.ShowReferenceRefusals : Prop :=
  ∀ (l : Link) (seq : Byte) (p : List Byte) (s : State) (h ref : Handle) (status : Status), s.ready l seq →
    s.mayChange l h → (showRequest p = some (h, .above ref) ∨ showRequest p = some (h, .below ref)) →
    (if (s.window ref.slot).state = .free ∨ (s.window ref.slot).gen ≠ ref.gen then some .staleHandle
      else if ref.slot = h.slot then some .badParam
      else if (s.window ref.slot).state = .hidden ∨ (s.window ref.slot).state = .closing then some .wrongState
      else if (s.window ref.slot).tier ≠ (s.window h.slot).tier then some Status.badParam
      else none) = some status →
    ∃ t, exec (.showWindow l seq p) s = .next t ∧ Answers s t l seq 0x12#8 status .none

/-- HIDE leaves a HIDDEN window as it is; a SHOWN one leaves the live stack and becomes HIDDEN, and each capture on it is
cleared: in ascending contact number, the owner's event queue takes TOUCH_CANCEL at the contact's last position, measured from
the window's entry in the frame record. (A captured window without a latched entry, which the spec rules out, is measured from
its record: log 18.) -/
def Obligations.HideResult : Prop :=
  ∀ (l : Link) (seq : Byte) (p : List Byte) (s : State) (h : Handle), s.ready l seq → handleField p = some h →
    s.mayChange l h →
    ((s.window h.slot).state = .hidden →
      ∃ t, exec (.hide l seq p) s = .next t ∧ Answers s t l seq 0x13#8 .ok .none) ∧
    ((s.window h.slot).state = .shown →
      ∃ u t, exec (.hide l seq p) s = .next t ∧ Answers u t l seq 0x13#8 .ok .none ∧
        { u with contacts := s.contacts, events := s.events } =
          (s.setStack (s.stack.filter fun j => decide (j ≠ h.slot))).setWindow h.slot
            { s.window h.slot with state := .hidden } ∧
        (∀ k, u.contact k = if (s.contact k).capture = some h then
            { s.contact k with capture := none, lastSent := none } else s.contact k) ∧
        (let origin : Int × Int :=
            match s.scanout.record.find? fun e => decide (e.handle = h) with
            | some e => (e.x, e.y)
            | none => ((s.window h.slot).x, (s.window h.slot).y)
         u.eventsOf l = (List.finRange 5).foldl (fun (q : EventQueue) k =>
            match (s.contact k).capture, (s.contact k).last with
            | some g, some pos =>
              if g = h then q.queueUnreserved (.touch .cancel k h (pos.x - origin.1) (pos.y - origin.2)) else q
            | _, _ => q) (s.eventsOf l)) ∧
        (∀ k, k ≠ l → u.eventsOf k = s.eventsOf k))

/-- A link's command, executed, never changes another link's window (CLOSE_WINDOW and SUBMIT, which may run queued jobs, are
spoken of by their own statements). -/
def Obligations.OtherWindowsUntouched : Prop :=
  ∀ (c : Instr) (l : Link) (code seq : Byte) (p : List Byte) (s t : State), c.framed = some (l, code, seq, p) →
    s.ready l seq → (∀ q, c ≠ .closeWindow l seq q) → (∀ q, c ≠ .submit l seq q) → exec c s = .next t →
    ∀ i, (s.window i).state ≠ .free → (s.window i).owner ≠ some l → t.window i = s.window i

/-! ### Jobs -/

/-- SUBMIT's tests in their order; a refused SUBMIT changes nothing but its answer, and one that no test refuses is admitted.
What each kind carries, and its staging bytes, are stated beside. -/
def Obligations.SubmitRefusals : Prop :=
  (∀ (l : Link) (seq : Byte) (p : List Byte) (s : State), s.ready l seq → TransmitterLaw s →
    (jobRequest p = none → ∃ t, exec (.submit l seq p) s = .next t ∧ Answers s t l seq 0x20#8 .badParam .none) ∧
    (∀ (j : Job) (status : Status), jobRequest p = some j →
      let stale := fun h : Handle => (s.window h.slot).state = .free ∨ (s.window h.slot).gen ≠ h.gen
      let closing := fun h : Handle => (s.window h.slot).state = .closing
      let outside := fun (r : Rect) (h : Handle) => (s.window h.slot).width < r.x + r.w ∨ (s.window h.slot).height < r.y + r.h
      let refused := fun st : Status => s.submitRefusal l j.op = some st ∧
        ∃ t, exec (.submit l seq p) s = .next t ∧ Answers s t l seq 0x20#8 st .none
      let windowsPass := (∀ h, j.op.target = some h → ¬ stale h ∧ ¬ closing h ∧ (s.window h.slot).owner = some l) ∧
        ∀ h, j.op.source = some h →
          ¬ stale h ∧ ¬ closing h ∧ ((s.window h.slot).owner = some l ∨ (s.window h.slot).grants.get l = true)
      let stampPasses := ∀ h, j.op.stamp = some h → (s.stamp h.slot).state = .loaded ∧ (s.stamp h.slot).gen = h.gen ∧
        (s.stamp h.slot).kind = j.op.stampKind ∧ ((s.stamp h.slot).visibility = .pub ∨ (s.stamp h.slot).owner = some l)
      let someOutside := (∃ h r, j.op.target = some h ∧ j.op.rect = some r ∧ outside r h) ∨
        (∃ h r, j.op.target = none ∧ j.op.source = some h ∧ j.op.rect = some r ∧ outside r h) ∨
        (∃ t r h sel sx sy c k, j.op = .copy t r h sel sx sy c k ∧ outside ⟨sx, sy, r.w, r.h⟩ h)
      let named := fun h : Handle => j.op.target = some h ∨ j.op.source = some h
      ((∃ h, named h ∧ stale h) → refused .staleHandle) ∧
      ((∀ h, named h → ¬ stale h) → (∃ h, named h ∧ closing h) → refused .wrongState) ∧
      ((∀ h, named h → ¬ stale h ∧ ¬ closing h) → (∃ h, j.op.target = some h ∧ (s.window h.slot).owner ≠ some l) →
        refused .notOwner) ∧
      ((∀ h, named h → ¬ stale h ∧ ¬ closing h) → (∀ h, j.op.target = some h → (s.window h.slot).owner = some l) →
        (∃ h, j.op.source = some h ∧ (s.window h.slot).owner ≠ some l ∧ (s.window h.slot).grants.get l = false) →
        refused .denied) ∧
      (windowsPass → ∀ h, j.op.stamp = some h →
        ((s.stamp h.slot).state = .free ∨ (s.stamp h.slot).gen ≠ h.gen → refused .staleHandle) ∧
        ((s.stamp h.slot).gen = h.gen → (s.stamp h.slot).state = .retiring → refused .stampRetiring) ∧
        ((s.stamp h.slot).gen = h.gen → (s.stamp h.slot).state = .loaded → (s.stamp h.slot).kind ≠ j.op.stampKind →
          refused .badParam) ∧
        ((s.stamp h.slot).gen = h.gen → (s.stamp h.slot).state = .loaded → (s.stamp h.slot).kind = j.op.stampKind →
          (s.stamp h.slot).visibility = .priv → (s.stamp h.slot).owner ≠ some l → refused .denied)) ∧
      (windowsPass → stampPasses → someOutside → refused .outOfBounds) ∧
      (windowsPass → stampPasses → ¬ someOutside →
        (if 16 ≤ (s.queue l).entries.length then some .queueFull
          else if 16384 < (s.queue l).staging + j.op.staging then some .stagingFull
          else if 64 ≤ (s.eventsOf l).records.length + (s.eventsOf l).reserved then some Status.eventsFull
          else none) = some status →
        refused status) ∧
      (windowsPass → stampPasses → ¬ someOutside → (s.queue l).entries.length < 16 →
        (s.queue l).staging + j.op.staging ≤ 16384 → (s.eventsOf l).records.length + (s.eventsOf l).reserved < 64 →
        s.submitRefusal l j.op = none))) ∧
  (∀ (t src : Handle) (st : StampHandle) (r : Rect) (sel : BufferSelect) (sx sy : Nat) (colour fg : Pixel)
      (bg skip : Option Pixel) (combine : Combine) (mask : List Byte) (pixels : List Pixel),
    let carries := fun (op : JobOp) (kind : JobKind) (target source : Option Handle) (stamp : Option StampHandle)
        (rect : Option Rect) (staging : Nat) =>
      op.kind = kind ∧ op.target = target ∧ op.source = source ∧ op.stamp = stamp ∧ op.rect = rect ∧ op.staging = staging ∧
        op.forEngine = decide (kind ≠ .present ∧ kind ≠ .mark)
    carries (.fill t r colour combine) .fill (some t) none none (some r) 0 ∧
    carries (.copy t r src sel sx sy combine skip) .copy (some t) (some src) none (some r) 0 ∧
    carries (.tile t r st combine skip) .tile (some t) none (some st) (some r) 0 ∧
    carries (.stampExpand t r st fg bg) .stampExpand (some t) none (some st) (some r) 0 ∧
    carries (.maskExpand t r fg bg mask) .maskExpand (some t) none none (some r) (r.h * ((r.w + 7) / 8)) ∧
    carries (.write t r combine skip pixels) .write (some t) none none (some r) (2 * r.w * r.h) ∧
    carries (.read src sel r) .read none (some src) none (some r) (2 * r.w * r.h) ∧
    carries (.present t) .present (some t) none none none 0 ∧
    carries .mark .mark none none none none 0 ∧
    (JobOp.tile t r st combine skip).stampKind = .pattern8 ∧ (JobOp.stampExpand t r st fg bg).stampKind = .mask16 ∧
    (JobOp.copy t r src sel sx sy combine skip).select = sel ∧ (JobOp.read src sel r).select = sel)

/-- A SUBMIT that passes every test is ACCEPTED: the job joins the tail, one event slot is reserved, its staging is counted, and
a stamp it names gains one reference; then the link's head is examined, the arbiter grants, the answer joins the backlog, and
the transmitters choose. Where the engine is busy and the queue's head stays as it is (in the engine, ELIGIBLE, or waiting for a
flip), nothing more happens; an engine job admitted to an empty queue while the engine is busy is its ELIGIBLE head. (A job that
completes in the same rule may make room for a lost count: log 13.) -/
def Obligations.SubmitAdmits : Prop :=
  ∀ (l : Link) (seq : Byte) (p : List Byte) (s : State) (j : Job), s.ready l seq → jobRequest p = some j →
    s.submitRefusal l j.op = none →
    let queued := (s.setQueue l { s.queue l with entries := (s.queue l).entries ++ [j],
                                                 staging := (s.queue l).staging + j.op.staging }).setEvents l
      { s.eventsOf l with reserved := (s.eventsOf l).reserved + 1 }
    let admitted := match j.op.stamp with
      | some h => queued.setStamp h.slot { s.stamp h.slot with references := (s.stamp h.slot).references + 1 }
      | none => queued
    let r := executedResponse seq 0x20#8 .accepted .none
    exec (.submit l seq p) s =
      .next (((admitted.examineHead l).arbitrate).setLink l
        { s.link l with timer := (s.link l).timer.map fun _ => 0, expected := seq + 1, backlog := (s.link l).backlog ++ [r],
                        cache := ((s.link l).cache ++ [(seq, r)]).drop ((s.link l).cache.length - 3) }).transmitAll ∧
    (TransmitterLaw s → s.engine ≠ none →
      ((s.queue l).head = .inFlight ∨ (s.queue l).head = .eligible ∨
        ((s.queue l).head = .waitFlip ∧ ∃ first rest h, (s.queue l).entries = first :: rest ∧ first.op.target = some h ∧
          s.current h = true ∧ (s.window h.slot).flipPending ≠ none) →
        ∃ t, exec (.submit l seq p) s = .next t ∧ Answers admitted t l seq 0x20#8 .accepted .none) ∧
      ((s.queue l).head = .empty → (s.queue l).entries = [] → j.op.forEngine = true →
        (∀ h, j.op.target = some h → (s.window h.slot).flipPending = none) →
        ∃ t, exec (.submit l seq p) s = .next t ∧
          Answers (admitted.setQueue l { admitted.queue l with head := .eligible }) t l seq 0x20#8 .accepted .none))

/-- An engine job admitted to an empty queue while the engine is idle starts at once: the engine holds the job with its buffers
resolved and the first row's source values (held from the row's beginning: the model's choice, log 11), and the link is the last
served; while its target has a flip pending it waits as a WAIT_FLIP head instead. In general the arbiter grants nothing while
the engine is busy or no head is ELIGIBLE; else it searches the links from the one after the last served and grants the first
with an ELIGIBLE head, whose job starts, or fails a start check and completes, after which the next head is examined and the
arbiter searches on. Which buffer is a window's front and which its drawing buffer is stated beside. -/
def Obligations.SubmitStartsJob : Prop :=
  (∀ (l : Link) (seq : Byte) (p : List Byte) (s : State) (j : Job), s.ready l seq → TransmitterLaw s → JobLaw s →
    jobRequest p = some j → s.submitRefusal l j.op = none → j.op.forEngine = true → (s.queue l).entries = [] →
    s.engine = none →
    let referred := fun u : State =>
      match j.op.stamp with
      | some h => u.setStamp h.slot { s.stamp h.slot with references := (s.stamp h.slot).references + 1 }
      | none => u
    let reserved := { s.eventsOf l with reserved := (s.eventsOf l).reserved + 1 }
    ((∀ h, j.op.target = some h → (s.window h.slot).flipPending = none) →
      ∃ t f, exec (.submit l seq p) s = .next t ∧ f.link = l ∧ f.job = j ∧ f.abandon = none ∧ f.progress = 0 ∧
        f.result = [] ∧ f.rowStore = s.sourceRow f f.row ∧
        (∀ h, j.op.target = some h → f.writePages = (s.window h.slot).drawingPages) ∧
        (∀ h, j.op.source = some h →
          f.readPages = if (s.window h.slot).owner = some l ∧ j.op.select = .drawing then (s.window h.slot).drawingPages
            else (s.window h.slot).frontPages) ∧
        Answers
          (referred ((({ s with lastServed := l, engine := some f }).setQueue l
              { entries := [j], head := .inFlight, staging := (s.queue l).staging + j.op.staging }).setEvents l reserved))
          t l seq 0x20#8 .accepted .none) ∧
    ((∃ h, j.op.target = some h ∧ (s.window h.slot).flipPending ≠ none) →
      ∃ t, exec (.submit l seq p) s = .next t ∧
        Answers
          (referred ((s.setQueue l
              { entries := [j], head := .waitFlip, staging := (s.queue l).staging + j.op.staging }).setEvents l reserved))
          t l seq 0x20#8 .accepted .none)) ∧
  (∀ s : State, (s.engine ≠ none ∨ ∀ l, (s.queue l).head ≠ .eligible) → s.arbitrate = s) ∧
  (∀ (s : State) (l : Link) (j : Job) (rest : List Job), s.engine = none → (s.queue l).head = .eligible →
    (s.queue l).entries = j :: rest →
    (let after := fun k : Link => ((linkCode k).toNat + 3 - (linkCode s.lastServed).toNat) % 4
     ∀ k, after k < after l → (s.queue k).head ≠ .eligible) →
    let granted := ({ s with lastServed := l }).setQueue l { s.queue l with head := .inFlight }
    let gone := fun h : Handle => (s.window h.slot).gen ≠ h.gen ∨
      ((s.window h.slot).state ≠ .hidden ∧ (s.window h.slot).state ≠ .shown)
    let denied := fun h : Handle => (s.window h.slot).owner ≠ some l ∧ (s.window h.slot).grants.get l = false
    let failsWith := fun status : Status =>
      s.arbitrate = ((granted.completeHead l j (.failed status) []).examineHead l).arbitrate
    ((∃ h, j.op.target = some h ∧ gone h) → failsWith .targetGone) ∧
    ((∀ h, j.op.target = some h → ¬ gone h) → (∃ h, j.op.source = some h ∧ gone h) → failsWith .sourceGone) ∧
    ((∀ h, j.op.target = some h ∨ j.op.source = some h → ¬ gone h) → (∃ h, j.op.source = some h ∧ denied h) →
      failsWith .denied) ∧
    ((∀ h, j.op.target = some h ∨ j.op.source = some h → ¬ gone h) → (∀ h, j.op.source = some h → ¬ denied h) →
      ∃ f, s.arbitrate = granted.setEngine (some f) ∧ f.link = l ∧ f.job = j ∧ f.abandon = none ∧ f.progress = 0 ∧
        f.result = [] ∧ f.rowStore = s.sourceRow f f.row ∧
        (∀ h, j.op.target = some h → f.writePages = (s.window h.slot).drawingPages) ∧
        (∀ h, j.op.source = some h →
          f.readPages = if (s.window h.slot).owner = some l ∧ j.op.select = .drawing then (s.window h.slot).drawingPages
            else (s.window h.slot).frontPages))) ∧
  (∀ w : Window,
    w.frontPages = (match w.buffering, w.front with
      | .single, _ => w.buf0
      | .double, .zero => w.buf0
      | .double, .one => w.buf1) ∧
    w.drawingPages = (match w.buffering, w.front with
      | .single, _ => w.buf0
      | .double, .zero => w.buf1
      | .double, .one => w.buf0))

/-- A MARK or a PRESENT admitted to an empty queue is taken at once. A MARK completes, with JOB_DONE if notify is on; a PRESENT
of a live window without a pending flip arms its flip and keeps its reservation. In general a head that is examined waits in
WAIT_FLIP while its target has a flip pending; a MARK completes with DONE; a PRESENT arms its flip, or completes with
TARGET_GONE if its target is not live; after either the next entry is examined; an engine job becomes ELIGIBLE; an empty queue
has no head. A head already ELIGIBLE or IN_FLIGHT is not examined again. -/
def Obligations.MarkAndPresentTakenAtOnce : Prop :=
  (∀ (l : Link) (seq : Byte) (p : List Byte) (s : State) (j : Job), s.ready l seq → TransmitterLaw s → JobLaw s →
     jobRequest p = some j → s.submitRefusal l j.op = none → (s.queue l).entries = [] → (s.eventsOf l).lost = 0 →
     (j.op = .mark →
       ∃ t, exec (.submit l seq p) s = .next t ∧
         Answers
           (if j.notify then
             s.setEvents l
               { s.eventsOf l with
                   records := (s.eventsOf l).records ++ [⟨(s.eventsOf l).nextSeq, .jobDone j.tag .mark, false⟩],
                   nextSeq := (s.eventsOf l).nextSeq + 1 }
           else s)
           t l seq 0x20#8 .accepted .none) ∧
     (∀ h, j.op = .present h → (s.window h.slot).flipPending = none →
       ∃ t, exec (.submit l seq p) s = .next t ∧
         Answers
           ((s.setWindow h.slot { s.window h.slot with flipPending := some ⟨j.tag, j.notify⟩ }).setEvents l
             { s.eventsOf l with reserved := (s.eventsOf l).reserved + 1 })
           t l seq 0x20#8 .accepted .none)) ∧
  (∀ (s : State) (l : Link), (s.queue l).head = .eligible ∨ (s.queue l).head = .inFlight → s.examineHead l = s) ∧
  (∀ (s : State) (l : Link), (s.queue l).head = .empty ∨ (s.queue l).head = .waitFlip →
    ((s.queue l).entries = [] → s.examineHead l = s.setQueue l { s.queue l with head := .empty }) ∧
    (∀ (j : Job) (rest : List Job), (s.queue l).entries = j :: rest →
      let live := fun h : Handle => (s.window h.slot).gen = h.gen ∧
        ((s.window h.slot).state = .hidden ∨ (s.window h.slot).state = .shown)
      let waits := ∃ h, j.op.target = some h ∧ (s.window h.slot).gen = h.gen ∧ (s.window h.slot).state ≠ .free ∧
        (s.window h.slot).flipPending ≠ none
      (waits → s.examineHead l = s.setQueue l { s.queue l with head := .waitFlip }) ∧
      (¬ waits →
        (j.op.forEngine = true → s.examineHead l = s.setQueue l { s.queue l with head := .eligible }) ∧
        (j.op = .mark → s.examineHead l = (s.completeHead l j .done []).examineHead l) ∧
        (∀ h, j.op = .present h →
          (live h → s.examineHead l =
            ((s.setQueue l { s.queue l with entries := rest, head := .empty }).setWindow h.slot
              { s.window h.slot with flipPending := some ⟨j.tag, j.notify⟩ }).examineHead l) ∧
          (¬ live h → s.examineHead l = (s.completeHead l j (.failed .targetGone) []).examineHead l)))))

/-- The row that the engine holds, worked: each of its pixels of the target's buffer is written once, with the value that its
source value and its old value form, or left; no other byte of surface memory changes; nothing else changes but the record of
the values overwritten in this frame, which gains the address and the old value of exactly the pixels written (log 10; that the
row is worked whole is log 11). A job without a target (READ, MARK) writes nothing. Rows are worked from the top, but from the
bottom for a COPY within one buffer to a rectangle below its source. The source values of a row are, by kind, the colour, the
source pixels, the pattern anchored at the window's origin, the mask bits (most significant bit first, inline rows padded to
whole bytes), the inline pixels in row-major order; a written value is the combine of S and D unless S is the skip colour, and
an expansion writes fg at a 1 and bg, if present, at a 0. Nothing outside the target window is written (R112); that a position
outside the source window gives a free value is the model's choice, for handles that the spec forbids to hold (log 30). -/
def Obligations.RowPixels : Prop :=
  (∀ (s : State) (f : InFlight), MemoryLaw s →
    (f.job.op.target = none → s.drawRow f = s) ∧
    (∀ h r, f.job.op.target = some h → f.job.op.rect = some r → f.writePages.Nodup →
      let base := (r.y + f.row) * (s.window h.slot).width + r.x
      let room := if r.y + f.row < (s.window h.slot).height then (s.window h.slot).width - r.x else 0
      (∀ i v a, i < room → f.rowStore[i]? = some v → pixelAddr f.writePages (base + i) = some a →
        readPixel (s.drawRow f).mem a = (f.job.op.formed v (readPixel s.mem a)).getD (readPixel s.mem a)) ∧
      (∀ b, (∀ i a, i < room → i < f.rowStore.length → pixelAddr f.writePages (base + i) = some a → b ≠ a ∧ b ≠ a + 1) →
        readByte (s.drawRow f).mem b = readByte s.mem b) ∧
      (s.drawRow f).scanout.earlier = s.scanout.earlier ++ (f.rowStore.take room).zipIdx.filterMap fun c =>
        match pixelAddr f.writePages (base + c.2) with
        | some a => (f.job.op.formed c.1 (readPixel s.mem a)).map fun _ => (a, readPixel s.mem a)
        | none => none) ∧
    { s.drawRow f with mem := s.mem, scanout := { (s.drawRow f).scanout with earlier := s.scanout.earlier } } = s) ∧
  (∀ (f : InFlight) (r : Rect), f.job.op.rect = some r →
    f.row =
      match f.job.op with
      | .copy _ _ _ _ _ sy _ _ => if f.readPages = f.writePages ∧ sy < r.y then r.h - 1 - f.progress else f.progress
      | _ => f.progress) ∧
  (∀ (s : State) (f : InFlight) (j i : Nat),
    (s.sourceRow f j)[i]? =
      let bit := fun (mask : List Byte) (rowBytes : Nat) =>
        SourceValue.bit ((mask.getD (j * rowBytes + i / 8) 0).getLsbD (7 - i % 8))
      let pixelAt := fun (src : Handle) (x y : Nat) =>
        let w := s.window src.slot
        SourceValue.pixel
          (if x < w.width ∧ y < w.height then bufferPixel s.mem f.readPages (y * w.width + x)
            else Config.absentPixel s.scanout.choice x y)
      match f.job.op with
      | .fill _ r colour _ => if i < r.w then some (.pixel colour) else none
      | .copy _ r src _ sx sy _ _ =>
        if i < r.w then some (pixelAt src (sx + i) (sy + j)) else none
      | .tile _ r st _ _ =>
        let entry := (r.y + j) % 8 * 8 + (r.x + i) % 8
        let bytes := (s.stamp st.slot).contents
        if i < r.w then some (.pixel (be16 (bytes.getD (2 * entry) 0) (bytes.getD (2 * entry + 1) 0))) else none
      | .stampExpand _ r st _ _ => if i < r.w then some (bit (s.stamp st.slot).contents 2) else none
      | .maskExpand _ r _ _ mask => if i < r.w then some (bit mask ((r.w + 7) / 8)) else none
      | .write _ r _ _ pixels => if i < r.w then some (.pixel (pixels.getD (j * r.w + i) 0)) else none
      | .read src _ r =>
        if i < r.w then some (pixelAt src (r.x + i) (r.y + j)) else none
      | .present _ => none
      | .mark => none) ∧
  (∀ (t st h : Handle) (sh : StampHandle) (r : Rect) (sel : BufferSelect) (sx sy : Nat) (colour fg c d : Pixel)
      (bg skip : Option Pixel) (combine : Combine) (mask : List Byte) (pixels : List Pixel) (b : Bool),
    (JobOp.fill t r colour combine).formed (.pixel c) d = some (combined c d combine) ∧
    (JobOp.copy t r st sel sx sy combine skip).formed (.pixel c) d =
      (if skip = some c then none else some (combined c d combine)) ∧
    (JobOp.tile t r sh combine skip).formed (.pixel c) d = (if skip = some c then none else some (combined c d combine)) ∧
    (JobOp.write t r combine skip pixels).formed (.pixel c) d =
      (if skip = some c then none else some (combined c d combine)) ∧
    (JobOp.stampExpand t r sh fg bg).formed (.bit b) d = (if b = true then some fg else bg) ∧
    (JobOp.maskExpand t r fg bg mask).formed (.bit b) d = (if b = true then some fg else bg) ∧
    (JobOp.read h sel r).formed (.pixel c) d = none)

/-- A row end that is not the job's last and finds no abandon request: the row is worked, the progress rises by one, the row
store holds the next row's source values, and a READ has placed the row in its result; the engine's other fields stay. That a
row is written whole at its row end, and the next row's source values are in the store from then on, is the model's choice
(log 11). -/
def Obligations.RowDrawn : Prop :=
  ∀ (s : State) (f : InFlight), s.resetN = true → TransmitterLaw s → s.engine = some f → f.abandon = none →
    f.progress + 1 < f.height →
    let d := s.drawRow f
    let next : InFlight := { f with progress := f.progress + 1 }
    exec .rowEnd s =
      .next { d with engine := some { next with
        rowStore := d.sourceRow next next.row
        result := match f.job.op with
          | .read _ _ _ => f.result ++ f.rowStore.filterMap fun v => match v with
            | .pixel c => some c
            | .bit _ => none
          | _ => f.result } }

/-- The row end that ends a job, by its last row or an abandon request. The row is worked as every row is; the job leaves its
queue; its outcome is queued on its reservation as status, kind and notify field say, and nothing on a link that is not UP; its
staging is given back (but for a READ that queues READ_DATA); its stamp reference is released, and a RETIRING stamp without
another is FREE, with STAMP_FREED to an owner that is UP. The engine is idle, and each CLOSING window that the job named, in
ascending slot order, is released if it is off the glass, with WINDOW_CLOSED on its reservation or a report to its owner's
teardown; one on the glass stays CLOSING; a link in TEARDOWN learns that its job has ended. Then the next head is examined, the
arbiter grants, and every transmitter chooses. That the row is worked whole at its row end is the model's choice (log 11); that
a lost count is examined after each claim on a queue, and so before a later claim of the same row end, is its reading (log 13).
(Fields of a FREE stamp or window that no rule names keep their values: log 21.) -/
def Obligations.JobEnds : Prop :=
  (∀ (s : State) (l : Link) (j : Job) (rest : List Job) (e : Ending) (pixels : List Pixel), (s.queue l).entries = j :: rest →
    (s.isUp l = true → 0 < (s.eventsOf l).reserved) →
    let q := s.eventsOf l
    let outcome : Option Event :=
      match e, j.op with
      | .failed status, _ => some (.jobFailed j.tag status)
      | .done, .read _ _ r => some (.readData j.tag r.w r.h pixels)
      | .done, op => if j.notify then some (.jobDone j.tag op.kind) else none
    let staging := match e, j.op with
      | .done, .read _ _ _ => 0
      | _, op => op.staging
    let left := (s.setQueue l
        { entries := rest, head := .empty, staging := (s.queue l).staging - staging }).setEvents l
      (if s.isUp l then
        match outcome with
        | some ev => ({ q with records := q.records ++ [(⟨q.nextSeq, ev, false⟩ : EventRecord)], nextSeq := q.nextSeq + 1,
                               reserved := q.reserved - 1 } : EventQueue).reportLost
        | none => ({ q with reserved := q.reserved - 1 } : EventQueue).reportLost
      else q)
    s.completeHead l j e pixels =
      match j.op.stamp with
      | none => left
      | some h =>
        let st := s.stamp h.slot
        if st.state = .retiring ∧ st.references ≤ 1 then
          let freed := left.setStamp h.slot
            { st with gen := st.gen + 1, state := .free, owner := none, references := 0,
                      contents := List.replicate (match st.kind with | .mask16 => 32 | .pattern8 => 128) 0 }
          match st.owner with
          | none => freed
          | some o =>
            let counted := freed.setOwned o (s.ownedStamps.get o - 1)
            if s.isUp o then counted.setEvents o ((left.eventsOf o).queueUnreserved (.stampFreed ⟨h.slot, st.gen⟩))
            else counted
        else left.setStamp h.slot { st with references := st.references - 1 }) ∧
  (∀ (s : State) (f : InFlight) (rest : List Job), s.resetN = true → s.engine = some f →
    (s.queue f.link).entries = f.job :: rest → (f.abandon ≠ none ∨ f.height ≤ f.progress + 1) →
    let ending := match f.abandon with
      | some .abandoned => Ending.failed .abandoned
      | some .sourceLost => .failed .sourceLost
      | none => .done
    let pixels := match f.job.op with
      | .read _ _ _ => f.result ++ pixelsOf f.rowStore
      | _ => f.result
    let idle := ((s.drawRow f).completeHead f.link f.job ending pixels).setEngine none
    let named := (List.finRange 32).filter fun i =>
      decide (f.job.op.target.map Handle.slot = some i ∨ f.job.op.source.map Handle.slot = some i)
    let tested := named.foldl (fun (u : State) i =>
      let w := u.window i
      let scrub := u.pool.scrub ++ w.buf0 ++ w.buf1
      let held := match w.owner with
        | some o => u.pool.held.set o (u.pool.held.get o - w.pages)
        | none => u.pool.held
      let released := (u.setWindow i
          { w with gen := w.gen + 1, state := .free, owner := none, flipPending := none, key := none, closeReason := none,
                   buf0 := [], buf1 := [] }).setPool
        { u.pool with scrub := scrub, busy := decide (scrub ≠ []), held := held }
      if w.state = .closing ∧ w.onGlass = false then
        match w.owner, w.closeReason with
        | some o, some .owner =>
          if u.isUp o then released.setEvents o ((u.eventsOf o).queueReserved (.windowClosed ⟨i, w.gen⟩)) else released
        | some o, some .teardown =>
          released.setLink o
            { u.link o with
                toRelease := (u.link o).toRelease - 1
                state := if (u.link o).state = .teardown ∧ (u.link o).toRelease ≤ 1 ∧ (u.link o).jobPending = false then .down
                  else (u.link o).state }
        | _, _ => released
      else u) idle
    let told :=
      if (tested.link f.link).state = .teardown then
        tested.setLink f.link
          { tested.link f.link with
              jobPending := false
              state := if (tested.link f.link).toRelease = 0 then .down else .teardown }
      else tested
    exec .rowEnd s = .next (((told.examineHead f.link).arbitrate).transmitAll))

/-- A COPY within one buffer gives the result it would give if the whole source rectangle had been read before any pixel was
written: after as many row ends as its rectangle has rows, taken from its start, every pixel of its rectangle in the window is
formed from the values that its source pixel and it held at the start, and every other byte of surface memory is as it was. (A
source position outside the window, which admission refuses, gives the free value of log 30.) -/
def Obligations.CopyAsIfReadFirst : Prop :=
  ∀ (s : State) (f : InFlight) (h src : Handle) (r : Rect) (sel : BufferSelect) (sx sy : Nat) (c : Combine)
    (skip : Option Pixel) (pages : List Nat), s.resetN = true → MemoryLaw s → s.engine = some f →
    f.job.op = .copy h r src sel sx sy c skip → h.slot = src.slot → f.abandon = none → f.progress = 0 →
    f.writePages = pages → f.readPages = pages → pages.Nodup → f.rowStore = s.sourceRow f f.row → 1 ≤ r.h →
    let width := (s.window h.slot).width
    let height := (s.window h.slot).height
    ∃ t, Sys2Proof.core.run r.h { s with pending := List.replicate r.h .rowEnd } = .next t ∧
      (∀ i j a, i < r.w → j < r.h → r.x + i < width → r.y + j < height →
        pixelAddr pages ((r.y + j) * width + (r.x + i)) = some a →
        let source := if sx + i < width ∧ sy + j < height then bufferPixel s.mem pages ((sy + j) * width + (sx + i))
          else Config.absentPixel s.scanout.choice (sx + i) (sy + j)
        readPixel t.mem a =
          if skip = some source then readPixel s.mem a else combined source (readPixel s.mem a) c) ∧
      (∀ x, (∀ i j a, i < r.w → j < r.h → r.x + i < width → r.y + j < height →
          pixelAddr pages ((r.y + j) * width + (r.x + i)) = some a → x ≠ a ∧ x ≠ a + 1) →
        readByte t.mem x = readByte s.mem x)

/-! ### Stamps -/

/-- LOAD_STAMP: its tests in their order, and the record of the lowest-numbered FREE slot that it loads. -/
def Obligations.LoadStampResult : Prop :=
  ∀ (l : Link) (seq : Byte) (p : List Byte) (s : State), s.ready l seq →
    ((p.length < 2 ∨ 1 < (p.getD 0 0).toNat ∨ 1 < (p.getD 1 0).toNat ∨
        (p.drop 2).length ≠ (if p.getD 0 0 = 0 then 32 else 128)) →
      ∃ t, exec (.loadStamp l seq p) s = .next t ∧ Answers s t l seq 0x30#8 .badParam .none) ∧
    (∀ (kind visibility : Byte) (data : List Byte), p = kind :: visibility :: data → kind = 0 ∨ kind = 1 →
      visibility = 0 ∨ visibility = 1 → data.length = (if kind = 0 then 32 else 128) →
      ((∀ i, (s.stamp i).state ≠ .free) →
        ∃ t, exec (.loadStamp l seq p) s = .next t ∧ Answers s t l seq 0x30#8 .stampFull .none) ∧
      (∀ i, (s.stamp i).state = .free → (∀ j, j < i → (s.stamp j).state ≠ .free) →
        (s.pins.pool = false → 48 ≤ s.ownedStamps.get l →
          ∃ t, exec (.loadStamp l seq p) s = .next t ∧ Answers s t l seq 0x30#8 .quota .none) ∧
        ((s.pins.pool = true ∨ s.ownedStamps.get l < 48) →
          ∃ t, exec (.loadStamp l seq p) s = .next t ∧
            Answers
              ((s.setStamp i
                  { gen := (s.stamp i).gen, state := .loaded, kind := if kind = 0 then .mask16 else .pattern8,
                    owner := some l, visibility := if visibility = 0 then .priv else .pub, references := 0,
                    contents := data }).setOwned l (s.ownedStamps.get l + 1))
              t l seq 0x30#8 .ok (.stamp ⟨i, (s.stamp i).gen⟩))))

/-- RELOAD_STAMP: its tests in their order; one that passes replaces the contents and nothing else. -/
def Obligations.ReloadStampResult : Prop :=
  ∀ (l : Link) (seq : Byte) (p : List Byte) (s : State), s.ready l seq →
    ((p.length < 2 ∨ 191 < (p.getD 0 0).toNat ∨ ((p.drop 2).length ≠ 32 ∧ (p.drop 2).length ≠ 128)) →
      ∃ t, exec (.reloadStamp l seq p) s = .next t ∧ Answers s t l seq 0x31#8 .badParam .none) ∧
    (∀ (slot gen : Byte) (data : List Byte) (hs : slot.toNat < 192), p = slot :: gen :: data →
      data.length = 32 ∨ data.length = 128 →
      let i : StampSlot := ⟨slot.toNat, hs⟩
      let st := s.stamp i
      (∀ status,
        (if st.state = .free ∨ st.gen ≠ gen then some .staleHandle
          else if st.state = .retiring then some .stampRetiring
          else if st.owner ≠ some l then some .notOwner
          else if data.length ≠ (match st.kind with | .mask16 => 32 | .pattern8 => 128) then some .badParam
          else if 0 < st.references then some Status.stampInUse
          else none) = some status →
        ∃ t, exec (.reloadStamp l seq p) s = .next t ∧ Answers s t l seq 0x31#8 status .none) ∧
      (st.state = .loaded → st.gen = gen → st.owner = some l →
        data.length = (match st.kind with | .mask16 => 32 | .pattern8 => 128) → st.references = 0 →
        ∃ t, exec (.reloadStamp l seq p) s = .next t ∧
          Answers (s.setStamp i { st with contents := data }) t l seq 0x31#8 .ok .none))

/-- FREE_STAMP: its tests in their order; one that passes makes an unreferenced stamp FREE and a referenced one RETIRING. That a
freed stamp keeps its kind and visibility, and zero contents of that kind's length, is the model's choice (log 21). -/
def Obligations.FreeStampResult : Prop :=
  ∀ (l : Link) (seq : Byte) (p : List Byte) (s : State), s.ready l seq →
    ((p.length < 2 ∨ 191 < (p.getD 0 0).toNat) →
      ∃ t, exec (.freeStamp l seq p) s = .next t ∧ Answers s t l seq 0x32#8 .badParam .none) ∧
    (∀ (slot gen : Byte) (extra : List Byte) (hs : slot.toNat < 192), p = slot :: gen :: extra →
      let i : StampSlot := ⟨slot.toNat, hs⟩
      let st := s.stamp i
      (∀ status,
        (if st.state = .free ∨ st.gen ≠ gen then some .staleHandle
          else if st.state = .retiring then some .stampRetiring
          else if st.owner ≠ some l then some Status.notOwner
          else none) = some status →
        ∃ t, exec (.freeStamp l seq p) s = .next t ∧ Answers s t l seq 0x32#8 status .none) ∧
      (st.state = .loaded → st.gen = gen → st.owner = some l →
        (st.references = 0 →
          ∃ t, exec (.freeStamp l seq p) s = .next t ∧
            Answers
              ((s.setStamp i
                  { st with gen := gen + 1, state := .free, owner := none, references := 0,
                            contents := List.replicate (match st.kind with | .mask16 => 32 | .pattern8 => 128) 0 }).setOwned l
                (s.ownedStamps.get l - 1))
              t l seq 0x32#8 .freed .none) ∧
        (st.references ≠ 0 →
          ∃ t, exec (.freeStamp l seq p) s = .next t ∧
            Answers (s.setStamp i { st with state := .retiring }) t l seq 0x32#8 .retiring .none)))

/-! ### Frames and touches -/

/-- FRAME_START: the frame number rises by one, each pending flip is taken, the live stack is latched with the front buffers
after the flips, the on-glass marks follow the latch, and a CLOSING window that leaves the glass and is not named in flight is
released. Surface memory, the live stack and the contacts do not change. The event queue of each UP link takes, in this order,
PRESENTED or a silent release for each of its flips in ascending slot order, WINDOW_CLOSED for each of its released windows in
ascending slot order, and FRAME if it is subscribed; no other queue takes any. Then the heads that a flip freed are examined,
links A to D, the arbiter grants (log 15), and the transmitters choose. That a lost count is examined after each of these
claims, and so may put LOST_EVENTS before the later ones, is the model's reading (log 13). Until the heads are examined nothing
else changes: the job in flight, the job queues, the stamps and the last-served link stay; released windows put their pages at
the tail of the scrub queue in ascending slot order and lower the held-page counts, and those that a teardown waits for lower
its count; no value is recorded as overwritten in the new frame (log 10). Fields of a released window that no rule names keep
their values (log 21). What a reserved event and a silent release do to a queue is said first. -/
def Obligations.FrameStartResult : Prop :=
  (∀ (q : EventQueue) (e : Event), 0 < q.reserved →
    q.queueReserved e = ({ q with records := q.records ++ [⟨q.nextSeq, e, false⟩], nextSeq := q.nextSeq + 1,
                                  reserved := q.reserved - 1 } : EventQueue).reportLost) ∧
  (∀ q : EventQueue, q.silentRelease = ({ q with reserved := q.reserved - 1 } : EventQueue).reportLost) ∧
  (∀ s : State, s.resetN = true → StackLaw s →
    ∃ t u : State, exec .frameStart s = .next t ∧ t = ((allLinks.foldl State.examineHead u).arbitrate).transmitAll ∧
      let frontAfter := fun w : Window =>
        if w.buffering = .double ∧ w.flipPending ≠ none then
          match w.front with
          | .zero => BufferIndex.one
          | .one => BufferIndex.zero
        else w.front
      t.scanout.frameNumber = s.scanout.frameNumber + 1 ∧
      t.scanout.record = s.stack.map (fun i =>
        let w := s.window i
        { handle := ⟨i, w.gen⟩, x := w.x, y := w.y, width := w.width, height := w.height, weight := w.weight, key := w.key,
          touch := w.touch,
          pages := match w.buffering with
            | .single => w.buf0
            | .double => match frontAfter w with
              | .zero => w.buf0
              | .one => w.buf1 }) ∧
      (∀ i, ((s.window i).state ≠ .closing ∨ (s.window i).onGlass = false ∨
          s.namedInFlight ⟨i, (s.window i).gen⟩ = true) →
        { t.window i with flipPending := none } =
          { s.window i with flipPending := none, front := frontAfter (s.window i), onGlass := decide (i ∈ s.stack) }) ∧
      (∀ i, (s.window i).state = .closing → (s.window i).onGlass = true →
        s.namedInFlight ⟨i, (s.window i).gen⟩ = false →
        (t.window i).state = .free ∧ (t.window i).gen = (s.window i).gen + 1 ∧ (t.window i).owner = none ∧
          (t.window i).onGlass = false) ∧
      (∀ i a, (t.window i).flipPending = some a → ∃ l, ∃ j ∈ (s.queue l).entries,
        j.op.target.map Handle.slot = some i ∧ j.op.kind = .present ∧ a = ⟨j.tag, j.notify⟩) ∧
      t.mem = s.mem ∧ t.stack = s.stack ∧ t.contacts = s.contacts ∧ t.pool.free = s.pool.free ∧ t.pins = s.pins ∧
      t.resetN = s.resetN ∧ t.pending = s.pending ∧
      (∀ l, s.isUp l = false → u.eventsOf l = s.eventsOf l) ∧
      (∀ l, s.isUp l = true →
        let presented := (List.finRange 32).foldl (fun (q : EventQueue) i =>
          match (s.window i).flipPending with
          | some f =>
            if (s.window i).owner = some l then
              if f.notify then q.queueReserved (.presented f.tag (s.scanout.frameNumber + 1)) else q.silentRelease
            else q
          | none => q) (s.eventsOf l)
        let closed := (List.finRange 32).foldl (fun (q : EventQueue) i =>
          if (s.window i).state = .closing ∧ (s.window i).onGlass = true ∧ (s.window i).owner = some l ∧
              (s.window i).closeReason = some .owner ∧ s.namedInFlight ⟨i, (s.window i).gen⟩ = false then
            q.queueReserved (.windowClosed ⟨i, (s.window i).gen⟩)
          else q) presented
        u.eventsOf l =
          if (s.link l).notify then closed.queueUnreserved (.frame (s.scanout.frameNumber + 1) 1) else closed) ∧
      (let released := (List.finRange 32).filter fun i =>
         decide ((s.window i).state = .closing) && (s.window i).onGlass && !s.namedInFlight ⟨i, (s.window i).gen⟩
       let ofLink := fun l : Link => released.filter fun i => decide ((s.window i).owner = some l)
       let scrub := s.pool.scrub ++ s.pagesOfSlots released
       { u with windows := s.windows, events := s.events, links := s.links, pool := s.pool, scanout := s.scanout } = s ∧
       { u.scanout with record := t.scanout.record } =
         { frameNumber := s.scanout.frameNumber + 1, record := t.scanout.record, earlier := [],
           choice := s.scanout.choice + 1 } ∧
       t.scanout = u.scanout ∧
       (∀ i, u.window i =
         let w := s.window i
         let marked : Window :=
           { w with flipPending := none, front := frontAfter w, onGlass := decide (i ∈ s.stack) }
         if i ∈ released then
           { marked with gen := w.gen + 1, state := .free, owner := none, key := none, closeReason := none, buf0 := [],
                         buf1 := [] }
         else marked) ∧
       { u.pool with held := s.pool.held } =
         { s.pool with scrub := scrub, busy := if released = [] then s.pool.busy else decide (scrub ≠ []) } ∧
       (∀ l, u.pool.held.get l = s.pool.held.get l - ((ofLink l).map fun i => (s.window i).pages).sum) ∧
       (∀ l,
         let n := ((ofLink l).filter fun i => decide ((s.window i).closeReason = some .teardown)).length
         u.link l =
           { s.link l with
               toRelease := (s.link l).toRelease - n
               state := if 0 < n ∧ (s.link l).state = .teardown ∧ (s.link l).toRelease ≤ n ∧ (s.link l).jobPending = false
                 then .down else (s.link l).state })))

/-- CONTACT_REPORT: a malformed report changes nothing; any other carries one entry in each four bytes (a number, x and y of 12
bits) and is applied to the five contacts by their states and the clamped positions its entries give them, a contact going down
taking the topmost entry of the frame record that meets the four conditions as its capture. Only contacts, event queues and link
controllers change. That a contact that lifts has no last position is the model's reading (log 25), and so is the capture of a
window hidden and shown again since the latch (log 27). -/
def Obligations.ReportApplied : Prop :=
  ∀ (bytes : List Byte) (s : State), s.resetN = true →
    let malformed := bytes.length % 4 ≠ 0 ∨ (∃ k, 4 * k < bytes.length ∧ 4 < (bytes.getD (4 * k) 0).toNat) ∨
      ∃ j k, j < k ∧ 4 * k < bytes.length ∧ bytes.getD (4 * j) 0 = bytes.getD (4 * k) 0
    let byte := fun i => (bytes.getD i 0).toNat
    let es := (List.range (bytes.length / 4)).map fun k =>
      (⟨byte (4 * k), byte (4 * k + 1) * 16 + byte (4 * k + 2) / 16, byte (4 * k + 2) % 16 * 256 + byte (4 * k + 3)⟩ :
        ReportEntry)
    (malformed → takenReport bytes = none ∧ exec (.contactReport bytes) s = .next s) ∧
    (¬ malformed → takenReport bytes = some es ∧
      ∃ t, exec (.contactReport bytes) s = .next t ∧
        { t with contacts := s.contacts, events := s.events, links := s.links } = s ∧
        ∀ k : ContactNumber,
          let listed := (es.find? fun e => decide (e.number = k.val)).map fun e =>
            (⟨min e.x (screenWidth s.pins.panel - 1), min e.y (screenHeight s.pins.panel - 1)⟩ : Pos)
          let hit := fun p : Pos =>
            (s.scanout.record.reverse.find? fun e =>
              e.touch && decide (0 < e.weight) &&
                decide (e.x ≤ (p.x : Int) ∧ (p.x : Int) ≤ e.x + e.width - 1 ∧ e.y ≤ (p.y : Int) ∧
                  (p.y : Int) ≤ e.y + e.height - 1) &&
                decide ((s.window e.handle.slot).gen = e.handle.gen ∧ (s.window e.handle.slot).state = .shown)).map
              fun e => e.handle
          t.contact k =
            match (s.contact k).state, listed with
            | .none, some p => { s.contact k with state := .settling, last := some p }
            | .none, none => s.contact k
            | .settling, some p =>
              { state := .held, capture := hit p, last := some p, lastSent := if (hit p).isSome then some p else none }
            | .settling, none => { state := .none, capture := none, last := none, lastSent := none }
            | .held, some p =>
              { s.contact k with last := some p,
                                 lastSent := if (s.contact k).capture.isSome then some p else (s.contact k).lastSent }
            | .held, none => { state := .none, capture := none, last := none, lastSent := none })

/-- The touch events of a report, for any number of contacts. A report is applied to the five contacts in ascending number, and
then the transmitters choose. At each contact: TOUCH_DOWN where the hit test finds a window, TOUCH_MOVE where a captured
contact's position differs from the last sent one, TOUCH_UP at the last position where it is absent, each handed to the owner of
the window, with the position measured from the window's entry in the frame record; no event in any other case. Which position a
report gives a contact, and which window a hit test finds (log 27 for one hidden and shown again since the latch), is stated
beside. That a lifted contact has no last position is the model's reading (log 25). -/
def Obligations.TouchEventsHanded : Prop :=
  (∀ (bytes : List Byte) (s : State) (es : List ReportEntry), s.resetN = true → takenReport bytes = some es →
    exec (.contactReport bytes) s =
      .next ((List.finRange 5).foldl (fun (u : State) k => u.applyContact es k) s).transmitAll) ∧
  (∀ (u : State) (es : List ReportEntry) (k : ContactNumber) (h : Handle) (e : Latched) (l : Link),
    e ∈ u.scanout.record → e.handle = h → (∀ d ∈ u.scanout.record, d.handle = h → d = e) →
    (u.window h.slot).owner = some l → u.isUp l = true →
    let listed := presentAt u.pins.panel es k
    let handed := fun (kind : TouchKind) (p : Pos) (c : Contact) =>
      u.applyContact es k = (u.setContact k c).setEvents l
        ((u.eventsOf l).queueUnreserved (.touch kind k h (p.x - e.x) (p.y - e.y)))
    (∀ p, (u.contact k).state = .settling → listed = some p → u.hitTest p = some h →
      handed .down p { state := .held, capture := some h, last := some p, lastSent := some p }) ∧
    (∀ p, (u.contact k).state = .held → (u.contact k).capture = some h → listed = some p →
      (u.contact k).lastSent ≠ some p → handed .move p { u.contact k with last := some p, lastSent := some p }) ∧
    (∀ p, (u.contact k).state = .held → (u.contact k).capture = some h → listed = none → (u.contact k).last = some p →
      handed .up p { state := .none, capture := none, last := none, lastSent := none })) ∧
  (∀ (u : State) (es : List ReportEntry) (k : ContactNumber),
    let listed := presentAt u.pins.panel es k
    ((u.contact k).state = .none ∨
      ((u.contact k).state = .settling ∧ ∀ p, listed = some p → u.hitTest p = none) ∨
      ((u.contact k).state = .held ∧ (u.contact k).capture = none) ∨
      ((u.contact k).state = .held ∧ ∃ p, listed = some p ∧ (u.contact k).lastSent = some p)) →
    (u.applyContact es k).events = u.events) ∧
  (∀ (u : State) (es : List ReportEntry) (k : ContactNumber) (p : Pos),
    presentAt u.pins.panel es k = ((es.find? fun e => decide (e.number = k.val)).map fun e =>
      let width := match u.pins.panel.toNat with | 0 => 480 | 1 => 640 | 2 => 800 | _ => 1024
      let height := match u.pins.panel.toNat with | 0 => 272 | 1 => 480 | 2 => 480 | _ => 600
      (⟨min e.x (width - 1), min e.y (height - 1)⟩ : Pos)) ∧
    u.hitTest p = (u.scanout.record.reverse.find? fun e =>
      e.touch && decide (0 < e.weight) &&
        decide (e.x ≤ (p.x : Int) ∧ (p.x : Int) ≤ e.x + e.width - 1 ∧ e.y ≤ (p.y : Int) ∧ (p.y : Int) ≤ e.y + e.height - 1) &&
        decide ((u.window e.handle.slot).gen = e.handle.gen ∧ (u.window e.handle.slot).state = .shown)).map fun e => e.handle)

/-! ### The laws, kept by every step -/

/-- The state after reset, which RESET_RELEASE makes of the reset values with every pin low (log 6), meets every law. -/
def Obligations.ResetMeetsTheLaws : Prop :=
  exec .resetRelease (State.heldInReset Pins.low) = .next State.reset ∧
  MemoryLaw State.reset ∧ StackLaw State.reset ∧ EventLaw State.reset ∧ LinkLaw State.reset ∧ TouchLaw State.reset ∧
  PageLaw State.reset ∧ JobLaw State.reset ∧ StampLaw State.reset ∧ SessionLaw State.reset ∧ TransmitterLaw State.reset

/-- Every step keeps surface memory in its canonical form. -/
def Obligations.MemoryLawKept : Prop := ∀ s t : State, MemoryLaw s → step s = .next t → MemoryLaw t

/-- Every step keeps the law of the live stack. -/
def Obligations.StackLawKept : Prop := ∀ s t : State, StackLaw s → step s = .next t → StackLaw t

/-- Every step keeps the law of the event queues. -/
def Obligations.EventLawKept : Prop := ∀ s t : State, EventLaw s → step s = .next t → EventLaw t

/-- Every step keeps the law of the link controllers. -/
def Obligations.LinkLawKept : Prop := ∀ s t : State, LinkLaw s → step s = .next t → LinkLaw t

/-- Every step keeps the law of the contacts. -/
def Obligations.TouchLawKept : Prop := ∀ s t : State, TouchLaw s → step s = .next t → TouchLaw t

/-- Every step keeps the law of the pages, beside the canonical form of surface memory: among the rest, every page of the free
set holds only zero pixels. -/
def Obligations.PageLawKept : Prop := ∀ s t : State, PageLaw s → MemoryLaw s → step s = .next t → PageLaw t

/-- Every step keeps the law of the job queues. -/
def Obligations.JobLawKept : Prop := ∀ s t : State, JobLaw s → step s = .next t → JobLaw t

/-- Every step keeps the law of the stamps, beside the law of the job queues. -/
def Obligations.StampLawKept : Prop := ∀ s t : State, StampLaw s → JobLaw s → step s = .next t → StampLaw t

/-- Every step keeps the law of the sessions, beside the law of the job queues. -/
def Obligations.SessionLawKept : Prop := ∀ s t : State, SessionLaw s → JobLaw s → step s = .next t → SessionLaw t

/-- Every step keeps the law of the transmitters. -/
def Obligations.TransmitterLawKept : Prop := ∀ s t : State, TransmitterLaw s → step s = .next t → TransmitterLaw t
end

