-- ==== Sys2Proof/Laws/State.lean ====
section
/-! SUPPORT. What each update of a part of the state does to each field and to each accessor: one lemma per field per update. -/

namespace Sys2Proof.Machine

open Sys2Proof

/-! ### One value per link -/

@[simp] theorem PerLink.get_set_self {α : Type} (p : PerLink α) (l : Link) (x : α) : (p.set l x).get l = x := by
  cases l <;> rfl

@[simp] theorem PerLink.get_set_ne {α : Type} (p : PerLink α) (l k : Link) (x : α) (h : k ≠ l) :
    (p.set l x).get k = p.get k := by
  cases l <;> cases k <;> first | rfl | exact absurd rfl h

theorem PerLink.get_set {α : Type} (p : PerLink α) (l k : Link) (x : α) :
    (p.set l x).get k = if k = l then x else p.get k := by
  cases l <;> cases k <;> rfl

@[simp] theorem PerLink.set_set {α : Type} (p : PerLink α) (l : Link) (x y : α) : (p.set l x).set l y = p.set l y := by
  cases l <;> rfl

theorem PerLink.set_comm {α : Type} (p : PerLink α) (l k : Link) (x y : α) (h : l ≠ k) :
    (p.set l x).set k y = (p.set k y).set l x := by
  cases l <;> cases k <;> first | rfl | exact absurd rfl h

@[simp] theorem PerLink.set_get {α : Type} (p : PerLink α) (l : Link) : p.set l (p.get l) = p := by
  cases l <;> rfl

@[simp] theorem PerLink.get_all {α : Type} (x : α) (l : Link) : (PerLink.all x).get l = x := by
  cases l <;> rfl

theorem PerLink.ext_get {α : Type} (p q : PerLink α) (h : ∀ l, p.get l = q.get l) : p = q := by
  cases p; cases q
  have hA := h .A
  have hB := h .B
  have hC := h .C
  have hD := h .D
  simp only [PerLink.get] at hA hB hC hD
  simp [hA, hB, hC, hD]

/-! ### setLink -/

@[simp] theorem State.setLink_pending (s : State) (l : Link) (c : LinkCtl) : (s.setLink l c).pending = s.pending := rfl
@[simp] theorem State.setLink_resetN (s : State) (l : Link) (c : LinkCtl) : (s.setLink l c).resetN = s.resetN := rfl
@[simp] theorem State.setLink_pins (s : State) (l : Link) (c : LinkCtl) : (s.setLink l c).pins = s.pins := rfl
@[simp] theorem State.setLink_mem (s : State) (l : Link) (c : LinkCtl) : (s.setLink l c).mem = s.mem := rfl
@[simp] theorem State.setLink_pool (s : State) (l : Link) (c : LinkCtl) : (s.setLink l c).pool = s.pool := rfl
@[simp] theorem State.setLink_windows (s : State) (l : Link) (c : LinkCtl) : (s.setLink l c).windows = s.windows := rfl
@[simp] theorem State.setLink_stack (s : State) (l : Link) (c : LinkCtl) : (s.setLink l c).stack = s.stack := rfl
@[simp] theorem State.setLink_scanout (s : State) (l : Link) (c : LinkCtl) : (s.setLink l c).scanout = s.scanout := rfl
@[simp] theorem State.setLink_queues (s : State) (l : Link) (c : LinkCtl) : (s.setLink l c).queues = s.queues := rfl
@[simp] theorem State.setLink_lastServed (s : State) (l : Link) (c : LinkCtl) : (s.setLink l c).lastServed = s.lastServed := rfl
@[simp] theorem State.setLink_engine (s : State) (l : Link) (c : LinkCtl) : (s.setLink l c).engine = s.engine := rfl
@[simp] theorem State.setLink_stamps (s : State) (l : Link) (c : LinkCtl) : (s.setLink l c).stamps = s.stamps := rfl
@[simp] theorem State.setLink_ownedStamps (s : State) (l : Link) (c : LinkCtl) : (s.setLink l c).ownedStamps = s.ownedStamps := rfl
@[simp] theorem State.setLink_contacts (s : State) (l : Link) (c : LinkCtl) : (s.setLink l c).contacts = s.contacts := rfl
@[simp] theorem State.setLink_events (s : State) (l : Link) (c : LinkCtl) : (s.setLink l c).events = s.events := rfl
@[simp] theorem State.setLink_links (s : State) (l : Link) (c : LinkCtl) : (s.setLink l c).links = s.links.set l c := rfl

@[simp] theorem State.queue_setLink (s : State) (l : Link) (c : LinkCtl) (k : Link) : (s.setLink l c).queue k = s.queue k := rfl
@[simp] theorem State.eventsOf_setLink (s : State) (l : Link) (c : LinkCtl) (k : Link) : (s.setLink l c).eventsOf k = s.eventsOf k := rfl
@[simp] theorem State.window_setLink (s : State) (l : Link) (c : LinkCtl) (j : Slot) : (s.setLink l c).window j = s.window j := rfl
@[simp] theorem State.stamp_setLink (s : State) (l : Link) (c : LinkCtl) (j : StampSlot) : (s.setLink l c).stamp j = s.stamp j := rfl
@[simp] theorem State.contact_setLink (s : State) (l : Link) (c : LinkCtl) (j : ContactNumber) : (s.setLink l c).contact j = s.contact j := rfl

/-! ### setQueue -/

@[simp] theorem State.setQueue_pending (s : State) (l : Link) (q : JobQueue) : (s.setQueue l q).pending = s.pending := rfl
@[simp] theorem State.setQueue_resetN (s : State) (l : Link) (q : JobQueue) : (s.setQueue l q).resetN = s.resetN := rfl
@[simp] theorem State.setQueue_pins (s : State) (l : Link) (q : JobQueue) : (s.setQueue l q).pins = s.pins := rfl
@[simp] theorem State.setQueue_mem (s : State) (l : Link) (q : JobQueue) : (s.setQueue l q).mem = s.mem := rfl
@[simp] theorem State.setQueue_pool (s : State) (l : Link) (q : JobQueue) : (s.setQueue l q).pool = s.pool := rfl
@[simp] theorem State.setQueue_windows (s : State) (l : Link) (q : JobQueue) : (s.setQueue l q).windows = s.windows := rfl
@[simp] theorem State.setQueue_stack (s : State) (l : Link) (q : JobQueue) : (s.setQueue l q).stack = s.stack := rfl
@[simp] theorem State.setQueue_scanout (s : State) (l : Link) (q : JobQueue) : (s.setQueue l q).scanout = s.scanout := rfl
@[simp] theorem State.setQueue_queues (s : State) (l : Link) (q : JobQueue) : (s.setQueue l q).queues = s.queues.set l q := rfl
@[simp] theorem State.setQueue_lastServed (s : State) (l : Link) (q : JobQueue) : (s.setQueue l q).lastServed = s.lastServed := rfl
@[simp] theorem State.setQueue_engine (s : State) (l : Link) (q : JobQueue) : (s.setQueue l q).engine = s.engine := rfl
@[simp] theorem State.setQueue_stamps (s : State) (l : Link) (q : JobQueue) : (s.setQueue l q).stamps = s.stamps := rfl
@[simp] theorem State.setQueue_ownedStamps (s : State) (l : Link) (q : JobQueue) : (s.setQueue l q).ownedStamps = s.ownedStamps := rfl
@[simp] theorem State.setQueue_contacts (s : State) (l : Link) (q : JobQueue) : (s.setQueue l q).contacts = s.contacts := rfl
@[simp] theorem State.setQueue_events (s : State) (l : Link) (q : JobQueue) : (s.setQueue l q).events = s.events := rfl
@[simp] theorem State.setQueue_links (s : State) (l : Link) (q : JobQueue) : (s.setQueue l q).links = s.links := rfl

@[simp] theorem State.link_setQueue (s : State) (l : Link) (q : JobQueue) (k : Link) : (s.setQueue l q).link k = s.link k := rfl
@[simp] theorem State.isUp_setQueue (s : State) (l : Link) (q : JobQueue) (k : Link) : (s.setQueue l q).isUp k = s.isUp k := rfl
@[simp] theorem State.eventsOf_setQueue (s : State) (l : Link) (q : JobQueue) (k : Link) : (s.setQueue l q).eventsOf k = s.eventsOf k := rfl
@[simp] theorem State.window_setQueue (s : State) (l : Link) (q : JobQueue) (j : Slot) : (s.setQueue l q).window j = s.window j := rfl
@[simp] theorem State.stamp_setQueue (s : State) (l : Link) (q : JobQueue) (j : StampSlot) : (s.setQueue l q).stamp j = s.stamp j := rfl
@[simp] theorem State.contact_setQueue (s : State) (l : Link) (q : JobQueue) (j : ContactNumber) : (s.setQueue l q).contact j = s.contact j := rfl

/-! ### setEvents -/

@[simp] theorem State.setEvents_pending (s : State) (l : Link) (q : EventQueue) : (s.setEvents l q).pending = s.pending := rfl
@[simp] theorem State.setEvents_resetN (s : State) (l : Link) (q : EventQueue) : (s.setEvents l q).resetN = s.resetN := rfl
@[simp] theorem State.setEvents_pins (s : State) (l : Link) (q : EventQueue) : (s.setEvents l q).pins = s.pins := rfl
@[simp] theorem State.setEvents_mem (s : State) (l : Link) (q : EventQueue) : (s.setEvents l q).mem = s.mem := rfl
@[simp] theorem State.setEvents_pool (s : State) (l : Link) (q : EventQueue) : (s.setEvents l q).pool = s.pool := rfl
@[simp] theorem State.setEvents_windows (s : State) (l : Link) (q : EventQueue) : (s.setEvents l q).windows = s.windows := rfl
@[simp] theorem State.setEvents_stack (s : State) (l : Link) (q : EventQueue) : (s.setEvents l q).stack = s.stack := rfl
@[simp] theorem State.setEvents_scanout (s : State) (l : Link) (q : EventQueue) : (s.setEvents l q).scanout = s.scanout := rfl
@[simp] theorem State.setEvents_queues (s : State) (l : Link) (q : EventQueue) : (s.setEvents l q).queues = s.queues := rfl
@[simp] theorem State.setEvents_lastServed (s : State) (l : Link) (q : EventQueue) : (s.setEvents l q).lastServed = s.lastServed := rfl
@[simp] theorem State.setEvents_engine (s : State) (l : Link) (q : EventQueue) : (s.setEvents l q).engine = s.engine := rfl
@[simp] theorem State.setEvents_stamps (s : State) (l : Link) (q : EventQueue) : (s.setEvents l q).stamps = s.stamps := rfl
@[simp] theorem State.setEvents_ownedStamps (s : State) (l : Link) (q : EventQueue) : (s.setEvents l q).ownedStamps = s.ownedStamps := rfl
@[simp] theorem State.setEvents_contacts (s : State) (l : Link) (q : EventQueue) : (s.setEvents l q).contacts = s.contacts := rfl
@[simp] theorem State.setEvents_events (s : State) (l : Link) (q : EventQueue) : (s.setEvents l q).events = s.events.set l q := rfl
@[simp] theorem State.setEvents_links (s : State) (l : Link) (q : EventQueue) : (s.setEvents l q).links = s.links := rfl

@[simp] theorem State.link_setEvents (s : State) (l : Link) (q : EventQueue) (k : Link) : (s.setEvents l q).link k = s.link k := rfl
@[simp] theorem State.isUp_setEvents (s : State) (l : Link) (q : EventQueue) (k : Link) : (s.setEvents l q).isUp k = s.isUp k := rfl
@[simp] theorem State.queue_setEvents (s : State) (l : Link) (q : EventQueue) (k : Link) : (s.setEvents l q).queue k = s.queue k := rfl
@[simp] theorem State.window_setEvents (s : State) (l : Link) (q : EventQueue) (j : Slot) : (s.setEvents l q).window j = s.window j := rfl
@[simp] theorem State.stamp_setEvents (s : State) (l : Link) (q : EventQueue) (j : StampSlot) : (s.setEvents l q).stamp j = s.stamp j := rfl
@[simp] theorem State.contact_setEvents (s : State) (l : Link) (q : EventQueue) (j : ContactNumber) : (s.setEvents l q).contact j = s.contact j := rfl

/-! ### setWindow -/

@[simp] theorem State.setWindow_pending (s : State) (i : Slot) (w : Window) : (s.setWindow i w).pending = s.pending := rfl
@[simp] theorem State.setWindow_resetN (s : State) (i : Slot) (w : Window) : (s.setWindow i w).resetN = s.resetN := rfl
@[simp] theorem State.setWindow_pins (s : State) (i : Slot) (w : Window) : (s.setWindow i w).pins = s.pins := rfl
@[simp] theorem State.setWindow_mem (s : State) (i : Slot) (w : Window) : (s.setWindow i w).mem = s.mem := rfl
@[simp] theorem State.setWindow_pool (s : State) (i : Slot) (w : Window) : (s.setWindow i w).pool = s.pool := rfl
@[simp] theorem State.setWindow_windows (s : State) (i : Slot) (w : Window) : (s.setWindow i w).windows = s.windows.set i.val w := rfl
@[simp] theorem State.setWindow_stack (s : State) (i : Slot) (w : Window) : (s.setWindow i w).stack = s.stack := rfl
@[simp] theorem State.setWindow_scanout (s : State) (i : Slot) (w : Window) : (s.setWindow i w).scanout = s.scanout := rfl
@[simp] theorem State.setWindow_queues (s : State) (i : Slot) (w : Window) : (s.setWindow i w).queues = s.queues := rfl
@[simp] theorem State.setWindow_lastServed (s : State) (i : Slot) (w : Window) : (s.setWindow i w).lastServed = s.lastServed := rfl
@[simp] theorem State.setWindow_engine (s : State) (i : Slot) (w : Window) : (s.setWindow i w).engine = s.engine := rfl
@[simp] theorem State.setWindow_stamps (s : State) (i : Slot) (w : Window) : (s.setWindow i w).stamps = s.stamps := rfl
@[simp] theorem State.setWindow_ownedStamps (s : State) (i : Slot) (w : Window) : (s.setWindow i w).ownedStamps = s.ownedStamps := rfl
@[simp] theorem State.setWindow_contacts (s : State) (i : Slot) (w : Window) : (s.setWindow i w).contacts = s.contacts := rfl
@[simp] theorem State.setWindow_events (s : State) (i : Slot) (w : Window) : (s.setWindow i w).events = s.events := rfl
@[simp] theorem State.setWindow_links (s : State) (i : Slot) (w : Window) : (s.setWindow i w).links = s.links := rfl

@[simp] theorem State.link_setWindow (s : State) (i : Slot) (w : Window) (k : Link) : (s.setWindow i w).link k = s.link k := rfl
@[simp] theorem State.isUp_setWindow (s : State) (i : Slot) (w : Window) (k : Link) : (s.setWindow i w).isUp k = s.isUp k := rfl
@[simp] theorem State.queue_setWindow (s : State) (i : Slot) (w : Window) (k : Link) : (s.setWindow i w).queue k = s.queue k := rfl
@[simp] theorem State.eventsOf_setWindow (s : State) (i : Slot) (w : Window) (k : Link) : (s.setWindow i w).eventsOf k = s.eventsOf k := rfl
@[simp] theorem State.stamp_setWindow (s : State) (i : Slot) (w : Window) (j : StampSlot) : (s.setWindow i w).stamp j = s.stamp j := rfl
@[simp] theorem State.contact_setWindow (s : State) (i : Slot) (w : Window) (j : ContactNumber) : (s.setWindow i w).contact j = s.contact j := rfl

/-! ### setStamp -/

@[simp] theorem State.setStamp_pending (s : State) (i : StampSlot) (x : Stamp) : (s.setStamp i x).pending = s.pending := rfl
@[simp] theorem State.setStamp_resetN (s : State) (i : StampSlot) (x : Stamp) : (s.setStamp i x).resetN = s.resetN := rfl
@[simp] theorem State.setStamp_pins (s : State) (i : StampSlot) (x : Stamp) : (s.setStamp i x).pins = s.pins := rfl
@[simp] theorem State.setStamp_mem (s : State) (i : StampSlot) (x : Stamp) : (s.setStamp i x).mem = s.mem := rfl
@[simp] theorem State.setStamp_pool (s : State) (i : StampSlot) (x : Stamp) : (s.setStamp i x).pool = s.pool := rfl
@[simp] theorem State.setStamp_windows (s : State) (i : StampSlot) (x : Stamp) : (s.setStamp i x).windows = s.windows := rfl
@[simp] theorem State.setStamp_stack (s : State) (i : StampSlot) (x : Stamp) : (s.setStamp i x).stack = s.stack := rfl
@[simp] theorem State.setStamp_scanout (s : State) (i : StampSlot) (x : Stamp) : (s.setStamp i x).scanout = s.scanout := rfl
@[simp] theorem State.setStamp_queues (s : State) (i : StampSlot) (x : Stamp) : (s.setStamp i x).queues = s.queues := rfl
@[simp] theorem State.setStamp_lastServed (s : State) (i : StampSlot) (x : Stamp) : (s.setStamp i x).lastServed = s.lastServed := rfl
@[simp] theorem State.setStamp_engine (s : State) (i : StampSlot) (x : Stamp) : (s.setStamp i x).engine = s.engine := rfl
@[simp] theorem State.setStamp_stamps (s : State) (i : StampSlot) (x : Stamp) : (s.setStamp i x).stamps = s.stamps.set i.val x := rfl
@[simp] theorem State.setStamp_ownedStamps (s : State) (i : StampSlot) (x : Stamp) : (s.setStamp i x).ownedStamps = s.ownedStamps := rfl
@[simp] theorem State.setStamp_contacts (s : State) (i : StampSlot) (x : Stamp) : (s.setStamp i x).contacts = s.contacts := rfl
@[simp] theorem State.setStamp_events (s : State) (i : StampSlot) (x : Stamp) : (s.setStamp i x).events = s.events := rfl
@[simp] theorem State.setStamp_links (s : State) (i : StampSlot) (x : Stamp) : (s.setStamp i x).links = s.links := rfl

@[simp] theorem State.link_setStamp (s : State) (i : StampSlot) (x : Stamp) (k : Link) : (s.setStamp i x).link k = s.link k := rfl
@[simp] theorem State.isUp_setStamp (s : State) (i : StampSlot) (x : Stamp) (k : Link) : (s.setStamp i x).isUp k = s.isUp k := rfl
@[simp] theorem State.queue_setStamp (s : State) (i : StampSlot) (x : Stamp) (k : Link) : (s.setStamp i x).queue k = s.queue k := rfl
@[simp] theorem State.eventsOf_setStamp (s : State) (i : StampSlot) (x : Stamp) (k : Link) : (s.setStamp i x).eventsOf k = s.eventsOf k := rfl
@[simp] theorem State.window_setStamp (s : State) (i : StampSlot) (x : Stamp) (j : Slot) : (s.setStamp i x).window j = s.window j := rfl
@[simp] theorem State.contact_setStamp (s : State) (i : StampSlot) (x : Stamp) (j : ContactNumber) : (s.setStamp i x).contact j = s.contact j := rfl

/-! ### setContact -/

@[simp] theorem State.setContact_pending (s : State) (m : ContactNumber) (c : Contact) : (s.setContact m c).pending = s.pending := rfl
@[simp] theorem State.setContact_resetN (s : State) (m : ContactNumber) (c : Contact) : (s.setContact m c).resetN = s.resetN := rfl
@[simp] theorem State.setContact_pins (s : State) (m : ContactNumber) (c : Contact) : (s.setContact m c).pins = s.pins := rfl
@[simp] theorem State.setContact_mem (s : State) (m : ContactNumber) (c : Contact) : (s.setContact m c).mem = s.mem := rfl
@[simp] theorem State.setContact_pool (s : State) (m : ContactNumber) (c : Contact) : (s.setContact m c).pool = s.pool := rfl
@[simp] theorem State.setContact_windows (s : State) (m : ContactNumber) (c : Contact) : (s.setContact m c).windows = s.windows := rfl
@[simp] theorem State.setContact_stack (s : State) (m : ContactNumber) (c : Contact) : (s.setContact m c).stack = s.stack := rfl
@[simp] theorem State.setContact_scanout (s : State) (m : ContactNumber) (c : Contact) : (s.setContact m c).scanout = s.scanout := rfl
@[simp] theorem State.setContact_queues (s : State) (m : ContactNumber) (c : Contact) : (s.setContact m c).queues = s.queues := rfl
@[simp] theorem State.setContact_lastServed (s : State) (m : ContactNumber) (c : Contact) : (s.setContact m c).lastServed = s.lastServed := rfl
@[simp] theorem State.setContact_engine (s : State) (m : ContactNumber) (c : Contact) : (s.setContact m c).engine = s.engine := rfl
@[simp] theorem State.setContact_stamps (s : State) (m : ContactNumber) (c : Contact) : (s.setContact m c).stamps = s.stamps := rfl
@[simp] theorem State.setContact_ownedStamps (s : State) (m : ContactNumber) (c : Contact) : (s.setContact m c).ownedStamps = s.ownedStamps := rfl
@[simp] theorem State.setContact_contacts (s : State) (m : ContactNumber) (c : Contact) : (s.setContact m c).contacts = s.contacts.set m.val c := rfl
@[simp] theorem State.setContact_events (s : State) (m : ContactNumber) (c : Contact) : (s.setContact m c).events = s.events := rfl
@[simp] theorem State.setContact_links (s : State) (m : ContactNumber) (c : Contact) : (s.setContact m c).links = s.links := rfl

@[simp] theorem State.link_setContact (s : State) (m : ContactNumber) (c : Contact) (k : Link) : (s.setContact m c).link k = s.link k := rfl
@[simp] theorem State.isUp_setContact (s : State) (m : ContactNumber) (c : Contact) (k : Link) : (s.setContact m c).isUp k = s.isUp k := rfl
@[simp] theorem State.queue_setContact (s : State) (m : ContactNumber) (c : Contact) (k : Link) : (s.setContact m c).queue k = s.queue k := rfl
@[simp] theorem State.eventsOf_setContact (s : State) (m : ContactNumber) (c : Contact) (k : Link) : (s.setContact m c).eventsOf k = s.eventsOf k := rfl
@[simp] theorem State.window_setContact (s : State) (m : ContactNumber) (c : Contact) (j : Slot) : (s.setContact m c).window j = s.window j := rfl
@[simp] theorem State.stamp_setContact (s : State) (m : ContactNumber) (c : Contact) (j : StampSlot) : (s.setContact m c).stamp j = s.stamp j := rfl

/-! ### setPool -/

@[simp] theorem State.setPool_pending (s : State) (p : Pool) : (s.setPool p).pending = s.pending := rfl
@[simp] theorem State.setPool_resetN (s : State) (p : Pool) : (s.setPool p).resetN = s.resetN := rfl
@[simp] theorem State.setPool_pins (s : State) (p : Pool) : (s.setPool p).pins = s.pins := rfl
@[simp] theorem State.setPool_mem (s : State) (p : Pool) : (s.setPool p).mem = s.mem := rfl
@[simp] theorem State.setPool_pool (s : State) (p : Pool) : (s.setPool p).pool = p := rfl
@[simp] theorem State.setPool_windows (s : State) (p : Pool) : (s.setPool p).windows = s.windows := rfl
@[simp] theorem State.setPool_stack (s : State) (p : Pool) : (s.setPool p).stack = s.stack := rfl
@[simp] theorem State.setPool_scanout (s : State) (p : Pool) : (s.setPool p).scanout = s.scanout := rfl
@[simp] theorem State.setPool_queues (s : State) (p : Pool) : (s.setPool p).queues = s.queues := rfl
@[simp] theorem State.setPool_lastServed (s : State) (p : Pool) : (s.setPool p).lastServed = s.lastServed := rfl
@[simp] theorem State.setPool_engine (s : State) (p : Pool) : (s.setPool p).engine = s.engine := rfl
@[simp] theorem State.setPool_stamps (s : State) (p : Pool) : (s.setPool p).stamps = s.stamps := rfl
@[simp] theorem State.setPool_ownedStamps (s : State) (p : Pool) : (s.setPool p).ownedStamps = s.ownedStamps := rfl
@[simp] theorem State.setPool_contacts (s : State) (p : Pool) : (s.setPool p).contacts = s.contacts := rfl
@[simp] theorem State.setPool_events (s : State) (p : Pool) : (s.setPool p).events = s.events := rfl
@[simp] theorem State.setPool_links (s : State) (p : Pool) : (s.setPool p).links = s.links := rfl

@[simp] theorem State.link_setPool (s : State) (p : Pool) (k : Link) : (s.setPool p).link k = s.link k := rfl
@[simp] theorem State.isUp_setPool (s : State) (p : Pool) (k : Link) : (s.setPool p).isUp k = s.isUp k := rfl
@[simp] theorem State.queue_setPool (s : State) (p : Pool) (k : Link) : (s.setPool p).queue k = s.queue k := rfl
@[simp] theorem State.eventsOf_setPool (s : State) (p : Pool) (k : Link) : (s.setPool p).eventsOf k = s.eventsOf k := rfl
@[simp] theorem State.window_setPool (s : State) (p : Pool) (j : Slot) : (s.setPool p).window j = s.window j := rfl
@[simp] theorem State.stamp_setPool (s : State) (p : Pool) (j : StampSlot) : (s.setPool p).stamp j = s.stamp j := rfl
@[simp] theorem State.contact_setPool (s : State) (p : Pool) (j : ContactNumber) : (s.setPool p).contact j = s.contact j := rfl

/-! ### setStack -/

@[simp] theorem State.setStack_pending (s : State) (x : List Slot) : (s.setStack x).pending = s.pending := rfl
@[simp] theorem State.setStack_resetN (s : State) (x : List Slot) : (s.setStack x).resetN = s.resetN := rfl
@[simp] theorem State.setStack_pins (s : State) (x : List Slot) : (s.setStack x).pins = s.pins := rfl
@[simp] theorem State.setStack_mem (s : State) (x : List Slot) : (s.setStack x).mem = s.mem := rfl
@[simp] theorem State.setStack_pool (s : State) (x : List Slot) : (s.setStack x).pool = s.pool := rfl
@[simp] theorem State.setStack_windows (s : State) (x : List Slot) : (s.setStack x).windows = s.windows := rfl
@[simp] theorem State.setStack_stack (s : State) (x : List Slot) : (s.setStack x).stack = x := rfl
@[simp] theorem State.setStack_scanout (s : State) (x : List Slot) : (s.setStack x).scanout = s.scanout := rfl
@[simp] theorem State.setStack_queues (s : State) (x : List Slot) : (s.setStack x).queues = s.queues := rfl
@[simp] theorem State.setStack_lastServed (s : State) (x : List Slot) : (s.setStack x).lastServed = s.lastServed := rfl
@[simp] theorem State.setStack_engine (s : State) (x : List Slot) : (s.setStack x).engine = s.engine := rfl
@[simp] theorem State.setStack_stamps (s : State) (x : List Slot) : (s.setStack x).stamps = s.stamps := rfl
@[simp] theorem State.setStack_ownedStamps (s : State) (x : List Slot) : (s.setStack x).ownedStamps = s.ownedStamps := rfl
@[simp] theorem State.setStack_contacts (s : State) (x : List Slot) : (s.setStack x).contacts = s.contacts := rfl
@[simp] theorem State.setStack_events (s : State) (x : List Slot) : (s.setStack x).events = s.events := rfl
@[simp] theorem State.setStack_links (s : State) (x : List Slot) : (s.setStack x).links = s.links := rfl

@[simp] theorem State.link_setStack (s : State) (x : List Slot) (k : Link) : (s.setStack x).link k = s.link k := rfl
@[simp] theorem State.isUp_setStack (s : State) (x : List Slot) (k : Link) : (s.setStack x).isUp k = s.isUp k := rfl
@[simp] theorem State.queue_setStack (s : State) (x : List Slot) (k : Link) : (s.setStack x).queue k = s.queue k := rfl
@[simp] theorem State.eventsOf_setStack (s : State) (x : List Slot) (k : Link) : (s.setStack x).eventsOf k = s.eventsOf k := rfl
@[simp] theorem State.window_setStack (s : State) (x : List Slot) (j : Slot) : (s.setStack x).window j = s.window j := rfl
@[simp] theorem State.stamp_setStack (s : State) (x : List Slot) (j : StampSlot) : (s.setStack x).stamp j = s.stamp j := rfl
@[simp] theorem State.contact_setStack (s : State) (x : List Slot) (j : ContactNumber) : (s.setStack x).contact j = s.contact j := rfl

/-! ### setEngine -/

@[simp] theorem State.setEngine_pending (s : State) (e : Option InFlight) : (s.setEngine e).pending = s.pending := rfl
@[simp] theorem State.setEngine_resetN (s : State) (e : Option InFlight) : (s.setEngine e).resetN = s.resetN := rfl
@[simp] theorem State.setEngine_pins (s : State) (e : Option InFlight) : (s.setEngine e).pins = s.pins := rfl
@[simp] theorem State.setEngine_mem (s : State) (e : Option InFlight) : (s.setEngine e).mem = s.mem := rfl
@[simp] theorem State.setEngine_pool (s : State) (e : Option InFlight) : (s.setEngine e).pool = s.pool := rfl
@[simp] theorem State.setEngine_windows (s : State) (e : Option InFlight) : (s.setEngine e).windows = s.windows := rfl
@[simp] theorem State.setEngine_stack (s : State) (e : Option InFlight) : (s.setEngine e).stack = s.stack := rfl
@[simp] theorem State.setEngine_scanout (s : State) (e : Option InFlight) : (s.setEngine e).scanout = s.scanout := rfl
@[simp] theorem State.setEngine_queues (s : State) (e : Option InFlight) : (s.setEngine e).queues = s.queues := rfl
@[simp] theorem State.setEngine_lastServed (s : State) (e : Option InFlight) : (s.setEngine e).lastServed = s.lastServed := rfl
@[simp] theorem State.setEngine_engine (s : State) (e : Option InFlight) : (s.setEngine e).engine = e := rfl
@[simp] theorem State.setEngine_stamps (s : State) (e : Option InFlight) : (s.setEngine e).stamps = s.stamps := rfl
@[simp] theorem State.setEngine_ownedStamps (s : State) (e : Option InFlight) : (s.setEngine e).ownedStamps = s.ownedStamps := rfl
@[simp] theorem State.setEngine_contacts (s : State) (e : Option InFlight) : (s.setEngine e).contacts = s.contacts := rfl
@[simp] theorem State.setEngine_events (s : State) (e : Option InFlight) : (s.setEngine e).events = s.events := rfl
@[simp] theorem State.setEngine_links (s : State) (e : Option InFlight) : (s.setEngine e).links = s.links := rfl

@[simp] theorem State.link_setEngine (s : State) (e : Option InFlight) (k : Link) : (s.setEngine e).link k = s.link k := rfl
@[simp] theorem State.isUp_setEngine (s : State) (e : Option InFlight) (k : Link) : (s.setEngine e).isUp k = s.isUp k := rfl
@[simp] theorem State.queue_setEngine (s : State) (e : Option InFlight) (k : Link) : (s.setEngine e).queue k = s.queue k := rfl
@[simp] theorem State.eventsOf_setEngine (s : State) (e : Option InFlight) (k : Link) : (s.setEngine e).eventsOf k = s.eventsOf k := rfl
@[simp] theorem State.window_setEngine (s : State) (e : Option InFlight) (j : Slot) : (s.setEngine e).window j = s.window j := rfl
@[simp] theorem State.stamp_setEngine (s : State) (e : Option InFlight) (j : StampSlot) : (s.setEngine e).stamp j = s.stamp j := rfl
@[simp] theorem State.contact_setEngine (s : State) (e : Option InFlight) (j : ContactNumber) : (s.setEngine e).contact j = s.contact j := rfl

/-! ### setScanout -/

@[simp] theorem State.setScanout_pending (s : State) (c : Scanout) : (s.setScanout c).pending = s.pending := rfl
@[simp] theorem State.setScanout_resetN (s : State) (c : Scanout) : (s.setScanout c).resetN = s.resetN := rfl
@[simp] theorem State.setScanout_pins (s : State) (c : Scanout) : (s.setScanout c).pins = s.pins := rfl
@[simp] theorem State.setScanout_mem (s : State) (c : Scanout) : (s.setScanout c).mem = s.mem := rfl
@[simp] theorem State.setScanout_pool (s : State) (c : Scanout) : (s.setScanout c).pool = s.pool := rfl
@[simp] theorem State.setScanout_windows (s : State) (c : Scanout) : (s.setScanout c).windows = s.windows := rfl
@[simp] theorem State.setScanout_stack (s : State) (c : Scanout) : (s.setScanout c).stack = s.stack := rfl
@[simp] theorem State.setScanout_scanout (s : State) (c : Scanout) : (s.setScanout c).scanout = c := rfl
@[simp] theorem State.setScanout_queues (s : State) (c : Scanout) : (s.setScanout c).queues = s.queues := rfl
@[simp] theorem State.setScanout_lastServed (s : State) (c : Scanout) : (s.setScanout c).lastServed = s.lastServed := rfl
@[simp] theorem State.setScanout_engine (s : State) (c : Scanout) : (s.setScanout c).engine = s.engine := rfl
@[simp] theorem State.setScanout_stamps (s : State) (c : Scanout) : (s.setScanout c).stamps = s.stamps := rfl
@[simp] theorem State.setScanout_ownedStamps (s : State) (c : Scanout) : (s.setScanout c).ownedStamps = s.ownedStamps := rfl
@[simp] theorem State.setScanout_contacts (s : State) (c : Scanout) : (s.setScanout c).contacts = s.contacts := rfl
@[simp] theorem State.setScanout_events (s : State) (c : Scanout) : (s.setScanout c).events = s.events := rfl
@[simp] theorem State.setScanout_links (s : State) (c : Scanout) : (s.setScanout c).links = s.links := rfl

@[simp] theorem State.link_setScanout (s : State) (c : Scanout) (k : Link) : (s.setScanout c).link k = s.link k := rfl
@[simp] theorem State.isUp_setScanout (s : State) (c : Scanout) (k : Link) : (s.setScanout c).isUp k = s.isUp k := rfl
@[simp] theorem State.queue_setScanout (s : State) (c : Scanout) (k : Link) : (s.setScanout c).queue k = s.queue k := rfl
@[simp] theorem State.eventsOf_setScanout (s : State) (c : Scanout) (k : Link) : (s.setScanout c).eventsOf k = s.eventsOf k := rfl
@[simp] theorem State.window_setScanout (s : State) (c : Scanout) (j : Slot) : (s.setScanout c).window j = s.window j := rfl
@[simp] theorem State.stamp_setScanout (s : State) (c : Scanout) (j : StampSlot) : (s.setScanout c).stamp j = s.stamp j := rfl
@[simp] theorem State.contact_setScanout (s : State) (c : Scanout) (j : ContactNumber) : (s.setScanout c).contact j = s.contact j := rfl

/-! ### setOwned -/

@[simp] theorem State.setOwned_pending (s : State) (l : Link) (n : Nat) : (s.setOwned l n).pending = s.pending := rfl
@[simp] theorem State.setOwned_resetN (s : State) (l : Link) (n : Nat) : (s.setOwned l n).resetN = s.resetN := rfl
@[simp] theorem State.setOwned_pins (s : State) (l : Link) (n : Nat) : (s.setOwned l n).pins = s.pins := rfl
@[simp] theorem State.setOwned_mem (s : State) (l : Link) (n : Nat) : (s.setOwned l n).mem = s.mem := rfl
@[simp] theorem State.setOwned_pool (s : State) (l : Link) (n : Nat) : (s.setOwned l n).pool = s.pool := rfl
@[simp] theorem State.setOwned_windows (s : State) (l : Link) (n : Nat) : (s.setOwned l n).windows = s.windows := rfl
@[simp] theorem State.setOwned_stack (s : State) (l : Link) (n : Nat) : (s.setOwned l n).stack = s.stack := rfl
@[simp] theorem State.setOwned_scanout (s : State) (l : Link) (n : Nat) : (s.setOwned l n).scanout = s.scanout := rfl
@[simp] theorem State.setOwned_queues (s : State) (l : Link) (n : Nat) : (s.setOwned l n).queues = s.queues := rfl
@[simp] theorem State.setOwned_lastServed (s : State) (l : Link) (n : Nat) : (s.setOwned l n).lastServed = s.lastServed := rfl
@[simp] theorem State.setOwned_engine (s : State) (l : Link) (n : Nat) : (s.setOwned l n).engine = s.engine := rfl
@[simp] theorem State.setOwned_stamps (s : State) (l : Link) (n : Nat) : (s.setOwned l n).stamps = s.stamps := rfl
@[simp] theorem State.setOwned_ownedStamps (s : State) (l : Link) (n : Nat) : (s.setOwned l n).ownedStamps = s.ownedStamps.set l n := rfl
@[simp] theorem State.setOwned_contacts (s : State) (l : Link) (n : Nat) : (s.setOwned l n).contacts = s.contacts := rfl
@[simp] theorem State.setOwned_events (s : State) (l : Link) (n : Nat) : (s.setOwned l n).events = s.events := rfl
@[simp] theorem State.setOwned_links (s : State) (l : Link) (n : Nat) : (s.setOwned l n).links = s.links := rfl

@[simp] theorem State.link_setOwned (s : State) (l : Link) (n : Nat) (k : Link) : (s.setOwned l n).link k = s.link k := rfl
@[simp] theorem State.isUp_setOwned (s : State) (l : Link) (n : Nat) (k : Link) : (s.setOwned l n).isUp k = s.isUp k := rfl
@[simp] theorem State.queue_setOwned (s : State) (l : Link) (n : Nat) (k : Link) : (s.setOwned l n).queue k = s.queue k := rfl
@[simp] theorem State.eventsOf_setOwned (s : State) (l : Link) (n : Nat) (k : Link) : (s.setOwned l n).eventsOf k = s.eventsOf k := rfl
@[simp] theorem State.window_setOwned (s : State) (l : Link) (n : Nat) (j : Slot) : (s.setOwned l n).window j = s.window j := rfl
@[simp] theorem State.stamp_setOwned (s : State) (l : Link) (n : Nat) (j : StampSlot) : (s.setOwned l n).stamp j = s.stamp j := rfl
@[simp] theorem State.contact_setOwned (s : State) (l : Link) (n : Nat) (j : ContactNumber) : (s.setOwned l n).contact j = s.contact j := rfl

/-! ### What is read back -/

@[simp] theorem State.link_setLink_self (s : State) (l : Link) (c : LinkCtl) : (s.setLink l c).link l = c :=
  PerLink.get_set_self s.links l c

@[simp] theorem State.link_setLink_ne (s : State) (l k : Link) (c : LinkCtl) (h : k ≠ l) :
    (s.setLink l c).link k = s.link k := PerLink.get_set_ne s.links l k c h

theorem State.link_setLink (s : State) (l k : Link) (c : LinkCtl) :
    (s.setLink l c).link k = if k = l then c else s.link k := PerLink.get_set s.links l k c

@[simp] theorem State.isUp_setLink_self (s : State) (l : Link) (c : LinkCtl) :
    (s.setLink l c).isUp l = decide (c.state = .up) := by simp [State.isUp]

@[simp] theorem State.isUp_setLink_ne (s : State) (l k : Link) (c : LinkCtl) (h : k ≠ l) :
    (s.setLink l c).isUp k = s.isUp k := by simp [State.isUp, h]

@[simp] theorem State.queue_setQueue_self (s : State) (l : Link) (q : JobQueue) : (s.setQueue l q).queue l = q :=
  PerLink.get_set_self s.queues l q

@[simp] theorem State.queue_setQueue_ne (s : State) (l k : Link) (q : JobQueue) (h : k ≠ l) :
    (s.setQueue l q).queue k = s.queue k := PerLink.get_set_ne s.queues l k q h

theorem State.queue_setQueue (s : State) (l k : Link) (q : JobQueue) :
    (s.setQueue l q).queue k = if k = l then q else s.queue k := PerLink.get_set s.queues l k q

@[simp] theorem State.eventsOf_setEvents_self (s : State) (l : Link) (q : EventQueue) : (s.setEvents l q).eventsOf l = q :=
  PerLink.get_set_self s.events l q

@[simp] theorem State.eventsOf_setEvents_ne (s : State) (l k : Link) (q : EventQueue) (h : k ≠ l) :
    (s.setEvents l q).eventsOf k = s.eventsOf k := PerLink.get_set_ne s.events l k q h

theorem State.eventsOf_setEvents (s : State) (l k : Link) (q : EventQueue) :
    (s.setEvents l q).eventsOf k = if k = l then q else s.eventsOf k := PerLink.get_set s.events l k q

@[simp] theorem State.window_setWindow_self (s : State) (i : Slot) (w : Window) : (s.setWindow i w).window i = w := by
  simp [State.window, State.setWindow]

@[simp] theorem State.window_setWindow_ne (s : State) (i j : Slot) (w : Window) (h : j ≠ i) :
    (s.setWindow i w).window j = s.window j := by
  have h' : i.val ≠ j.val := fun e => h (Fin.ext e.symm)
  simp [State.window, State.setWindow, Vector.getElem_set_ne, h']

theorem State.window_setWindow (s : State) (i j : Slot) (w : Window) :
    (s.setWindow i w).window j = if j = i then w else s.window j := by
  split
  · subst_vars; exact State.window_setWindow_self s j w
  · exact State.window_setWindow_ne s i j w (by assumption)

@[simp] theorem State.stamp_setStamp_self (s : State) (i : StampSlot) (x : Stamp) : (s.setStamp i x).stamp i = x := by
  simp [State.stamp, State.setStamp]

@[simp] theorem State.stamp_setStamp_ne (s : State) (i j : StampSlot) (x : Stamp) (h : j ≠ i) :
    (s.setStamp i x).stamp j = s.stamp j := by
  have h' : i.val ≠ j.val := fun e => h (Fin.ext e.symm)
  simp [State.stamp, State.setStamp, Vector.getElem_set_ne, h']

theorem State.stamp_setStamp (s : State) (i j : StampSlot) (x : Stamp) :
    (s.setStamp i x).stamp j = if j = i then x else s.stamp j := by
  split
  · subst_vars; exact State.stamp_setStamp_self s j x
  · exact State.stamp_setStamp_ne s i j x (by assumption)

@[simp] theorem State.contact_setContact_self (s : State) (k : ContactNumber) (c : Contact) :
    (s.setContact k c).contact k = c := by
  simp [State.contact, State.setContact]

@[simp] theorem State.contact_setContact_ne (s : State) (k j : ContactNumber) (c : Contact) (h : j ≠ k) :
    (s.setContact k c).contact j = s.contact j := by
  have h' : k.val ≠ j.val := fun e => h (Fin.ext e.symm)
  simp [State.contact, State.setContact, Vector.getElem_set_ne, h']

theorem State.contact_setContact (s : State) (k j : ContactNumber) (c : Contact) :
    (s.setContact k c).contact j = if j = k then c else s.contact j := by
  split
  · subst_vars; exact State.contact_setContact_self s j c
  · exact State.contact_setContact_ne s k j c (by assumption)

/-! ### Updates of one part, again, and of what is there already -/

@[simp] theorem State.setLink_setLink (s : State) (l : Link) (c d : LinkCtl) :
    (s.setLink l c).setLink l d = s.setLink l d := by simp [State.setLink]

@[simp] theorem State.setLink_link (s : State) (l : Link) : s.setLink l (s.link l) = s := by
  simp [State.setLink, State.link]

@[simp] theorem State.setQueue_setQueue (s : State) (l : Link) (q r : JobQueue) :
    (s.setQueue l q).setQueue l r = s.setQueue l r := by simp [State.setQueue]

@[simp] theorem State.setQueue_queue (s : State) (l : Link) : s.setQueue l (s.queue l) = s := by
  simp [State.setQueue, State.queue]

@[simp] theorem State.setEvents_setEvents (s : State) (l : Link) (q r : EventQueue) :
    (s.setEvents l q).setEvents l r = s.setEvents l r := by simp [State.setEvents]

@[simp] theorem State.setEvents_eventsOf (s : State) (l : Link) : s.setEvents l (s.eventsOf l) = s := by
  simp [State.setEvents, State.eventsOf]

@[simp] theorem State.setWindow_setWindow (s : State) (i : Slot) (w v : Window) :
    (s.setWindow i w).setWindow i v = s.setWindow i v := by simp [State.setWindow]

@[simp] theorem State.setWindow_window (s : State) (i : Slot) : s.setWindow i (s.window i) = s := by
  simp [State.setWindow, State.window]

@[simp] theorem State.setStamp_setStamp (s : State) (i : StampSlot) (x y : Stamp) :
    (s.setStamp i x).setStamp i y = s.setStamp i y := by simp [State.setStamp]

@[simp] theorem State.setStamp_stamp (s : State) (i : StampSlot) : s.setStamp i (s.stamp i) = s := by
  simp [State.setStamp, State.stamp]

@[simp] theorem State.setContact_setContact (s : State) (k : ContactNumber) (c d : Contact) :
    (s.setContact k c).setContact k d = s.setContact k d := by simp [State.setContact]

@[simp] theorem State.setContact_contact (s : State) (k : ContactNumber) : s.setContact k (s.contact k) = s := by
  simp [State.setContact, State.contact]

@[simp] theorem State.setEngine_self (s : State) : s.setEngine s.engine = s := rfl

@[simp] theorem State.setPool_self (s : State) : s.setPool s.pool = s := rfl

@[simp] theorem State.setStack_self (s : State) : s.setStack s.stack = s := rfl

/-! ### Updates of different parts commute -/

theorem State.setLink_setQueue (s : State) (l : Link) (c : LinkCtl) (k : Link) (r : JobQueue) :
    (s.setLink l c).setQueue k r = (s.setQueue k r).setLink l c := rfl
theorem State.setLink_setEvents (s : State) (l : Link) (c : LinkCtl) (k : Link) (r : EventQueue) :
    (s.setLink l c).setEvents k r = (s.setEvents k r).setLink l c := rfl
theorem State.setLink_setWindow (s : State) (l : Link) (c : LinkCtl) (j : Slot) (w2 : Window) :
    (s.setLink l c).setWindow j w2 = (s.setWindow j w2).setLink l c := rfl
theorem State.setLink_setStamp (s : State) (l : Link) (c : LinkCtl) (j : StampSlot) (y : Stamp) :
    (s.setLink l c).setStamp j y = (s.setStamp j y).setLink l c := rfl
theorem State.setLink_setContact (s : State) (l : Link) (c : LinkCtl) (m2 : ContactNumber) (d : Contact) :
    (s.setLink l c).setContact m2 d = (s.setContact m2 d).setLink l c := rfl
theorem State.setLink_setPool (s : State) (l : Link) (c : LinkCtl) (p2 : Pool) :
    (s.setLink l c).setPool p2 = (s.setPool p2).setLink l c := rfl
theorem State.setLink_setStack (s : State) (l : Link) (c : LinkCtl) (y : List Slot) :
    (s.setLink l c).setStack y = (s.setStack y).setLink l c := rfl
theorem State.setLink_setEngine (s : State) (l : Link) (c : LinkCtl) (e2 : Option InFlight) :
    (s.setLink l c).setEngine e2 = (s.setEngine e2).setLink l c := rfl
theorem State.setLink_setScanout (s : State) (l : Link) (c : LinkCtl) (d : Scanout) :
    (s.setLink l c).setScanout d = (s.setScanout d).setLink l c := rfl
theorem State.setLink_setOwned (s : State) (l : Link) (c : LinkCtl) (k : Link) (n2 : Nat) :
    (s.setLink l c).setOwned k n2 = (s.setOwned k n2).setLink l c := rfl
theorem State.setQueue_setEvents (s : State) (l : Link) (q : JobQueue) (k : Link) (r : EventQueue) :
    (s.setQueue l q).setEvents k r = (s.setEvents k r).setQueue l q := rfl
theorem State.setQueue_setWindow (s : State) (l : Link) (q : JobQueue) (j : Slot) (w2 : Window) :
    (s.setQueue l q).setWindow j w2 = (s.setWindow j w2).setQueue l q := rfl
theorem State.setQueue_setStamp (s : State) (l : Link) (q : JobQueue) (j : StampSlot) (y : Stamp) :
    (s.setQueue l q).setStamp j y = (s.setStamp j y).setQueue l q := rfl
theorem State.setQueue_setContact (s : State) (l : Link) (q : JobQueue) (m2 : ContactNumber) (d : Contact) :
    (s.setQueue l q).setContact m2 d = (s.setContact m2 d).setQueue l q := rfl
theorem State.setQueue_setPool (s : State) (l : Link) (q : JobQueue) (p2 : Pool) :
    (s.setQueue l q).setPool p2 = (s.setPool p2).setQueue l q := rfl
theorem State.setQueue_setStack (s : State) (l : Link) (q : JobQueue) (y : List Slot) :
    (s.setQueue l q).setStack y = (s.setStack y).setQueue l q := rfl
theorem State.setQueue_setEngine (s : State) (l : Link) (q : JobQueue) (e2 : Option InFlight) :
    (s.setQueue l q).setEngine e2 = (s.setEngine e2).setQueue l q := rfl
theorem State.setQueue_setScanout (s : State) (l : Link) (q : JobQueue) (d : Scanout) :
    (s.setQueue l q).setScanout d = (s.setScanout d).setQueue l q := rfl
theorem State.setQueue_setOwned (s : State) (l : Link) (q : JobQueue) (k : Link) (n2 : Nat) :
    (s.setQueue l q).setOwned k n2 = (s.setOwned k n2).setQueue l q := rfl
theorem State.setEvents_setWindow (s : State) (l : Link) (q : EventQueue) (j : Slot) (w2 : Window) :
    (s.setEvents l q).setWindow j w2 = (s.setWindow j w2).setEvents l q := rfl
theorem State.setEvents_setStamp (s : State) (l : Link) (q : EventQueue) (j : StampSlot) (y : Stamp) :
    (s.setEvents l q).setStamp j y = (s.setStamp j y).setEvents l q := rfl
theorem State.setEvents_setContact (s : State) (l : Link) (q : EventQueue) (m2 : ContactNumber) (d : Contact) :
    (s.setEvents l q).setContact m2 d = (s.setContact m2 d).setEvents l q := rfl
theorem State.setEvents_setPool (s : State) (l : Link) (q : EventQueue) (p2 : Pool) :
    (s.setEvents l q).setPool p2 = (s.setPool p2).setEvents l q := rfl
theorem State.setEvents_setStack (s : State) (l : Link) (q : EventQueue) (y : List Slot) :
    (s.setEvents l q).setStack y = (s.setStack y).setEvents l q := rfl
theorem State.setEvents_setEngine (s : State) (l : Link) (q : EventQueue) (e2 : Option InFlight) :
    (s.setEvents l q).setEngine e2 = (s.setEngine e2).setEvents l q := rfl
theorem State.setEvents_setScanout (s : State) (l : Link) (q : EventQueue) (d : Scanout) :
    (s.setEvents l q).setScanout d = (s.setScanout d).setEvents l q := rfl
theorem State.setEvents_setOwned (s : State) (l : Link) (q : EventQueue) (k : Link) (n2 : Nat) :
    (s.setEvents l q).setOwned k n2 = (s.setOwned k n2).setEvents l q := rfl
theorem State.setWindow_setStamp (s : State) (i : Slot) (w : Window) (j : StampSlot) (y : Stamp) :
    (s.setWindow i w).setStamp j y = (s.setStamp j y).setWindow i w := rfl
theorem State.setWindow_setContact (s : State) (i : Slot) (w : Window) (m2 : ContactNumber) (d : Contact) :
    (s.setWindow i w).setContact m2 d = (s.setContact m2 d).setWindow i w := rfl
theorem State.setWindow_setPool (s : State) (i : Slot) (w : Window) (p2 : Pool) :
    (s.setWindow i w).setPool p2 = (s.setPool p2).setWindow i w := rfl
theorem State.setWindow_setStack (s : State) (i : Slot) (w : Window) (y : List Slot) :
    (s.setWindow i w).setStack y = (s.setStack y).setWindow i w := rfl
theorem State.setWindow_setEngine (s : State) (i : Slot) (w : Window) (e2 : Option InFlight) :
    (s.setWindow i w).setEngine e2 = (s.setEngine e2).setWindow i w := rfl
theorem State.setWindow_setScanout (s : State) (i : Slot) (w : Window) (d : Scanout) :
    (s.setWindow i w).setScanout d = (s.setScanout d).setWindow i w := rfl
theorem State.setWindow_setOwned (s : State) (i : Slot) (w : Window) (k : Link) (n2 : Nat) :
    (s.setWindow i w).setOwned k n2 = (s.setOwned k n2).setWindow i w := rfl
theorem State.setStamp_setContact (s : State) (i : StampSlot) (x : Stamp) (m2 : ContactNumber) (d : Contact) :
    (s.setStamp i x).setContact m2 d = (s.setContact m2 d).setStamp i x := rfl
theorem State.setStamp_setPool (s : State) (i : StampSlot) (x : Stamp) (p2 : Pool) :
    (s.setStamp i x).setPool p2 = (s.setPool p2).setStamp i x := rfl
theorem State.setStamp_setStack (s : State) (i : StampSlot) (x : Stamp) (y : List Slot) :
    (s.setStamp i x).setStack y = (s.setStack y).setStamp i x := rfl
theorem State.setStamp_setEngine (s : State) (i : StampSlot) (x : Stamp) (e2 : Option InFlight) :
    (s.setStamp i x).setEngine e2 = (s.setEngine e2).setStamp i x := rfl
theorem State.setStamp_setScanout (s : State) (i : StampSlot) (x : Stamp) (d : Scanout) :
    (s.setStamp i x).setScanout d = (s.setScanout d).setStamp i x := rfl
theorem State.setStamp_setOwned (s : State) (i : StampSlot) (x : Stamp) (k : Link) (n2 : Nat) :
    (s.setStamp i x).setOwned k n2 = (s.setOwned k n2).setStamp i x := rfl
theorem State.setContact_setPool (s : State) (m : ContactNumber) (c : Contact) (p2 : Pool) :
    (s.setContact m c).setPool p2 = (s.setPool p2).setContact m c := rfl
theorem State.setContact_setStack (s : State) (m : ContactNumber) (c : Contact) (y : List Slot) :
    (s.setContact m c).setStack y = (s.setStack y).setContact m c := rfl
theorem State.setContact_setEngine (s : State) (m : ContactNumber) (c : Contact) (e2 : Option InFlight) :
    (s.setContact m c).setEngine e2 = (s.setEngine e2).setContact m c := rfl
theorem State.setContact_setScanout (s : State) (m : ContactNumber) (c : Contact) (d : Scanout) :
    (s.setContact m c).setScanout d = (s.setScanout d).setContact m c := rfl
theorem State.setContact_setOwned (s : State) (m : ContactNumber) (c : Contact) (k : Link) (n2 : Nat) :
    (s.setContact m c).setOwned k n2 = (s.setOwned k n2).setContact m c := rfl
theorem State.setPool_setStack (s : State) (p : Pool) (y : List Slot) :
    (s.setPool p).setStack y = (s.setStack y).setPool p := rfl
theorem State.setPool_setEngine (s : State) (p : Pool) (e2 : Option InFlight) :
    (s.setPool p).setEngine e2 = (s.setEngine e2).setPool p := rfl
theorem State.setPool_setScanout (s : State) (p : Pool) (d : Scanout) :
    (s.setPool p).setScanout d = (s.setScanout d).setPool p := rfl
theorem State.setPool_setOwned (s : State) (p : Pool) (k : Link) (n2 : Nat) :
    (s.setPool p).setOwned k n2 = (s.setOwned k n2).setPool p := rfl
theorem State.setStack_setEngine (s : State) (x : List Slot) (e2 : Option InFlight) :
    (s.setStack x).setEngine e2 = (s.setEngine e2).setStack x := rfl
theorem State.setStack_setScanout (s : State) (x : List Slot) (d : Scanout) :
    (s.setStack x).setScanout d = (s.setScanout d).setStack x := rfl
theorem State.setStack_setOwned (s : State) (x : List Slot) (k : Link) (n2 : Nat) :
    (s.setStack x).setOwned k n2 = (s.setOwned k n2).setStack x := rfl
theorem State.setEngine_setScanout (s : State) (e : Option InFlight) (d : Scanout) :
    (s.setEngine e).setScanout d = (s.setScanout d).setEngine e := rfl
theorem State.setEngine_setOwned (s : State) (e : Option InFlight) (k : Link) (n2 : Nat) :
    (s.setEngine e).setOwned k n2 = (s.setOwned k n2).setEngine e := rfl
theorem State.setScanout_setOwned (s : State) (c : Scanout) (k : Link) (n2 : Nat) :
    (s.setScanout c).setOwned k n2 = (s.setOwned k n2).setScanout c := rfl

end Sys2Proof.Machine
end

