-- ==== Sys2Proof/Laws/Frames.lean ====
section
/-! SUPPORT. The frames of the shared operations. For each operation `…_only` says which parts of the state it can change at
all, and the simp lemma `…_frame` says it part by part and reader by reader. -/

namespace Sys2Proof.Machine

open Sys2Proof

/-- Two states with the same parts are the same. -/
theorem State.eq_of_parts {s t : State} (pending : s.pending = t.pending) (resetN : s.resetN = t.resetN)
    (pins : s.pins = t.pins) (mem : s.mem = t.mem) (pool : s.pool = t.pool) (windows : s.windows = t.windows)
    (stack : s.stack = t.stack) (scanout : s.scanout = t.scanout) (queues : s.queues = t.queues)
    (lastServed : s.lastServed = t.lastServed) (engine : s.engine = t.engine) (stamps : s.stamps = t.stamps)
    (ownedStamps : s.ownedStamps = t.ownedStamps) (contacts : s.contacts = t.contacts) (events : s.events = t.events)
    (links : s.links = t.links) : s = t := by
  cases s
  cases t
  simp_all

/-- A change of what `K` puts back, after another such change. -/
theorem only_trans (K : State → State → State) (absorbs : ∀ a b c, K (K a b) c = K a c) {s t u : State} (hu : K u t = t)
    (ht : K t s = s) : K u s = s := by
  rw [← absorbs u t s, hu, ht]

/-- A fold whose steps change only what `K` puts back changes only that. -/
theorem foldl_only {α : Type} (K : State → State → State) (absorbs : ∀ a b c, K (K a b) c = K a c) (f : State → α → State)
    (h : ∀ t x, K (f t x) t = t) (xs : List α) {b s : State} (hb : K b s = s) : K (xs.foldl f b) s = s := by
  induction xs generalizing b with
  | nil => exact hb
  | cons x xs ih => exact ih (only_trans K absorbs (h b x) hb)

theorem State.handReserved_only (s : State) (l : Link) (e : Event) :
    { s.handReserved l e with events := s.events } = s := by
  unfold State.handReserved
  apply State.eq_of_parts <;> first | with_reducible rfl | ((repeat' split) <;> simp)

@[simp] theorem State.handReserved_frame (s : State) (l : Link) (e : Event) :
    (s.handReserved l e).pending = s.pending ∧ (s.handReserved l e).resetN = s.resetN ∧
    (s.handReserved l e).pins = s.pins ∧ (s.handReserved l e).mem = s.mem ∧ (s.handReserved l e).pool = s.pool ∧
    (s.handReserved l e).windows = s.windows ∧ (s.handReserved l e).stack = s.stack ∧
    (s.handReserved l e).scanout = s.scanout ∧ (s.handReserved l e).queues = s.queues ∧
    (s.handReserved l e).lastServed = s.lastServed ∧ (s.handReserved l e).engine = s.engine ∧
    (s.handReserved l e).stamps = s.stamps ∧ (s.handReserved l e).ownedStamps = s.ownedStamps ∧
    (s.handReserved l e).contacts = s.contacts ∧ (s.handReserved l e).links = s.links ∧
    (∀ k, (s.handReserved l e).link k = s.link k) ∧ (∀ k, (s.handReserved l e).isUp k = s.isUp k) ∧
    (∀ k, (s.handReserved l e).queue k = s.queue k) ∧ (∀ j, (s.handReserved l e).window j = s.window j) ∧
    (∀ j, (s.handReserved l e).stamp j = s.stamp j) ∧ (∀ j, (s.handReserved l e).contact j = s.contact j) := by
  have only := s.handReserved_only l e
  generalize s.handReserved l e = t at only ⊢
  exact ⟨(congrArg State.pending only :), (congrArg State.resetN only :), (congrArg State.pins only :),
    (congrArg State.mem only :), (congrArg State.pool only :), (congrArg State.windows only :),
    (congrArg State.stack only :), (congrArg State.scanout only :), (congrArg State.queues only :),
    (congrArg State.lastServed only :), (congrArg State.engine only :), (congrArg State.stamps only :),
    (congrArg State.ownedStamps only :), (congrArg State.contacts only :), (congrArg State.links only :),
    fun k => (congrArg (fun u : State => u.link k) only :), fun k => (congrArg (fun u : State => u.isUp k) only :),
    fun k => (congrArg (fun u : State => u.queue k) only :),
    fun j => (congrArg (fun u : State => u.window j) only :),
    fun j => (congrArg (fun u : State => u.stamp j) only :),
    fun j => (congrArg (fun u : State => u.contact j) only :)⟩

theorem State.handSilent_only (s : State) (l : Link) :
    { s.handSilent l with events := s.events } = s := by
  unfold State.handSilent
  apply State.eq_of_parts <;> first | with_reducible rfl | ((repeat' split) <;> simp)

@[simp] theorem State.handSilent_frame (s : State) (l : Link) :
    (s.handSilent l).pending = s.pending ∧ (s.handSilent l).resetN = s.resetN ∧ (s.handSilent l).pins = s.pins ∧
    (s.handSilent l).mem = s.mem ∧ (s.handSilent l).pool = s.pool ∧ (s.handSilent l).windows = s.windows ∧
    (s.handSilent l).stack = s.stack ∧ (s.handSilent l).scanout = s.scanout ∧ (s.handSilent l).queues = s.queues ∧
    (s.handSilent l).lastServed = s.lastServed ∧ (s.handSilent l).engine = s.engine ∧
    (s.handSilent l).stamps = s.stamps ∧ (s.handSilent l).ownedStamps = s.ownedStamps ∧
    (s.handSilent l).contacts = s.contacts ∧ (s.handSilent l).links = s.links ∧
    (∀ k, (s.handSilent l).link k = s.link k) ∧ (∀ k, (s.handSilent l).isUp k = s.isUp k) ∧
    (∀ k, (s.handSilent l).queue k = s.queue k) ∧ (∀ j, (s.handSilent l).window j = s.window j) ∧
    (∀ j, (s.handSilent l).stamp j = s.stamp j) ∧ (∀ j, (s.handSilent l).contact j = s.contact j) := by
  have only := s.handSilent_only l
  generalize s.handSilent l = t at only ⊢
  exact ⟨(congrArg State.pending only :), (congrArg State.resetN only :), (congrArg State.pins only :),
    (congrArg State.mem only :), (congrArg State.pool only :), (congrArg State.windows only :),
    (congrArg State.stack only :), (congrArg State.scanout only :), (congrArg State.queues only :),
    (congrArg State.lastServed only :), (congrArg State.engine only :), (congrArg State.stamps only :),
    (congrArg State.ownedStamps only :), (congrArg State.contacts only :), (congrArg State.links only :),
    fun k => (congrArg (fun u : State => u.link k) only :), fun k => (congrArg (fun u : State => u.isUp k) only :),
    fun k => (congrArg (fun u : State => u.queue k) only :),
    fun j => (congrArg (fun u : State => u.window j) only :),
    fun j => (congrArg (fun u : State => u.stamp j) only :),
    fun j => (congrArg (fun u : State => u.contact j) only :)⟩

theorem State.handUnreserved_only (s : State) (l : Link) (e : Event) :
    { s.handUnreserved l e with events := s.events } = s := by
  unfold State.handUnreserved
  apply State.eq_of_parts <;> first | with_reducible rfl | ((repeat' split) <;> simp)

@[simp] theorem State.handUnreserved_frame (s : State) (l : Link) (e : Event) :
    (s.handUnreserved l e).pending = s.pending ∧ (s.handUnreserved l e).resetN = s.resetN ∧
    (s.handUnreserved l e).pins = s.pins ∧ (s.handUnreserved l e).mem = s.mem ∧
    (s.handUnreserved l e).pool = s.pool ∧ (s.handUnreserved l e).windows = s.windows ∧
    (s.handUnreserved l e).stack = s.stack ∧ (s.handUnreserved l e).scanout = s.scanout ∧
    (s.handUnreserved l e).queues = s.queues ∧ (s.handUnreserved l e).lastServed = s.lastServed ∧
    (s.handUnreserved l e).engine = s.engine ∧ (s.handUnreserved l e).stamps = s.stamps ∧
    (s.handUnreserved l e).ownedStamps = s.ownedStamps ∧ (s.handUnreserved l e).contacts = s.contacts ∧
    (s.handUnreserved l e).links = s.links ∧ (∀ k, (s.handUnreserved l e).link k = s.link k) ∧
    (∀ k, (s.handUnreserved l e).isUp k = s.isUp k) ∧ (∀ k, (s.handUnreserved l e).queue k = s.queue k) ∧
    (∀ j, (s.handUnreserved l e).window j = s.window j) ∧ (∀ j, (s.handUnreserved l e).stamp j = s.stamp j) ∧
    (∀ j, (s.handUnreserved l e).contact j = s.contact j) := by
  have only := s.handUnreserved_only l e
  generalize s.handUnreserved l e = t at only ⊢
  exact ⟨(congrArg State.pending only :), (congrArg State.resetN only :), (congrArg State.pins only :),
    (congrArg State.mem only :), (congrArg State.pool only :), (congrArg State.windows only :),
    (congrArg State.stack only :), (congrArg State.scanout only :), (congrArg State.queues only :),
    (congrArg State.lastServed only :), (congrArg State.engine only :), (congrArg State.stamps only :),
    (congrArg State.ownedStamps only :), (congrArg State.contacts only :), (congrArg State.links only :),
    fun k => (congrArg (fun u : State => u.link k) only :), fun k => (congrArg (fun u : State => u.isUp k) only :),
    fun k => (congrArg (fun u : State => u.queue k) only :),
    fun j => (congrArg (fun u : State => u.window j) only :),
    fun j => (congrArg (fun u : State => u.stamp j) only :),
    fun j => (congrArg (fun u : State => u.contact j) only :)⟩

theorem State.takeReservation_only (s : State) (l : Link) :
    { s.takeReservation l with events := s.events } = s := by
  unfold State.takeReservation
  apply State.eq_of_parts <;> first | with_reducible rfl | simp

@[simp] theorem State.takeReservation_frame (s : State) (l : Link) :
    (s.takeReservation l).pending = s.pending ∧ (s.takeReservation l).resetN = s.resetN ∧
    (s.takeReservation l).pins = s.pins ∧ (s.takeReservation l).mem = s.mem ∧ (s.takeReservation l).pool = s.pool ∧
    (s.takeReservation l).windows = s.windows ∧ (s.takeReservation l).stack = s.stack ∧
    (s.takeReservation l).scanout = s.scanout ∧ (s.takeReservation l).queues = s.queues ∧
    (s.takeReservation l).lastServed = s.lastServed ∧ (s.takeReservation l).engine = s.engine ∧
    (s.takeReservation l).stamps = s.stamps ∧ (s.takeReservation l).ownedStamps = s.ownedStamps ∧
    (s.takeReservation l).contacts = s.contacts ∧ (s.takeReservation l).links = s.links ∧
    (∀ k, (s.takeReservation l).link k = s.link k) ∧ (∀ k, (s.takeReservation l).isUp k = s.isUp k) ∧
    (∀ k, (s.takeReservation l).queue k = s.queue k) ∧ (∀ j, (s.takeReservation l).window j = s.window j) ∧
    (∀ j, (s.takeReservation l).stamp j = s.stamp j) ∧ (∀ j, (s.takeReservation l).contact j = s.contact j) := by
  have only := s.takeReservation_only l
  generalize s.takeReservation l = t at only ⊢
  exact ⟨(congrArg State.pending only :), (congrArg State.resetN only :), (congrArg State.pins only :),
    (congrArg State.mem only :), (congrArg State.pool only :), (congrArg State.windows only :),
    (congrArg State.stack only :), (congrArg State.scanout only :), (congrArg State.queues only :),
    (congrArg State.lastServed only :), (congrArg State.engine only :), (congrArg State.stamps only :),
    (congrArg State.ownedStamps only :), (congrArg State.contacts only :), (congrArg State.links only :),
    fun k => (congrArg (fun u : State => u.link k) only :), fun k => (congrArg (fun u : State => u.isUp k) only :),
    fun k => (congrArg (fun u : State => u.queue k) only :),
    fun j => (congrArg (fun u : State => u.window j) only :),
    fun j => (congrArg (fun u : State => u.stamp j) only :),
    fun j => (congrArg (fun u : State => u.contact j) only :)⟩

theorem State.takeReference_only (s : State) (h : StampHandle) :
    { s.takeReference h with stamps := s.stamps } = s := by
  unfold State.takeReference
  apply State.eq_of_parts <;> first | with_reducible rfl | simp

@[simp] theorem State.takeReference_frame (s : State) (h : StampHandle) :
    (s.takeReference h).pending = s.pending ∧ (s.takeReference h).resetN = s.resetN ∧
    (s.takeReference h).pins = s.pins ∧ (s.takeReference h).mem = s.mem ∧ (s.takeReference h).pool = s.pool ∧
    (s.takeReference h).windows = s.windows ∧ (s.takeReference h).stack = s.stack ∧
    (s.takeReference h).scanout = s.scanout ∧ (s.takeReference h).queues = s.queues ∧
    (s.takeReference h).lastServed = s.lastServed ∧ (s.takeReference h).engine = s.engine ∧
    (s.takeReference h).ownedStamps = s.ownedStamps ∧ (s.takeReference h).contacts = s.contacts ∧
    (s.takeReference h).events = s.events ∧ (s.takeReference h).links = s.links ∧
    (∀ k, (s.takeReference h).link k = s.link k) ∧ (∀ k, (s.takeReference h).isUp k = s.isUp k) ∧
    (∀ k, (s.takeReference h).queue k = s.queue k) ∧ (∀ k, (s.takeReference h).eventsOf k = s.eventsOf k) ∧
    (∀ j, (s.takeReference h).window j = s.window j) ∧ (∀ j, (s.takeReference h).contact j = s.contact j) := by
  have only := s.takeReference_only h
  generalize s.takeReference h = t at only ⊢
  exact ⟨(congrArg State.pending only :), (congrArg State.resetN only :), (congrArg State.pins only :),
    (congrArg State.mem only :), (congrArg State.pool only :), (congrArg State.windows only :),
    (congrArg State.stack only :), (congrArg State.scanout only :), (congrArg State.queues only :),
    (congrArg State.lastServed only :), (congrArg State.engine only :), (congrArg State.ownedStamps only :),
    (congrArg State.contacts only :), (congrArg State.events only :), (congrArg State.links only :),
    fun k => (congrArg (fun u : State => u.link k) only :), fun k => (congrArg (fun u : State => u.isUp k) only :),
    fun k => (congrArg (fun u : State => u.queue k) only :),
    fun k => (congrArg (fun u : State => u.eventsOf k) only :),
    fun j => (congrArg (fun u : State => u.window j) only :),
    fun j => (congrArg (fun u : State => u.contact j) only :)⟩

theorem State.endRetirement_only (s : State) (i : StampSlot) :
    { s.endRetirement i with stamps := s.stamps, ownedStamps := s.ownedStamps, events := s.events } = s := by
  unfold State.endRetirement
  apply State.eq_of_parts <;> first | with_reducible rfl | (dsimp only; (repeat' split) <;> simp)

@[simp] theorem State.endRetirement_frame (s : State) (i : StampSlot) :
    (s.endRetirement i).pending = s.pending ∧ (s.endRetirement i).resetN = s.resetN ∧
    (s.endRetirement i).pins = s.pins ∧ (s.endRetirement i).mem = s.mem ∧ (s.endRetirement i).pool = s.pool ∧
    (s.endRetirement i).windows = s.windows ∧ (s.endRetirement i).stack = s.stack ∧
    (s.endRetirement i).scanout = s.scanout ∧ (s.endRetirement i).queues = s.queues ∧
    (s.endRetirement i).lastServed = s.lastServed ∧ (s.endRetirement i).engine = s.engine ∧
    (s.endRetirement i).contacts = s.contacts ∧ (s.endRetirement i).links = s.links ∧
    (∀ k, (s.endRetirement i).link k = s.link k) ∧ (∀ k, (s.endRetirement i).isUp k = s.isUp k) ∧
    (∀ k, (s.endRetirement i).queue k = s.queue k) ∧ (∀ j, (s.endRetirement i).window j = s.window j) ∧
    (∀ j, (s.endRetirement i).contact j = s.contact j) := by
  have only := s.endRetirement_only i
  generalize s.endRetirement i = t at only ⊢
  exact ⟨(congrArg State.pending only :), (congrArg State.resetN only :), (congrArg State.pins only :),
    (congrArg State.mem only :), (congrArg State.pool only :), (congrArg State.windows only :),
    (congrArg State.stack only :), (congrArg State.scanout only :), (congrArg State.queues only :),
    (congrArg State.lastServed only :), (congrArg State.engine only :), (congrArg State.contacts only :),
    (congrArg State.links only :), fun k => (congrArg (fun u : State => u.link k) only :),
    fun k => (congrArg (fun u : State => u.isUp k) only :), fun k => (congrArg (fun u : State => u.queue k) only :),
    fun j => (congrArg (fun u : State => u.window j) only :),
    fun j => (congrArg (fun u : State => u.contact j) only :)⟩

theorem State.releaseReference_only (s : State) (h : StampHandle) :
    { s.releaseReference h with stamps := s.stamps, ownedStamps := s.ownedStamps, events := s.events } = s := by
  unfold State.releaseReference
  apply State.eq_of_parts <;> first | with_reducible rfl | (dsimp only; (repeat' split) <;> simp)

@[simp] theorem State.releaseReference_frame (s : State) (h : StampHandle) :
    (s.releaseReference h).pending = s.pending ∧ (s.releaseReference h).resetN = s.resetN ∧
    (s.releaseReference h).pins = s.pins ∧ (s.releaseReference h).mem = s.mem ∧
    (s.releaseReference h).pool = s.pool ∧ (s.releaseReference h).windows = s.windows ∧
    (s.releaseReference h).stack = s.stack ∧ (s.releaseReference h).scanout = s.scanout ∧
    (s.releaseReference h).queues = s.queues ∧ (s.releaseReference h).lastServed = s.lastServed ∧
    (s.releaseReference h).engine = s.engine ∧ (s.releaseReference h).contacts = s.contacts ∧
    (s.releaseReference h).links = s.links ∧ (∀ k, (s.releaseReference h).link k = s.link k) ∧
    (∀ k, (s.releaseReference h).isUp k = s.isUp k) ∧ (∀ k, (s.releaseReference h).queue k = s.queue k) ∧
    (∀ j, (s.releaseReference h).window j = s.window j) ∧ (∀ j, (s.releaseReference h).contact j = s.contact j) := by
  have only := s.releaseReference_only h
  generalize s.releaseReference h = t at only ⊢
  exact ⟨(congrArg State.pending only :), (congrArg State.resetN only :), (congrArg State.pins only :),
    (congrArg State.mem only :), (congrArg State.pool only :), (congrArg State.windows only :),
    (congrArg State.stack only :), (congrArg State.scanout only :), (congrArg State.queues only :),
    (congrArg State.lastServed only :), (congrArg State.engine only :), (congrArg State.contacts only :),
    (congrArg State.links only :), fun k => (congrArg (fun u : State => u.link k) only :),
    fun k => (congrArg (fun u : State => u.isUp k) only :), fun k => (congrArg (fun u : State => u.queue k) only :),
    fun j => (congrArg (fun u : State => u.window j) only :),
    fun j => (congrArg (fun u : State => u.contact j) only :)⟩

theorem State.releaseStampOf_only (s : State) (j : Job) :
    { s.releaseStampOf j with stamps := s.stamps, ownedStamps := s.ownedStamps, events := s.events } = s := by
  unfold State.releaseStampOf
  apply State.eq_of_parts <;> first | with_reducible rfl | ((repeat' split) <;> simp)

@[simp] theorem State.releaseStampOf_frame (s : State) (j : Job) :
    (s.releaseStampOf j).pending = s.pending ∧ (s.releaseStampOf j).resetN = s.resetN ∧
    (s.releaseStampOf j).pins = s.pins ∧ (s.releaseStampOf j).mem = s.mem ∧ (s.releaseStampOf j).pool = s.pool ∧
    (s.releaseStampOf j).windows = s.windows ∧ (s.releaseStampOf j).stack = s.stack ∧
    (s.releaseStampOf j).scanout = s.scanout ∧ (s.releaseStampOf j).queues = s.queues ∧
    (s.releaseStampOf j).lastServed = s.lastServed ∧ (s.releaseStampOf j).engine = s.engine ∧
    (s.releaseStampOf j).contacts = s.contacts ∧ (s.releaseStampOf j).links = s.links ∧
    (∀ k, (s.releaseStampOf j).link k = s.link k) ∧ (∀ k, (s.releaseStampOf j).isUp k = s.isUp k) ∧
    (∀ k, (s.releaseStampOf j).queue k = s.queue k) ∧ (∀ j', (s.releaseStampOf j).window j' = s.window j') ∧
    (∀ j', (s.releaseStampOf j).contact j' = s.contact j') := by
  have only := s.releaseStampOf_only j
  generalize s.releaseStampOf j = t at only ⊢
  exact ⟨(congrArg State.pending only :), (congrArg State.resetN only :), (congrArg State.pins only :),
    (congrArg State.mem only :), (congrArg State.pool only :), (congrArg State.windows only :),
    (congrArg State.stack only :), (congrArg State.scanout only :), (congrArg State.queues only :),
    (congrArg State.lastServed only :), (congrArg State.engine only :), (congrArg State.contacts only :),
    (congrArg State.links only :), fun k => (congrArg (fun u : State => u.link k) only :),
    fun k => (congrArg (fun u : State => u.isUp k) only :), fun k => (congrArg (fun u : State => u.queue k) only :),
    fun j' => (congrArg (fun u : State => u.window j') only :),
    fun j' => (congrArg (fun u : State => u.contact j') only :)⟩

theorem State.foldl_releaseStampOf_only (s : State) (js : List Job) :
    { js.foldl State.releaseStampOf s with
        stamps := s.stamps, ownedStamps := s.ownedStamps, events := s.events } = s := by
  exact foldl_only (fun a b => { a with stamps := b.stamps, ownedStamps := b.ownedStamps, events := b.events })
    (fun _ _ _ => rfl) State.releaseStampOf State.releaseStampOf_only js rfl

@[simp] theorem State.foldl_releaseStampOf_frame (s : State) (js : List Job) :
    (js.foldl State.releaseStampOf s).pending = s.pending ∧ (js.foldl State.releaseStampOf s).resetN = s.resetN ∧
    (js.foldl State.releaseStampOf s).pins = s.pins ∧ (js.foldl State.releaseStampOf s).mem = s.mem ∧
    (js.foldl State.releaseStampOf s).pool = s.pool ∧ (js.foldl State.releaseStampOf s).windows = s.windows ∧
    (js.foldl State.releaseStampOf s).stack = s.stack ∧ (js.foldl State.releaseStampOf s).scanout = s.scanout ∧
    (js.foldl State.releaseStampOf s).queues = s.queues ∧
    (js.foldl State.releaseStampOf s).lastServed = s.lastServed ∧
    (js.foldl State.releaseStampOf s).engine = s.engine ∧ (js.foldl State.releaseStampOf s).contacts = s.contacts ∧
    (js.foldl State.releaseStampOf s).links = s.links ∧ (∀ k, (js.foldl State.releaseStampOf s).link k = s.link k) ∧
    (∀ k, (js.foldl State.releaseStampOf s).isUp k = s.isUp k) ∧
    (∀ k, (js.foldl State.releaseStampOf s).queue k = s.queue k) ∧
    (∀ j, (js.foldl State.releaseStampOf s).window j = s.window j) ∧
    (∀ j, (js.foldl State.releaseStampOf s).contact j = s.contact j) := by
  have only := s.foldl_releaseStampOf_only js
  generalize js.foldl State.releaseStampOf s = t at only ⊢
  exact ⟨(congrArg State.pending only :), (congrArg State.resetN only :), (congrArg State.pins only :),
    (congrArg State.mem only :), (congrArg State.pool only :), (congrArg State.windows only :),
    (congrArg State.stack only :), (congrArg State.scanout only :), (congrArg State.queues only :),
    (congrArg State.lastServed only :), (congrArg State.engine only :), (congrArg State.contacts only :),
    (congrArg State.links only :), fun k => (congrArg (fun u : State => u.link k) only :),
    fun k => (congrArg (fun u : State => u.isUp k) only :), fun k => (congrArg (fun u : State => u.queue k) only :),
    fun j => (congrArg (fun u : State => u.window j) only :),
    fun j => (congrArg (fun u : State => u.contact j) only :)⟩

theorem State.orphanStamps_only (s : State) (l : Link) :
    { s.orphanStamps l with stamps := s.stamps, ownedStamps := s.ownedStamps } = s := by
  rfl

@[simp] theorem State.orphanStamps_frame (s : State) (l : Link) :
    (s.orphanStamps l).pending = s.pending ∧ (s.orphanStamps l).resetN = s.resetN ∧
    (s.orphanStamps l).pins = s.pins ∧ (s.orphanStamps l).mem = s.mem ∧ (s.orphanStamps l).pool = s.pool ∧
    (s.orphanStamps l).windows = s.windows ∧ (s.orphanStamps l).stack = s.stack ∧
    (s.orphanStamps l).scanout = s.scanout ∧ (s.orphanStamps l).queues = s.queues ∧
    (s.orphanStamps l).lastServed = s.lastServed ∧ (s.orphanStamps l).engine = s.engine ∧
    (s.orphanStamps l).contacts = s.contacts ∧ (s.orphanStamps l).events = s.events ∧
    (s.orphanStamps l).links = s.links ∧ (∀ k, (s.orphanStamps l).link k = s.link k) ∧
    (∀ k, (s.orphanStamps l).isUp k = s.isUp k) ∧ (∀ k, (s.orphanStamps l).queue k = s.queue k) ∧
    (∀ k, (s.orphanStamps l).eventsOf k = s.eventsOf k) ∧ (∀ j, (s.orphanStamps l).window j = s.window j) ∧
    (∀ j, (s.orphanStamps l).contact j = s.contact j) := by
  have only := s.orphanStamps_only l
  generalize s.orphanStamps l = t at only ⊢
  exact ⟨(congrArg State.pending only :), (congrArg State.resetN only :), (congrArg State.pins only :),
    (congrArg State.mem only :), (congrArg State.pool only :), (congrArg State.windows only :),
    (congrArg State.stack only :), (congrArg State.scanout only :), (congrArg State.queues only :),
    (congrArg State.lastServed only :), (congrArg State.engine only :), (congrArg State.contacts only :),
    (congrArg State.events only :), (congrArg State.links only :),
    fun k => (congrArg (fun u : State => u.link k) only :), fun k => (congrArg (fun u : State => u.isUp k) only :),
    fun k => (congrArg (fun u : State => u.queue k) only :),
    fun k => (congrArg (fun u : State => u.eventsOf k) only :),
    fun j => (congrArg (fun u : State => u.window j) only :),
    fun j => (congrArg (fun u : State => u.contact j) only :)⟩

theorem State.handTouch_only (s : State) (kind : TouchKind) (k : ContactNumber) (h : Handle) (p : Pos) :
    { s.handTouch kind k h p with events := s.events } = s := by
  unfold State.handTouch
  apply State.eq_of_parts <;> first | with_reducible rfl | ((repeat' split) <;> simp)

@[simp] theorem State.handTouch_frame (s : State) (kind : TouchKind) (k : ContactNumber) (h : Handle) (p : Pos) :
    (s.handTouch kind k h p).pending = s.pending ∧ (s.handTouch kind k h p).resetN = s.resetN ∧
    (s.handTouch kind k h p).pins = s.pins ∧ (s.handTouch kind k h p).mem = s.mem ∧
    (s.handTouch kind k h p).pool = s.pool ∧ (s.handTouch kind k h p).windows = s.windows ∧
    (s.handTouch kind k h p).stack = s.stack ∧ (s.handTouch kind k h p).scanout = s.scanout ∧
    (s.handTouch kind k h p).queues = s.queues ∧ (s.handTouch kind k h p).lastServed = s.lastServed ∧
    (s.handTouch kind k h p).engine = s.engine ∧ (s.handTouch kind k h p).stamps = s.stamps ∧
    (s.handTouch kind k h p).ownedStamps = s.ownedStamps ∧ (s.handTouch kind k h p).contacts = s.contacts ∧
    (s.handTouch kind k h p).links = s.links ∧ (∀ k', (s.handTouch kind k h p).link k' = s.link k') ∧
    (∀ k', (s.handTouch kind k h p).isUp k' = s.isUp k') ∧ (∀ k', (s.handTouch kind k h p).queue k' = s.queue k') ∧
    (∀ j, (s.handTouch kind k h p).window j = s.window j) ∧ (∀ j, (s.handTouch kind k h p).stamp j = s.stamp j) ∧
    (∀ j, (s.handTouch kind k h p).contact j = s.contact j) := by
  have only := s.handTouch_only kind k h p
  generalize s.handTouch kind k h p = t at only ⊢
  exact ⟨(congrArg State.pending only :), (congrArg State.resetN only :), (congrArg State.pins only :),
    (congrArg State.mem only :), (congrArg State.pool only :), (congrArg State.windows only :),
    (congrArg State.stack only :), (congrArg State.scanout only :), (congrArg State.queues only :),
    (congrArg State.lastServed only :), (congrArg State.engine only :), (congrArg State.stamps only :),
    (congrArg State.ownedStamps only :), (congrArg State.contacts only :), (congrArg State.links only :),
    fun k' => (congrArg (fun u : State => u.link k') only :),
    fun k' => (congrArg (fun u : State => u.isUp k') only :),
    fun k' => (congrArg (fun u : State => u.queue k') only :),
    fun j => (congrArg (fun u : State => u.window j) only :),
    fun j => (congrArg (fun u : State => u.stamp j) only :),
    fun j => (congrArg (fun u : State => u.contact j) only :)⟩

theorem State.contactDown_only (s : State) (k : ContactNumber) (p : Pos) :
    { s.contactDown k p with contacts := s.contacts, events := s.events } = s := by
  unfold State.contactDown
  apply State.eq_of_parts <;> first | with_reducible rfl | ((repeat' split) <;> simp)

@[simp] theorem State.contactDown_frame (s : State) (k : ContactNumber) (p : Pos) :
    (s.contactDown k p).pending = s.pending ∧ (s.contactDown k p).resetN = s.resetN ∧
    (s.contactDown k p).pins = s.pins ∧ (s.contactDown k p).mem = s.mem ∧ (s.contactDown k p).pool = s.pool ∧
    (s.contactDown k p).windows = s.windows ∧ (s.contactDown k p).stack = s.stack ∧
    (s.contactDown k p).scanout = s.scanout ∧ (s.contactDown k p).queues = s.queues ∧
    (s.contactDown k p).lastServed = s.lastServed ∧ (s.contactDown k p).engine = s.engine ∧
    (s.contactDown k p).stamps = s.stamps ∧ (s.contactDown k p).ownedStamps = s.ownedStamps ∧
    (s.contactDown k p).links = s.links ∧ (∀ k', (s.contactDown k p).link k' = s.link k') ∧
    (∀ k', (s.contactDown k p).isUp k' = s.isUp k') ∧ (∀ k', (s.contactDown k p).queue k' = s.queue k') ∧
    (∀ j, (s.contactDown k p).window j = s.window j) ∧ (∀ j, (s.contactDown k p).stamp j = s.stamp j) := by
  have only := s.contactDown_only k p
  generalize s.contactDown k p = t at only ⊢
  exact ⟨(congrArg State.pending only :), (congrArg State.resetN only :), (congrArg State.pins only :),
    (congrArg State.mem only :), (congrArg State.pool only :), (congrArg State.windows only :),
    (congrArg State.stack only :), (congrArg State.scanout only :), (congrArg State.queues only :),
    (congrArg State.lastServed only :), (congrArg State.engine only :), (congrArg State.stamps only :),
    (congrArg State.ownedStamps only :), (congrArg State.links only :),
    fun k' => (congrArg (fun u : State => u.link k') only :),
    fun k' => (congrArg (fun u : State => u.isUp k') only :),
    fun k' => (congrArg (fun u : State => u.queue k') only :),
    fun j => (congrArg (fun u : State => u.window j) only :), fun j => (congrArg (fun u : State => u.stamp j) only :)⟩

theorem State.contactMove_only (s : State) (k : ContactNumber) (h : Handle) (p : Pos) :
    { s.contactMove k h p with contacts := s.contacts, events := s.events } = s := by
  unfold State.contactMove
  apply State.eq_of_parts <;> first | with_reducible rfl | (dsimp only; (repeat' split) <;> simp)

@[simp] theorem State.contactMove_frame (s : State) (k : ContactNumber) (h : Handle) (p : Pos) :
    (s.contactMove k h p).pending = s.pending ∧ (s.contactMove k h p).resetN = s.resetN ∧
    (s.contactMove k h p).pins = s.pins ∧ (s.contactMove k h p).mem = s.mem ∧ (s.contactMove k h p).pool = s.pool ∧
    (s.contactMove k h p).windows = s.windows ∧ (s.contactMove k h p).stack = s.stack ∧
    (s.contactMove k h p).scanout = s.scanout ∧ (s.contactMove k h p).queues = s.queues ∧
    (s.contactMove k h p).lastServed = s.lastServed ∧ (s.contactMove k h p).engine = s.engine ∧
    (s.contactMove k h p).stamps = s.stamps ∧ (s.contactMove k h p).ownedStamps = s.ownedStamps ∧
    (s.contactMove k h p).links = s.links ∧ (∀ k', (s.contactMove k h p).link k' = s.link k') ∧
    (∀ k', (s.contactMove k h p).isUp k' = s.isUp k') ∧ (∀ k', (s.contactMove k h p).queue k' = s.queue k') ∧
    (∀ j, (s.contactMove k h p).window j = s.window j) ∧ (∀ j, (s.contactMove k h p).stamp j = s.stamp j) := by
  have only := s.contactMove_only k h p
  generalize s.contactMove k h p = t at only ⊢
  exact ⟨(congrArg State.pending only :), (congrArg State.resetN only :), (congrArg State.pins only :),
    (congrArg State.mem only :), (congrArg State.pool only :), (congrArg State.windows only :),
    (congrArg State.stack only :), (congrArg State.scanout only :), (congrArg State.queues only :),
    (congrArg State.lastServed only :), (congrArg State.engine only :), (congrArg State.stamps only :),
    (congrArg State.ownedStamps only :), (congrArg State.links only :),
    fun k' => (congrArg (fun u : State => u.link k') only :),
    fun k' => (congrArg (fun u : State => u.isUp k') only :),
    fun k' => (congrArg (fun u : State => u.queue k') only :),
    fun j => (congrArg (fun u : State => u.window j) only :), fun j => (congrArg (fun u : State => u.stamp j) only :)⟩

theorem State.contactUp_only (s : State) (k : ContactNumber) (h : Handle) :
    { s.contactUp k h with contacts := s.contacts, events := s.events } = s := by
  unfold State.contactUp
  apply State.eq_of_parts <;> first | with_reducible rfl | (dsimp only; (repeat' split) <;> simp)

@[simp] theorem State.contactUp_frame (s : State) (k : ContactNumber) (h : Handle) :
    (s.contactUp k h).pending = s.pending ∧ (s.contactUp k h).resetN = s.resetN ∧ (s.contactUp k h).pins = s.pins ∧
    (s.contactUp k h).mem = s.mem ∧ (s.contactUp k h).pool = s.pool ∧ (s.contactUp k h).windows = s.windows ∧
    (s.contactUp k h).stack = s.stack ∧ (s.contactUp k h).scanout = s.scanout ∧ (s.contactUp k h).queues = s.queues ∧
    (s.contactUp k h).lastServed = s.lastServed ∧ (s.contactUp k h).engine = s.engine ∧
    (s.contactUp k h).stamps = s.stamps ∧ (s.contactUp k h).ownedStamps = s.ownedStamps ∧
    (s.contactUp k h).links = s.links ∧ (∀ k', (s.contactUp k h).link k' = s.link k') ∧
    (∀ k', (s.contactUp k h).isUp k' = s.isUp k') ∧ (∀ k', (s.contactUp k h).queue k' = s.queue k') ∧
    (∀ j, (s.contactUp k h).window j = s.window j) ∧ (∀ j, (s.contactUp k h).stamp j = s.stamp j) := by
  have only := s.contactUp_only k h
  generalize s.contactUp k h = t at only ⊢
  exact ⟨(congrArg State.pending only :), (congrArg State.resetN only :), (congrArg State.pins only :),
    (congrArg State.mem only :), (congrArg State.pool only :), (congrArg State.windows only :),
    (congrArg State.stack only :), (congrArg State.scanout only :), (congrArg State.queues only :),
    (congrArg State.lastServed only :), (congrArg State.engine only :), (congrArg State.stamps only :),
    (congrArg State.ownedStamps only :), (congrArg State.links only :),
    fun k' => (congrArg (fun u : State => u.link k') only :),
    fun k' => (congrArg (fun u : State => u.isUp k') only :),
    fun k' => (congrArg (fun u : State => u.queue k') only :),
    fun j => (congrArg (fun u : State => u.window j) only :), fun j => (congrArg (fun u : State => u.stamp j) only :)⟩

theorem State.applyContact_only (s : State) (es : List ReportEntry) (k : ContactNumber) :
    { s.applyContact es k with contacts := s.contacts, events := s.events } = s := by
  unfold State.applyContact
  apply State.eq_of_parts <;> first | with_reducible rfl | (dsimp only; (repeat' split) <;> simp)

@[simp] theorem State.applyContact_frame (s : State) (es : List ReportEntry) (k : ContactNumber) :
    (s.applyContact es k).pending = s.pending ∧ (s.applyContact es k).resetN = s.resetN ∧
    (s.applyContact es k).pins = s.pins ∧ (s.applyContact es k).mem = s.mem ∧ (s.applyContact es k).pool = s.pool ∧
    (s.applyContact es k).windows = s.windows ∧ (s.applyContact es k).stack = s.stack ∧
    (s.applyContact es k).scanout = s.scanout ∧ (s.applyContact es k).queues = s.queues ∧
    (s.applyContact es k).lastServed = s.lastServed ∧ (s.applyContact es k).engine = s.engine ∧
    (s.applyContact es k).stamps = s.stamps ∧ (s.applyContact es k).ownedStamps = s.ownedStamps ∧
    (s.applyContact es k).links = s.links ∧ (∀ k', (s.applyContact es k).link k' = s.link k') ∧
    (∀ k', (s.applyContact es k).isUp k' = s.isUp k') ∧ (∀ k', (s.applyContact es k).queue k' = s.queue k') ∧
    (∀ j, (s.applyContact es k).window j = s.window j) ∧ (∀ j, (s.applyContact es k).stamp j = s.stamp j) := by
  have only := s.applyContact_only es k
  generalize s.applyContact es k = t at only ⊢
  exact ⟨(congrArg State.pending only :), (congrArg State.resetN only :), (congrArg State.pins only :),
    (congrArg State.mem only :), (congrArg State.pool only :), (congrArg State.windows only :),
    (congrArg State.stack only :), (congrArg State.scanout only :), (congrArg State.queues only :),
    (congrArg State.lastServed only :), (congrArg State.engine only :), (congrArg State.stamps only :),
    (congrArg State.ownedStamps only :), (congrArg State.links only :),
    fun k' => (congrArg (fun u : State => u.link k') only :),
    fun k' => (congrArg (fun u : State => u.isUp k') only :),
    fun k' => (congrArg (fun u : State => u.queue k') only :),
    fun j => (congrArg (fun u : State => u.window j) only :), fun j => (congrArg (fun u : State => u.stamp j) only :)⟩

theorem State.applyReport_only (s : State) (es : List ReportEntry) :
    { s.applyReport es with contacts := s.contacts, events := s.events } = s := by
  have h := foldl_only (fun a b => { a with contacts := b.contacts, events := b.events })
    (fun _ _ _ => rfl) _ (fun t k => t.applyContact_only es k)
    (List.finRange 5) (b := s) (s := s) rfl
  exact h

@[simp] theorem State.applyReport_frame (s : State) (es : List ReportEntry) :
    (s.applyReport es).pending = s.pending ∧ (s.applyReport es).resetN = s.resetN ∧
    (s.applyReport es).pins = s.pins ∧ (s.applyReport es).mem = s.mem ∧ (s.applyReport es).pool = s.pool ∧
    (s.applyReport es).windows = s.windows ∧ (s.applyReport es).stack = s.stack ∧
    (s.applyReport es).scanout = s.scanout ∧ (s.applyReport es).queues = s.queues ∧
    (s.applyReport es).lastServed = s.lastServed ∧ (s.applyReport es).engine = s.engine ∧
    (s.applyReport es).stamps = s.stamps ∧ (s.applyReport es).ownedStamps = s.ownedStamps ∧
    (s.applyReport es).links = s.links ∧ (∀ k, (s.applyReport es).link k = s.link k) ∧
    (∀ k, (s.applyReport es).isUp k = s.isUp k) ∧ (∀ k, (s.applyReport es).queue k = s.queue k) ∧
    (∀ j, (s.applyReport es).window j = s.window j) ∧ (∀ j, (s.applyReport es).stamp j = s.stamp j) := by
  have only := s.applyReport_only es
  generalize s.applyReport es = t at only ⊢
  exact ⟨(congrArg State.pending only :), (congrArg State.resetN only :), (congrArg State.pins only :),
    (congrArg State.mem only :), (congrArg State.pool only :), (congrArg State.windows only :),
    (congrArg State.stack only :), (congrArg State.scanout only :), (congrArg State.queues only :),
    (congrArg State.lastServed only :), (congrArg State.engine only :), (congrArg State.stamps only :),
    (congrArg State.ownedStamps only :), (congrArg State.links only :),
    fun k => (congrArg (fun u : State => u.link k) only :), fun k => (congrArg (fun u : State => u.isUp k) only :),
    fun k => (congrArg (fun u : State => u.queue k) only :),
    fun j => (congrArg (fun u : State => u.window j) only :), fun j => (congrArg (fun u : State => u.stamp j) only :)⟩

theorem State.cancelCapture_only (s : State) (h : Handle) (send : Bool) (k : ContactNumber) :
    { s.cancelCapture h send k with contacts := s.contacts, events := s.events } = s := by
  unfold State.cancelCapture
  apply State.eq_of_parts <;> first | with_reducible rfl | (dsimp only; (repeat' split) <;> simp)

@[simp] theorem State.cancelCapture_frame (s : State) (h : Handle) (send : Bool) (k : ContactNumber) :
    (s.cancelCapture h send k).pending = s.pending ∧ (s.cancelCapture h send k).resetN = s.resetN ∧
    (s.cancelCapture h send k).pins = s.pins ∧ (s.cancelCapture h send k).mem = s.mem ∧
    (s.cancelCapture h send k).pool = s.pool ∧ (s.cancelCapture h send k).windows = s.windows ∧
    (s.cancelCapture h send k).stack = s.stack ∧ (s.cancelCapture h send k).scanout = s.scanout ∧
    (s.cancelCapture h send k).queues = s.queues ∧ (s.cancelCapture h send k).lastServed = s.lastServed ∧
    (s.cancelCapture h send k).engine = s.engine ∧ (s.cancelCapture h send k).stamps = s.stamps ∧
    (s.cancelCapture h send k).ownedStamps = s.ownedStamps ∧ (s.cancelCapture h send k).links = s.links ∧
    (∀ k', (s.cancelCapture h send k).link k' = s.link k') ∧ (∀ k', (s.cancelCapture h send k).isUp k' = s.isUp k') ∧
    (∀ k', (s.cancelCapture h send k).queue k' = s.queue k') ∧
    (∀ j, (s.cancelCapture h send k).window j = s.window j) ∧ (∀ j, (s.cancelCapture h send k).stamp j = s.stamp j) := by
  have only := s.cancelCapture_only h send k
  generalize s.cancelCapture h send k = t at only ⊢
  exact ⟨(congrArg State.pending only :), (congrArg State.resetN only :), (congrArg State.pins only :),
    (congrArg State.mem only :), (congrArg State.pool only :), (congrArg State.windows only :),
    (congrArg State.stack only :), (congrArg State.scanout only :), (congrArg State.queues only :),
    (congrArg State.lastServed only :), (congrArg State.engine only :), (congrArg State.stamps only :),
    (congrArg State.ownedStamps only :), (congrArg State.links only :),
    fun k' => (congrArg (fun u : State => u.link k') only :),
    fun k' => (congrArg (fun u : State => u.isUp k') only :),
    fun k' => (congrArg (fun u : State => u.queue k') only :),
    fun j => (congrArg (fun u : State => u.window j) only :), fun j => (congrArg (fun u : State => u.stamp j) only :)⟩

theorem State.cancelCaptures_only (s : State) (h : Handle) (send : Bool) :
    { s.cancelCaptures h send with contacts := s.contacts, events := s.events } = s := by
  have h := foldl_only (fun a b => { a with contacts := b.contacts, events := b.events })
    (fun _ _ _ => rfl) _ (fun t k => t.cancelCapture_only h send k)
    (List.finRange 5) (b := s) (s := s) rfl
  exact h

@[simp] theorem State.cancelCaptures_frame (s : State) (h : Handle) (send : Bool) :
    (s.cancelCaptures h send).pending = s.pending ∧ (s.cancelCaptures h send).resetN = s.resetN ∧
    (s.cancelCaptures h send).pins = s.pins ∧ (s.cancelCaptures h send).mem = s.mem ∧
    (s.cancelCaptures h send).pool = s.pool ∧ (s.cancelCaptures h send).windows = s.windows ∧
    (s.cancelCaptures h send).stack = s.stack ∧ (s.cancelCaptures h send).scanout = s.scanout ∧
    (s.cancelCaptures h send).queues = s.queues ∧ (s.cancelCaptures h send).lastServed = s.lastServed ∧
    (s.cancelCaptures h send).engine = s.engine ∧ (s.cancelCaptures h send).stamps = s.stamps ∧
    (s.cancelCaptures h send).ownedStamps = s.ownedStamps ∧ (s.cancelCaptures h send).links = s.links ∧
    (∀ k, (s.cancelCaptures h send).link k = s.link k) ∧ (∀ k, (s.cancelCaptures h send).isUp k = s.isUp k) ∧
    (∀ k, (s.cancelCaptures h send).queue k = s.queue k) ∧ (∀ j, (s.cancelCaptures h send).window j = s.window j) ∧
    (∀ j, (s.cancelCaptures h send).stamp j = s.stamp j) := by
  have only := s.cancelCaptures_only h send
  generalize s.cancelCaptures h send = t at only ⊢
  exact ⟨(congrArg State.pending only :), (congrArg State.resetN only :), (congrArg State.pins only :),
    (congrArg State.mem only :), (congrArg State.pool only :), (congrArg State.windows only :),
    (congrArg State.stack only :), (congrArg State.scanout only :), (congrArg State.queues only :),
    (congrArg State.lastServed only :), (congrArg State.engine only :), (congrArg State.stamps only :),
    (congrArg State.ownedStamps only :), (congrArg State.links only :),
    fun k => (congrArg (fun u : State => u.link k) only :), fun k => (congrArg (fun u : State => u.isUp k) only :),
    fun k => (congrArg (fun u : State => u.queue k) only :),
    fun j => (congrArg (fun u : State => u.window j) only :), fun j => (congrArg (fun u : State => u.stamp j) only :)⟩

theorem State.endTest_only (s : State) (l : Link) :
    { s.endTest l with links := s.links } = s := by
  unfold State.endTest
  apply State.eq_of_parts <;> first | with_reducible rfl | (dsimp only; (repeat' split) <;> simp)

@[simp] theorem State.endTest_frame (s : State) (l : Link) :
    (s.endTest l).pending = s.pending ∧ (s.endTest l).resetN = s.resetN ∧ (s.endTest l).pins = s.pins ∧
    (s.endTest l).mem = s.mem ∧ (s.endTest l).pool = s.pool ∧ (s.endTest l).windows = s.windows ∧
    (s.endTest l).stack = s.stack ∧ (s.endTest l).scanout = s.scanout ∧ (s.endTest l).queues = s.queues ∧
    (s.endTest l).lastServed = s.lastServed ∧ (s.endTest l).engine = s.engine ∧ (s.endTest l).stamps = s.stamps ∧
    (s.endTest l).ownedStamps = s.ownedStamps ∧ (s.endTest l).contacts = s.contacts ∧
    (s.endTest l).events = s.events ∧ (∀ k, (s.endTest l).queue k = s.queue k) ∧
    (∀ k, (s.endTest l).eventsOf k = s.eventsOf k) ∧ (∀ j, (s.endTest l).window j = s.window j) ∧
    (∀ j, (s.endTest l).stamp j = s.stamp j) ∧ (∀ j, (s.endTest l).contact j = s.contact j) := by
  have only := s.endTest_only l
  generalize s.endTest l = t at only ⊢
  exact ⟨(congrArg State.pending only :), (congrArg State.resetN only :), (congrArg State.pins only :),
    (congrArg State.mem only :), (congrArg State.pool only :), (congrArg State.windows only :),
    (congrArg State.stack only :), (congrArg State.scanout only :), (congrArg State.queues only :),
    (congrArg State.lastServed only :), (congrArg State.engine only :), (congrArg State.stamps only :),
    (congrArg State.ownedStamps only :), (congrArg State.contacts only :), (congrArg State.events only :),
    fun k => (congrArg (fun u : State => u.queue k) only :),
    fun k => (congrArg (fun u : State => u.eventsOf k) only :),
    fun j => (congrArg (fun u : State => u.window j) only :),
    fun j => (congrArg (fun u : State => u.stamp j) only :),
    fun j => (congrArg (fun u : State => u.contact j) only :)⟩

theorem State.reportRelease_only (s : State) (l : Link) :
    { s.reportRelease l with links := s.links } = s := by
  unfold State.reportRelease
  apply State.eq_of_parts <;> first | with_reducible rfl | simp

@[simp] theorem State.reportRelease_frame (s : State) (l : Link) :
    (s.reportRelease l).pending = s.pending ∧ (s.reportRelease l).resetN = s.resetN ∧
    (s.reportRelease l).pins = s.pins ∧ (s.reportRelease l).mem = s.mem ∧ (s.reportRelease l).pool = s.pool ∧
    (s.reportRelease l).windows = s.windows ∧ (s.reportRelease l).stack = s.stack ∧
    (s.reportRelease l).scanout = s.scanout ∧ (s.reportRelease l).queues = s.queues ∧
    (s.reportRelease l).lastServed = s.lastServed ∧ (s.reportRelease l).engine = s.engine ∧
    (s.reportRelease l).stamps = s.stamps ∧ (s.reportRelease l).ownedStamps = s.ownedStamps ∧
    (s.reportRelease l).contacts = s.contacts ∧ (s.reportRelease l).events = s.events ∧
    (∀ k, (s.reportRelease l).queue k = s.queue k) ∧ (∀ k, (s.reportRelease l).eventsOf k = s.eventsOf k) ∧
    (∀ j, (s.reportRelease l).window j = s.window j) ∧ (∀ j, (s.reportRelease l).stamp j = s.stamp j) ∧
    (∀ j, (s.reportRelease l).contact j = s.contact j) := by
  have only := s.reportRelease_only l
  generalize s.reportRelease l = t at only ⊢
  exact ⟨(congrArg State.pending only :), (congrArg State.resetN only :), (congrArg State.pins only :),
    (congrArg State.mem only :), (congrArg State.pool only :), (congrArg State.windows only :),
    (congrArg State.stack only :), (congrArg State.scanout only :), (congrArg State.queues only :),
    (congrArg State.lastServed only :), (congrArg State.engine only :), (congrArg State.stamps only :),
    (congrArg State.ownedStamps only :), (congrArg State.contacts only :), (congrArg State.events only :),
    fun k => (congrArg (fun u : State => u.queue k) only :),
    fun k => (congrArg (fun u : State => u.eventsOf k) only :),
    fun j => (congrArg (fun u : State => u.window j) only :),
    fun j => (congrArg (fun u : State => u.stamp j) only :),
    fun j => (congrArg (fun u : State => u.contact j) only :)⟩

theorem State.reportJobEnd_only (s : State) (l : Link) :
    { s.reportJobEnd l with links := s.links } = s := by
  unfold State.reportJobEnd
  apply State.eq_of_parts <;> first | with_reducible rfl | simp

@[simp] theorem State.reportJobEnd_frame (s : State) (l : Link) :
    (s.reportJobEnd l).pending = s.pending ∧ (s.reportJobEnd l).resetN = s.resetN ∧
    (s.reportJobEnd l).pins = s.pins ∧ (s.reportJobEnd l).mem = s.mem ∧ (s.reportJobEnd l).pool = s.pool ∧
    (s.reportJobEnd l).windows = s.windows ∧ (s.reportJobEnd l).stack = s.stack ∧
    (s.reportJobEnd l).scanout = s.scanout ∧ (s.reportJobEnd l).queues = s.queues ∧
    (s.reportJobEnd l).lastServed = s.lastServed ∧ (s.reportJobEnd l).engine = s.engine ∧
    (s.reportJobEnd l).stamps = s.stamps ∧ (s.reportJobEnd l).ownedStamps = s.ownedStamps ∧
    (s.reportJobEnd l).contacts = s.contacts ∧ (s.reportJobEnd l).events = s.events ∧
    (∀ k, (s.reportJobEnd l).queue k = s.queue k) ∧ (∀ k, (s.reportJobEnd l).eventsOf k = s.eventsOf k) ∧
    (∀ j, (s.reportJobEnd l).window j = s.window j) ∧ (∀ j, (s.reportJobEnd l).stamp j = s.stamp j) ∧
    (∀ j, (s.reportJobEnd l).contact j = s.contact j) := by
  have only := s.reportJobEnd_only l
  generalize s.reportJobEnd l = t at only ⊢
  exact ⟨(congrArg State.pending only :), (congrArg State.resetN only :), (congrArg State.pins only :),
    (congrArg State.mem only :), (congrArg State.pool only :), (congrArg State.windows only :),
    (congrArg State.stack only :), (congrArg State.scanout only :), (congrArg State.queues only :),
    (congrArg State.lastServed only :), (congrArg State.engine only :), (congrArg State.stamps only :),
    (congrArg State.ownedStamps only :), (congrArg State.contacts only :), (congrArg State.events only :),
    fun k => (congrArg (fun u : State => u.queue k) only :),
    fun k => (congrArg (fun u : State => u.eventsOf k) only :),
    fun j => (congrArg (fun u : State => u.window j) only :),
    fun j => (congrArg (fun u : State => u.stamp j) only :),
    fun j => (congrArg (fun u : State => u.contact j) only :)⟩

theorem State.release_only (s : State) (i : Slot) :
    { s.release i with pool := s.pool, windows := s.windows, events := s.events, links := s.links } = s := by
  unfold State.release
  apply State.eq_of_parts <;> first | with_reducible rfl | (dsimp only; (repeat' split) <;> simp)

@[simp] theorem State.release_frame (s : State) (i : Slot) :
    (s.release i).pending = s.pending ∧ (s.release i).resetN = s.resetN ∧ (s.release i).pins = s.pins ∧
    (s.release i).mem = s.mem ∧ (s.release i).stack = s.stack ∧ (s.release i).scanout = s.scanout ∧
    (s.release i).queues = s.queues ∧ (s.release i).lastServed = s.lastServed ∧ (s.release i).engine = s.engine ∧
    (s.release i).stamps = s.stamps ∧ (s.release i).ownedStamps = s.ownedStamps ∧
    (s.release i).contacts = s.contacts ∧ (∀ k, (s.release i).queue k = s.queue k) ∧
    (∀ j, (s.release i).stamp j = s.stamp j) ∧ (∀ j, (s.release i).contact j = s.contact j) := by
  have only := s.release_only i
  generalize s.release i = t at only ⊢
  exact ⟨(congrArg State.pending only :), (congrArg State.resetN only :), (congrArg State.pins only :),
    (congrArg State.mem only :), (congrArg State.stack only :), (congrArg State.scanout only :),
    (congrArg State.queues only :), (congrArg State.lastServed only :), (congrArg State.engine only :),
    (congrArg State.stamps only :), (congrArg State.ownedStamps only :), (congrArg State.contacts only :),
    fun k => (congrArg (fun u : State => u.queue k) only :), fun j => (congrArg (fun u : State => u.stamp j) only :),
    fun j => (congrArg (fun u : State => u.contact j) only :)⟩

theorem State.releaseTest_only (s : State) (i : Slot) :
    { s.releaseTest i with pool := s.pool, windows := s.windows, events := s.events, links := s.links } = s := by
  unfold State.releaseTest
  apply State.eq_of_parts <;> first | with_reducible rfl | (dsimp only; (repeat' split) <;> simp)

@[simp] theorem State.releaseTest_frame (s : State) (i : Slot) :
    (s.releaseTest i).pending = s.pending ∧ (s.releaseTest i).resetN = s.resetN ∧ (s.releaseTest i).pins = s.pins ∧
    (s.releaseTest i).mem = s.mem ∧ (s.releaseTest i).stack = s.stack ∧ (s.releaseTest i).scanout = s.scanout ∧
    (s.releaseTest i).queues = s.queues ∧ (s.releaseTest i).lastServed = s.lastServed ∧
    (s.releaseTest i).engine = s.engine ∧ (s.releaseTest i).stamps = s.stamps ∧
    (s.releaseTest i).ownedStamps = s.ownedStamps ∧ (s.releaseTest i).contacts = s.contacts ∧
    (∀ k, (s.releaseTest i).queue k = s.queue k) ∧ (∀ j, (s.releaseTest i).stamp j = s.stamp j) ∧
    (∀ j, (s.releaseTest i).contact j = s.contact j) := by
  have only := s.releaseTest_only i
  generalize s.releaseTest i = t at only ⊢
  exact ⟨(congrArg State.pending only :), (congrArg State.resetN only :), (congrArg State.pins only :),
    (congrArg State.mem only :), (congrArg State.stack only :), (congrArg State.scanout only :),
    (congrArg State.queues only :), (congrArg State.lastServed only :), (congrArg State.engine only :),
    (congrArg State.stamps only :), (congrArg State.ownedStamps only :), (congrArg State.contacts only :),
    fun k => (congrArg (fun u : State => u.queue k) only :), fun j => (congrArg (fun u : State => u.stamp j) only :),
    fun j => (congrArg (fun u : State => u.contact j) only :)⟩

theorem State.foldl_releaseTest_only (s : State) (xs : List Slot) :
    { xs.foldl State.releaseTest s with
        pool := s.pool, windows := s.windows, events := s.events, links := s.links } = s := by
  exact foldl_only (fun a b => { a with pool := b.pool, windows := b.windows, events := b.events, links := b.links })
    (fun _ _ _ => rfl) State.releaseTest State.releaseTest_only xs rfl

@[simp] theorem State.foldl_releaseTest_frame (s : State) (xs : List Slot) :
    (xs.foldl State.releaseTest s).pending = s.pending ∧ (xs.foldl State.releaseTest s).resetN = s.resetN ∧
    (xs.foldl State.releaseTest s).pins = s.pins ∧ (xs.foldl State.releaseTest s).mem = s.mem ∧
    (xs.foldl State.releaseTest s).stack = s.stack ∧ (xs.foldl State.releaseTest s).scanout = s.scanout ∧
    (xs.foldl State.releaseTest s).queues = s.queues ∧ (xs.foldl State.releaseTest s).lastServed = s.lastServed ∧
    (xs.foldl State.releaseTest s).engine = s.engine ∧ (xs.foldl State.releaseTest s).stamps = s.stamps ∧
    (xs.foldl State.releaseTest s).ownedStamps = s.ownedStamps ∧
    (xs.foldl State.releaseTest s).contacts = s.contacts ∧
    (∀ k, (xs.foldl State.releaseTest s).queue k = s.queue k) ∧
    (∀ j, (xs.foldl State.releaseTest s).stamp j = s.stamp j) ∧
    (∀ j, (xs.foldl State.releaseTest s).contact j = s.contact j) := by
  have only := s.foldl_releaseTest_only xs
  generalize xs.foldl State.releaseTest s = t at only ⊢
  exact ⟨(congrArg State.pending only :), (congrArg State.resetN only :), (congrArg State.pins only :),
    (congrArg State.mem only :), (congrArg State.stack only :), (congrArg State.scanout only :),
    (congrArg State.queues only :), (congrArg State.lastServed only :), (congrArg State.engine only :),
    (congrArg State.stamps only :), (congrArg State.ownedStamps only :), (congrArg State.contacts only :),
    fun k => (congrArg (fun u : State => u.queue k) only :), fun j => (congrArg (fun u : State => u.stamp j) only :),
    fun j => (congrArg (fun u : State => u.contact j) only :)⟩

theorem State.cancelPresent_only (s : State) (w : Window) :
    { s.cancelPresent w with events := s.events } = s := by
  unfold State.cancelPresent
  apply State.eq_of_parts <;> first | with_reducible rfl | ((repeat' split) <;> simp)

@[simp] theorem State.cancelPresent_frame (s : State) (w : Window) :
    (s.cancelPresent w).pending = s.pending ∧ (s.cancelPresent w).resetN = s.resetN ∧
    (s.cancelPresent w).pins = s.pins ∧ (s.cancelPresent w).mem = s.mem ∧ (s.cancelPresent w).pool = s.pool ∧
    (s.cancelPresent w).windows = s.windows ∧ (s.cancelPresent w).stack = s.stack ∧
    (s.cancelPresent w).scanout = s.scanout ∧ (s.cancelPresent w).queues = s.queues ∧
    (s.cancelPresent w).lastServed = s.lastServed ∧ (s.cancelPresent w).engine = s.engine ∧
    (s.cancelPresent w).stamps = s.stamps ∧ (s.cancelPresent w).ownedStamps = s.ownedStamps ∧
    (s.cancelPresent w).contacts = s.contacts ∧ (s.cancelPresent w).links = s.links ∧
    (∀ k, (s.cancelPresent w).link k = s.link k) ∧ (∀ k, (s.cancelPresent w).isUp k = s.isUp k) ∧
    (∀ k, (s.cancelPresent w).queue k = s.queue k) ∧ (∀ j, (s.cancelPresent w).window j = s.window j) ∧
    (∀ j, (s.cancelPresent w).stamp j = s.stamp j) ∧ (∀ j, (s.cancelPresent w).contact j = s.contact j) := by
  have only := s.cancelPresent_only w
  generalize s.cancelPresent w = t at only ⊢
  exact ⟨(congrArg State.pending only :), (congrArg State.resetN only :), (congrArg State.pins only :),
    (congrArg State.mem only :), (congrArg State.pool only :), (congrArg State.windows only :),
    (congrArg State.stack only :), (congrArg State.scanout only :), (congrArg State.queues only :),
    (congrArg State.lastServed only :), (congrArg State.engine only :), (congrArg State.stamps only :),
    (congrArg State.ownedStamps only :), (congrArg State.contacts only :), (congrArg State.links only :),
    fun k => (congrArg (fun u : State => u.link k) only :), fun k => (congrArg (fun u : State => u.isUp k) only :),
    fun k => (congrArg (fun u : State => u.queue k) only :),
    fun j => (congrArg (fun u : State => u.window j) only :),
    fun j => (congrArg (fun u : State => u.stamp j) only :),
    fun j => (congrArg (fun u : State => u.contact j) only :)⟩

theorem State.enterClosing_only (s : State) (i : Slot) (reason : CloseReason) :
    { s.enterClosing i reason with
        pool := s.pool, windows := s.windows, stack := s.stack, engine := s.engine, contacts := s.contacts,
        events := s.events, links := s.links } = s := by
  unfold State.enterClosing
  apply State.eq_of_parts <;> first | with_reducible rfl | simp

@[simp] theorem State.enterClosing_frame (s : State) (i : Slot) (reason : CloseReason) :
    (s.enterClosing i reason).pending = s.pending ∧ (s.enterClosing i reason).resetN = s.resetN ∧
    (s.enterClosing i reason).pins = s.pins ∧ (s.enterClosing i reason).mem = s.mem ∧
    (s.enterClosing i reason).scanout = s.scanout ∧ (s.enterClosing i reason).queues = s.queues ∧
    (s.enterClosing i reason).lastServed = s.lastServed ∧ (s.enterClosing i reason).stamps = s.stamps ∧
    (s.enterClosing i reason).ownedStamps = s.ownedStamps ∧ (∀ k, (s.enterClosing i reason).queue k = s.queue k) ∧
    (∀ j, (s.enterClosing i reason).stamp j = s.stamp j) := by
  have only := s.enterClosing_only i reason
  generalize s.enterClosing i reason = t at only ⊢
  exact ⟨(congrArg State.pending only :), (congrArg State.resetN only :), (congrArg State.pins only :),
    (congrArg State.mem only :), (congrArg State.scanout only :), (congrArg State.queues only :),
    (congrArg State.lastServed only :), (congrArg State.stamps only :), (congrArg State.ownedStamps only :),
    fun k => (congrArg (fun u : State => u.queue k) only :), fun j => (congrArg (fun u : State => u.stamp j) only :)⟩

theorem State.handOutcome_only (s : State) (l : Link) (j : Job) (e : Ending) (result : List Pixel) :
    { s.handOutcome l j e result with events := s.events } = s := by
  unfold State.handOutcome
  apply State.eq_of_parts <;> first | with_reducible rfl | ((repeat' split) <;> simp)

@[simp] theorem State.handOutcome_frame (s : State) (l : Link) (j : Job) (e : Ending) (result : List Pixel) :
    (s.handOutcome l j e result).pending = s.pending ∧ (s.handOutcome l j e result).resetN = s.resetN ∧
    (s.handOutcome l j e result).pins = s.pins ∧ (s.handOutcome l j e result).mem = s.mem ∧
    (s.handOutcome l j e result).pool = s.pool ∧ (s.handOutcome l j e result).windows = s.windows ∧
    (s.handOutcome l j e result).stack = s.stack ∧ (s.handOutcome l j e result).scanout = s.scanout ∧
    (s.handOutcome l j e result).queues = s.queues ∧ (s.handOutcome l j e result).lastServed = s.lastServed ∧
    (s.handOutcome l j e result).engine = s.engine ∧ (s.handOutcome l j e result).stamps = s.stamps ∧
    (s.handOutcome l j e result).ownedStamps = s.ownedStamps ∧ (s.handOutcome l j e result).contacts = s.contacts ∧
    (s.handOutcome l j e result).links = s.links ∧ (∀ k, (s.handOutcome l j e result).link k = s.link k) ∧
    (∀ k, (s.handOutcome l j e result).isUp k = s.isUp k) ∧ (∀ k, (s.handOutcome l j e result).queue k = s.queue k) ∧
    (∀ j', (s.handOutcome l j e result).window j' = s.window j') ∧
    (∀ j', (s.handOutcome l j e result).stamp j' = s.stamp j') ∧
    (∀ j', (s.handOutcome l j e result).contact j' = s.contact j') := by
  have only := s.handOutcome_only l j e result
  generalize s.handOutcome l j e result = t at only ⊢
  exact ⟨(congrArg State.pending only :), (congrArg State.resetN only :), (congrArg State.pins only :),
    (congrArg State.mem only :), (congrArg State.pool only :), (congrArg State.windows only :),
    (congrArg State.stack only :), (congrArg State.scanout only :), (congrArg State.queues only :),
    (congrArg State.lastServed only :), (congrArg State.engine only :), (congrArg State.stamps only :),
    (congrArg State.ownedStamps only :), (congrArg State.contacts only :), (congrArg State.links only :),
    fun k => (congrArg (fun u : State => u.link k) only :), fun k => (congrArg (fun u : State => u.isUp k) only :),
    fun k => (congrArg (fun u : State => u.queue k) only :),
    fun j' => (congrArg (fun u : State => u.window j') only :),
    fun j' => (congrArg (fun u : State => u.stamp j') only :),
    fun j' => (congrArg (fun u : State => u.contact j') only :)⟩

theorem State.completeHead_only (s : State) (l : Link) (j : Job) (e : Ending) (result : List Pixel) :
    { s.completeHead l j e result with
        queues := s.queues, stamps := s.stamps, ownedStamps := s.ownedStamps, events := s.events } = s := by
  unfold State.completeHead
  apply State.eq_of_parts <;> first | with_reducible rfl | simp

@[simp] theorem State.completeHead_frame (s : State) (l : Link) (j : Job) (e : Ending) (result : List Pixel) :
    (s.completeHead l j e result).pending = s.pending ∧ (s.completeHead l j e result).resetN = s.resetN ∧
    (s.completeHead l j e result).pins = s.pins ∧ (s.completeHead l j e result).mem = s.mem ∧
    (s.completeHead l j e result).pool = s.pool ∧ (s.completeHead l j e result).windows = s.windows ∧
    (s.completeHead l j e result).stack = s.stack ∧ (s.completeHead l j e result).scanout = s.scanout ∧
    (s.completeHead l j e result).lastServed = s.lastServed ∧ (s.completeHead l j e result).engine = s.engine ∧
    (s.completeHead l j e result).contacts = s.contacts ∧ (s.completeHead l j e result).links = s.links ∧
    (∀ k, (s.completeHead l j e result).link k = s.link k) ∧ (∀ k, (s.completeHead l j e result).isUp k = s.isUp k) ∧
    (∀ j', (s.completeHead l j e result).window j' = s.window j') ∧
    (∀ j', (s.completeHead l j e result).contact j' = s.contact j') := by
  have only := s.completeHead_only l j e result
  generalize s.completeHead l j e result = t at only ⊢
  exact ⟨(congrArg State.pending only :), (congrArg State.resetN only :), (congrArg State.pins only :),
    (congrArg State.mem only :), (congrArg State.pool only :), (congrArg State.windows only :),
    (congrArg State.stack only :), (congrArg State.scanout only :), (congrArg State.lastServed only :),
    (congrArg State.engine only :), (congrArg State.contacts only :), (congrArg State.links only :),
    fun k => (congrArg (fun u : State => u.link k) only :), fun k => (congrArg (fun u : State => u.isUp k) only :),
    fun j' => (congrArg (fun u : State => u.window j') only :),
    fun j' => (congrArg (fun u : State => u.contact j') only :)⟩

theorem State.completeInFlight_only (s : State) (f : InFlight) (e : Ending) :
    { s.completeInFlight f e with
        pool := s.pool, windows := s.windows, queues := s.queues, engine := s.engine, stamps := s.stamps,
        ownedStamps := s.ownedStamps, events := s.events, links := s.links } = s := by
  unfold State.completeInFlight
  apply State.eq_of_parts <;> first | with_reducible rfl | (dsimp only; (repeat' split) <;> simp)

@[simp] theorem State.completeInFlight_frame (s : State) (f : InFlight) (e : Ending) :
    (s.completeInFlight f e).pending = s.pending ∧ (s.completeInFlight f e).resetN = s.resetN ∧
    (s.completeInFlight f e).pins = s.pins ∧ (s.completeInFlight f e).mem = s.mem ∧
    (s.completeInFlight f e).stack = s.stack ∧ (s.completeInFlight f e).scanout = s.scanout ∧
    (s.completeInFlight f e).lastServed = s.lastServed ∧ (s.completeInFlight f e).contacts = s.contacts ∧
    (∀ j, (s.completeInFlight f e).contact j = s.contact j) := by
  have only := s.completeInFlight_only f e
  generalize s.completeInFlight f e = t at only ⊢
  exact ⟨(congrArg State.pending only :), (congrArg State.resetN only :), (congrArg State.pins only :),
    (congrArg State.mem only :), (congrArg State.stack only :), (congrArg State.scanout only :),
    (congrArg State.lastServed only :), (congrArg State.contacts only :),
    fun j => (congrArg (fun u : State => u.contact j) only :)⟩

theorem State.takePresent_only (s : State) (l : Link) (j : Job) (h : Handle) :
    { s.takePresent l j h with
        windows := s.windows, queues := s.queues, stamps := s.stamps, ownedStamps := s.ownedStamps,
        events := s.events } = s := by
  unfold State.takePresent
  apply State.eq_of_parts <;> first | with_reducible rfl | ((repeat' split) <;> simp)

@[simp] theorem State.takePresent_frame (s : State) (l : Link) (j : Job) (h : Handle) :
    (s.takePresent l j h).pending = s.pending ∧ (s.takePresent l j h).resetN = s.resetN ∧
    (s.takePresent l j h).pins = s.pins ∧ (s.takePresent l j h).mem = s.mem ∧ (s.takePresent l j h).pool = s.pool ∧
    (s.takePresent l j h).stack = s.stack ∧ (s.takePresent l j h).scanout = s.scanout ∧
    (s.takePresent l j h).lastServed = s.lastServed ∧ (s.takePresent l j h).engine = s.engine ∧
    (s.takePresent l j h).contacts = s.contacts ∧ (s.takePresent l j h).links = s.links ∧
    (∀ k, (s.takePresent l j h).link k = s.link k) ∧ (∀ k, (s.takePresent l j h).isUp k = s.isUp k) ∧
    (∀ j', (s.takePresent l j h).contact j' = s.contact j') := by
  have only := s.takePresent_only l j h
  generalize s.takePresent l j h = t at only ⊢
  exact ⟨(congrArg State.pending only :), (congrArg State.resetN only :), (congrArg State.pins only :),
    (congrArg State.mem only :), (congrArg State.pool only :), (congrArg State.stack only :),
    (congrArg State.scanout only :), (congrArg State.lastServed only :), (congrArg State.engine only :),
    (congrArg State.contacts only :), (congrArg State.links only :),
    fun k => (congrArg (fun u : State => u.link k) only :), fun k => (congrArg (fun u : State => u.isUp k) only :),
    fun j' => (congrArg (fun u : State => u.contact j') only :)⟩

theorem State.examine_only (s : State) (l : Link) (js : List Job) :
    { s.examine l js with
        windows := s.windows, queues := s.queues, stamps := s.stamps, ownedStamps := s.ownedStamps,
        events := s.events } = s := by
  induction js generalizing s with
  | nil => rfl
  | cons j js ih =>
    unfold State.examine
    repeat' split
    all_goals first
      | with_reducible rfl
      | exact only_trans (fun a b => { a with windows := b.windows, queues := b.queues, stamps := b.stamps, ownedStamps := b.ownedStamps, events := b.events })
          (fun _ _ _ => rfl) (ih _) (by apply State.eq_of_parts <;> first | with_reducible rfl | simp)
      | rfl

@[simp] theorem State.examine_frame (s : State) (l : Link) (js : List Job) :
    (s.examine l js).pending = s.pending ∧ (s.examine l js).resetN = s.resetN ∧ (s.examine l js).pins = s.pins ∧
    (s.examine l js).mem = s.mem ∧ (s.examine l js).pool = s.pool ∧ (s.examine l js).stack = s.stack ∧
    (s.examine l js).scanout = s.scanout ∧ (s.examine l js).lastServed = s.lastServed ∧
    (s.examine l js).engine = s.engine ∧ (s.examine l js).contacts = s.contacts ∧ (s.examine l js).links = s.links ∧
    (∀ k, (s.examine l js).link k = s.link k) ∧ (∀ k, (s.examine l js).isUp k = s.isUp k) ∧
    (∀ j, (s.examine l js).contact j = s.contact j) := by
  have only := s.examine_only l js
  generalize s.examine l js = t at only ⊢
  exact ⟨(congrArg State.pending only :), (congrArg State.resetN only :), (congrArg State.pins only :),
    (congrArg State.mem only :), (congrArg State.pool only :), (congrArg State.stack only :),
    (congrArg State.scanout only :), (congrArg State.lastServed only :), (congrArg State.engine only :),
    (congrArg State.contacts only :), (congrArg State.links only :),
    fun k => (congrArg (fun u : State => u.link k) only :), fun k => (congrArg (fun u : State => u.isUp k) only :),
    fun j => (congrArg (fun u : State => u.contact j) only :)⟩

theorem State.examineHead_only (s : State) (l : Link) :
    { s.examineHead l with
        windows := s.windows, queues := s.queues, stamps := s.stamps, ownedStamps := s.ownedStamps,
        events := s.events } = s := by
  unfold State.examineHead
  apply State.eq_of_parts <;> first | with_reducible rfl | ((repeat' split) <;> simp)

@[simp] theorem State.examineHead_frame (s : State) (l : Link) :
    (s.examineHead l).pending = s.pending ∧ (s.examineHead l).resetN = s.resetN ∧ (s.examineHead l).pins = s.pins ∧
    (s.examineHead l).mem = s.mem ∧ (s.examineHead l).pool = s.pool ∧ (s.examineHead l).stack = s.stack ∧
    (s.examineHead l).scanout = s.scanout ∧ (s.examineHead l).lastServed = s.lastServed ∧
    (s.examineHead l).engine = s.engine ∧ (s.examineHead l).contacts = s.contacts ∧
    (s.examineHead l).links = s.links ∧ (∀ k, (s.examineHead l).link k = s.link k) ∧
    (∀ k, (s.examineHead l).isUp k = s.isUp k) ∧ (∀ j, (s.examineHead l).contact j = s.contact j) := by
  have only := s.examineHead_only l
  generalize s.examineHead l = t at only ⊢
  exact ⟨(congrArg State.pending only :), (congrArg State.resetN only :), (congrArg State.pins only :),
    (congrArg State.mem only :), (congrArg State.pool only :), (congrArg State.stack only :),
    (congrArg State.scanout only :), (congrArg State.lastServed only :), (congrArg State.engine only :),
    (congrArg State.contacts only :), (congrArg State.links only :),
    fun k => (congrArg (fun u : State => u.link k) only :), fun k => (congrArg (fun u : State => u.isUp k) only :),
    fun j => (congrArg (fun u : State => u.contact j) only :)⟩

theorem State.grants_only (s : State) (n : Nat) :
    { State.grants n s with
        windows := s.windows, queues := s.queues, lastServed := s.lastServed, engine := s.engine, stamps := s.stamps,
        ownedStamps := s.ownedStamps, events := s.events } = s := by
  induction n generalizing s with
  | zero => rfl
  | succ n ih =>
    unfold State.grants
    dsimp only
    repeat' split
    all_goals first
      | with_reducible rfl
      | exact only_trans (fun a b => { a with windows := b.windows, queues := b.queues, lastServed := b.lastServed, engine := b.engine, stamps := b.stamps, ownedStamps := b.ownedStamps, events := b.events })
          (fun _ _ _ => rfl) (ih _) (by apply State.eq_of_parts <;> first | with_reducible rfl | simp)
      | rfl

@[simp] theorem State.grants_frame (s : State) (n : Nat) :
    (State.grants n s).pending = s.pending ∧ (State.grants n s).resetN = s.resetN ∧
    (State.grants n s).pins = s.pins ∧ (State.grants n s).mem = s.mem ∧ (State.grants n s).pool = s.pool ∧
    (State.grants n s).stack = s.stack ∧ (State.grants n s).scanout = s.scanout ∧
    (State.grants n s).contacts = s.contacts ∧ (State.grants n s).links = s.links ∧
    (∀ k, (State.grants n s).link k = s.link k) ∧ (∀ k, (State.grants n s).isUp k = s.isUp k) ∧
    (∀ j, (State.grants n s).contact j = s.contact j) := by
  have only := s.grants_only n
  generalize State.grants n s = t at only ⊢
  exact ⟨(congrArg State.pending only :), (congrArg State.resetN only :), (congrArg State.pins only :),
    (congrArg State.mem only :), (congrArg State.pool only :), (congrArg State.stack only :),
    (congrArg State.scanout only :), (congrArg State.contacts only :), (congrArg State.links only :),
    fun k => (congrArg (fun u : State => u.link k) only :), fun k => (congrArg (fun u : State => u.isUp k) only :),
    fun j => (congrArg (fun u : State => u.contact j) only :)⟩

theorem State.foldl_examineHead_only (s : State) (ls : List Link) :
    { ls.foldl State.examineHead s with
        windows := s.windows, queues := s.queues, stamps := s.stamps, ownedStamps := s.ownedStamps,
        events := s.events } = s := by
  exact foldl_only (fun a b => { a with windows := b.windows, queues := b.queues, stamps := b.stamps, ownedStamps := b.ownedStamps, events := b.events })
    (fun _ _ _ => rfl) State.examineHead State.examineHead_only ls rfl

@[simp] theorem State.foldl_examineHead_frame (s : State) (ls : List Link) :
    (ls.foldl State.examineHead s).pending = s.pending ∧ (ls.foldl State.examineHead s).resetN = s.resetN ∧
    (ls.foldl State.examineHead s).pins = s.pins ∧ (ls.foldl State.examineHead s).mem = s.mem ∧
    (ls.foldl State.examineHead s).pool = s.pool ∧ (ls.foldl State.examineHead s).stack = s.stack ∧
    (ls.foldl State.examineHead s).scanout = s.scanout ∧ (ls.foldl State.examineHead s).lastServed = s.lastServed ∧
    (ls.foldl State.examineHead s).engine = s.engine ∧ (ls.foldl State.examineHead s).contacts = s.contacts ∧
    (ls.foldl State.examineHead s).links = s.links ∧ (∀ k, (ls.foldl State.examineHead s).link k = s.link k) ∧
    (∀ k, (ls.foldl State.examineHead s).isUp k = s.isUp k) ∧
    (∀ j, (ls.foldl State.examineHead s).contact j = s.contact j) := by
  have only := s.foldl_examineHead_only ls
  generalize ls.foldl State.examineHead s = t at only ⊢
  exact ⟨(congrArg State.pending only :), (congrArg State.resetN only :), (congrArg State.pins only :),
    (congrArg State.mem only :), (congrArg State.pool only :), (congrArg State.stack only :),
    (congrArg State.scanout only :), (congrArg State.lastServed only :), (congrArg State.engine only :),
    (congrArg State.contacts only :), (congrArg State.links only :),
    fun k => (congrArg (fun u : State => u.link k) only :), fun k => (congrArg (fun u : State => u.isUp k) only :),
    fun j => (congrArg (fun u : State => u.contact j) only :)⟩

theorem State.arbitrate_only (s : State) :
    { s.arbitrate with
        windows := s.windows, queues := s.queues, lastServed := s.lastServed, engine := s.engine, stamps := s.stamps,
        ownedStamps := s.ownedStamps, events := s.events } = s := by
  unfold State.arbitrate
  apply State.eq_of_parts <;> first | with_reducible rfl | simp

@[simp] theorem State.arbitrate_frame (s : State) :
    (s.arbitrate).pending = s.pending ∧ (s.arbitrate).resetN = s.resetN ∧ (s.arbitrate).pins = s.pins ∧
    (s.arbitrate).mem = s.mem ∧ (s.arbitrate).pool = s.pool ∧ (s.arbitrate).stack = s.stack ∧
    (s.arbitrate).scanout = s.scanout ∧ (s.arbitrate).contacts = s.contacts ∧ (s.arbitrate).links = s.links ∧
    (∀ k, (s.arbitrate).link k = s.link k) ∧ (∀ k, (s.arbitrate).isUp k = s.isUp k) ∧
    (∀ j, (s.arbitrate).contact j = s.contact j) := by
  have only := s.arbitrate_only
  generalize s.arbitrate = t at only ⊢
  exact ⟨(congrArg State.pending only :), (congrArg State.resetN only :), (congrArg State.pins only :),
    (congrArg State.mem only :), (congrArg State.pool only :), (congrArg State.stack only :),
    (congrArg State.scanout only :), (congrArg State.contacts only :), (congrArg State.links only :),
    fun k => (congrArg (fun u : State => u.link k) only :), fun k => (congrArg (fun u : State => u.isUp k) only :),
    fun j => (congrArg (fun u : State => u.contact j) only :)⟩

theorem State.schedule_only (s : State) (l : Link) :
    { s.schedule l with
        windows := s.windows, queues := s.queues, lastServed := s.lastServed, engine := s.engine, stamps := s.stamps,
        ownedStamps := s.ownedStamps, events := s.events } = s := by
  unfold State.schedule
  apply State.eq_of_parts <;> first | with_reducible rfl | simp

@[simp] theorem State.schedule_frame (s : State) (l : Link) :
    (s.schedule l).pending = s.pending ∧ (s.schedule l).resetN = s.resetN ∧ (s.schedule l).pins = s.pins ∧
    (s.schedule l).mem = s.mem ∧ (s.schedule l).pool = s.pool ∧ (s.schedule l).stack = s.stack ∧
    (s.schedule l).scanout = s.scanout ∧ (s.schedule l).contacts = s.contacts ∧ (s.schedule l).links = s.links ∧
    (∀ k, (s.schedule l).link k = s.link k) ∧ (∀ k, (s.schedule l).isUp k = s.isUp k) ∧
    (∀ j, (s.schedule l).contact j = s.contact j) := by
  have only := s.schedule_only l
  generalize s.schedule l = t at only ⊢
  exact ⟨(congrArg State.pending only :), (congrArg State.resetN only :), (congrArg State.pins only :),
    (congrArg State.mem only :), (congrArg State.pool only :), (congrArg State.stack only :),
    (congrArg State.scanout only :), (congrArg State.contacts only :), (congrArg State.links only :),
    fun k => (congrArg (fun u : State => u.link k) only :), fun k => (congrArg (fun u : State => u.isUp k) only :),
    fun j => (congrArg (fun u : State => u.contact j) only :)⟩

theorem State.scheduleAll_only (s : State) :
    { s.scheduleAll with
        windows := s.windows, queues := s.queues, lastServed := s.lastServed, engine := s.engine, stamps := s.stamps,
        ownedStamps := s.ownedStamps, events := s.events } = s := by
  unfold State.scheduleAll
  apply State.eq_of_parts <;> first | with_reducible rfl | simp

@[simp] theorem State.scheduleAll_frame (s : State) :
    (s.scheduleAll).pending = s.pending ∧ (s.scheduleAll).resetN = s.resetN ∧ (s.scheduleAll).pins = s.pins ∧
    (s.scheduleAll).mem = s.mem ∧ (s.scheduleAll).pool = s.pool ∧ (s.scheduleAll).stack = s.stack ∧
    (s.scheduleAll).scanout = s.scanout ∧ (s.scheduleAll).contacts = s.contacts ∧ (s.scheduleAll).links = s.links ∧
    (∀ k, (s.scheduleAll).link k = s.link k) ∧ (∀ k, (s.scheduleAll).isUp k = s.isUp k) ∧
    (∀ j, (s.scheduleAll).contact j = s.contact j) := by
  have only := s.scheduleAll_only
  generalize s.scheduleAll = t at only ⊢
  exact ⟨(congrArg State.pending only :), (congrArg State.resetN only :), (congrArg State.pins only :),
    (congrArg State.mem only :), (congrArg State.pool only :), (congrArg State.stack only :),
    (congrArg State.scanout only :), (congrArg State.contacts only :), (congrArg State.links only :),
    fun k => (congrArg (fun u : State => u.link k) only :), fun k => (congrArg (fun u : State => u.isUp k) only :),
    fun j => (congrArg (fun u : State => u.contact j) only :)⟩

theorem State.drawRow_only (s : State) (f : InFlight) :
    { s.drawRow f with mem := s.mem, scanout := s.scanout } = s := by
  rfl

@[simp] theorem State.drawRow_frame (s : State) (f : InFlight) :
    (s.drawRow f).pending = s.pending ∧ (s.drawRow f).resetN = s.resetN ∧ (s.drawRow f).pins = s.pins ∧
    (s.drawRow f).pool = s.pool ∧ (s.drawRow f).windows = s.windows ∧ (s.drawRow f).stack = s.stack ∧
    (s.drawRow f).queues = s.queues ∧ (s.drawRow f).lastServed = s.lastServed ∧ (s.drawRow f).engine = s.engine ∧
    (s.drawRow f).stamps = s.stamps ∧ (s.drawRow f).ownedStamps = s.ownedStamps ∧
    (s.drawRow f).contacts = s.contacts ∧ (s.drawRow f).events = s.events ∧ (s.drawRow f).links = s.links ∧
    (∀ k, (s.drawRow f).link k = s.link k) ∧ (∀ k, (s.drawRow f).isUp k = s.isUp k) ∧
    (∀ k, (s.drawRow f).queue k = s.queue k) ∧ (∀ k, (s.drawRow f).eventsOf k = s.eventsOf k) ∧
    (∀ j, (s.drawRow f).window j = s.window j) ∧ (∀ j, (s.drawRow f).stamp j = s.stamp j) ∧
    (∀ j, (s.drawRow f).contact j = s.contact j) := by
  have only := s.drawRow_only f
  generalize s.drawRow f = t at only ⊢
  exact ⟨(congrArg State.pending only :), (congrArg State.resetN only :), (congrArg State.pins only :),
    (congrArg State.pool only :), (congrArg State.windows only :), (congrArg State.stack only :),
    (congrArg State.queues only :), (congrArg State.lastServed only :), (congrArg State.engine only :),
    (congrArg State.stamps only :), (congrArg State.ownedStamps only :), (congrArg State.contacts only :),
    (congrArg State.events only :), (congrArg State.links only :),
    fun k => (congrArg (fun u : State => u.link k) only :), fun k => (congrArg (fun u : State => u.isUp k) only :),
    fun k => (congrArg (fun u : State => u.queue k) only :),
    fun k => (congrArg (fun u : State => u.eventsOf k) only :),
    fun j => (congrArg (fun u : State => u.window j) only :),
    fun j => (congrArg (fun u : State => u.stamp j) only :),
    fun j => (congrArg (fun u : State => u.contact j) only :)⟩

theorem State.endRow_only (s : State) (f : InFlight) :
    { s.endRow f with
        mem := s.mem, pool := s.pool, windows := s.windows, scanout := s.scanout, queues := s.queues,
        lastServed := s.lastServed, engine := s.engine, stamps := s.stamps, ownedStamps := s.ownedStamps,
        events := s.events, links := s.links } = s := by
  unfold State.endRow
  apply State.eq_of_parts <;> first | with_reducible rfl | (dsimp only; (repeat' split) <;> simp)

@[simp] theorem State.endRow_frame (s : State) (f : InFlight) :
    (s.endRow f).pending = s.pending ∧ (s.endRow f).resetN = s.resetN ∧ (s.endRow f).pins = s.pins ∧
    (s.endRow f).stack = s.stack ∧ (s.endRow f).contacts = s.contacts ∧ (∀ j, (s.endRow f).contact j = s.contact j) := by
  have only := s.endRow_only f
  generalize s.endRow f = t at only ⊢
  exact ⟨(congrArg State.pending only :), (congrArg State.resetN only :), (congrArg State.pins only :),
    (congrArg State.stack only :), (congrArg State.contacts only :),
    fun j => (congrArg (fun u : State => u.contact j) only :)⟩

theorem State.dropJobs_only (s : State) (l : Link) :
    { s.dropJobs l with
        queues := s.queues, engine := s.engine, stamps := s.stamps, ownedStamps := s.ownedStamps,
        events := s.events } = s := by
  unfold State.dropJobs
  apply State.eq_of_parts <;> first | with_reducible rfl | simp

@[simp] theorem State.dropJobs_frame (s : State) (l : Link) :
    (s.dropJobs l).pending = s.pending ∧ (s.dropJobs l).resetN = s.resetN ∧ (s.dropJobs l).pins = s.pins ∧
    (s.dropJobs l).mem = s.mem ∧ (s.dropJobs l).pool = s.pool ∧ (s.dropJobs l).windows = s.windows ∧
    (s.dropJobs l).stack = s.stack ∧ (s.dropJobs l).scanout = s.scanout ∧ (s.dropJobs l).lastServed = s.lastServed ∧
    (s.dropJobs l).contacts = s.contacts ∧ (s.dropJobs l).links = s.links ∧ (∀ k, (s.dropJobs l).link k = s.link k) ∧
    (∀ k, (s.dropJobs l).isUp k = s.isUp k) ∧ (∀ j, (s.dropJobs l).window j = s.window j) ∧
    (∀ j, (s.dropJobs l).contact j = s.contact j) := by
  have only := s.dropJobs_only l
  generalize s.dropJobs l = t at only ⊢
  exact ⟨(congrArg State.pending only :), (congrArg State.resetN only :), (congrArg State.pins only :),
    (congrArg State.mem only :), (congrArg State.pool only :), (congrArg State.windows only :),
    (congrArg State.stack only :), (congrArg State.scanout only :), (congrArg State.lastServed only :),
    (congrArg State.contacts only :), (congrArg State.links only :),
    fun k => (congrArg (fun u : State => u.link k) only :), fun k => (congrArg (fun u : State => u.isUp k) only :),
    fun j => (congrArg (fun u : State => u.window j) only :),
    fun j => (congrArg (fun u : State => u.contact j) only :)⟩

theorem State.answerOutside_only (s : State) (l : Link) (code seq : Byte) (status : Status) :
    { s.answerOutside l code seq status with links := s.links } = s := by
  unfold State.answerOutside
  apply State.eq_of_parts <;> first | with_reducible rfl | ((repeat' split) <;> simp)

@[simp] theorem State.answerOutside_frame (s : State) (l : Link) (code seq : Byte) (status : Status) :
    (s.answerOutside l code seq status).pending = s.pending ∧ (s.answerOutside l code seq status).resetN = s.resetN ∧
    (s.answerOutside l code seq status).pins = s.pins ∧ (s.answerOutside l code seq status).mem = s.mem ∧
    (s.answerOutside l code seq status).pool = s.pool ∧ (s.answerOutside l code seq status).windows = s.windows ∧
    (s.answerOutside l code seq status).stack = s.stack ∧ (s.answerOutside l code seq status).scanout = s.scanout ∧
    (s.answerOutside l code seq status).queues = s.queues ∧
    (s.answerOutside l code seq status).lastServed = s.lastServed ∧
    (s.answerOutside l code seq status).engine = s.engine ∧ (s.answerOutside l code seq status).stamps = s.stamps ∧
    (s.answerOutside l code seq status).ownedStamps = s.ownedStamps ∧
    (s.answerOutside l code seq status).contacts = s.contacts ∧
    (s.answerOutside l code seq status).events = s.events ∧
    (∀ k, (s.answerOutside l code seq status).queue k = s.queue k) ∧
    (∀ k, (s.answerOutside l code seq status).eventsOf k = s.eventsOf k) ∧
    (∀ j, (s.answerOutside l code seq status).window j = s.window j) ∧
    (∀ j, (s.answerOutside l code seq status).stamp j = s.stamp j) ∧
    (∀ j, (s.answerOutside l code seq status).contact j = s.contact j) := by
  have only := s.answerOutside_only l code seq status
  generalize s.answerOutside l code seq status = t at only ⊢
  exact ⟨(congrArg State.pending only :), (congrArg State.resetN only :), (congrArg State.pins only :),
    (congrArg State.mem only :), (congrArg State.pool only :), (congrArg State.windows only :),
    (congrArg State.stack only :), (congrArg State.scanout only :), (congrArg State.queues only :),
    (congrArg State.lastServed only :), (congrArg State.engine only :), (congrArg State.stamps only :),
    (congrArg State.ownedStamps only :), (congrArg State.contacts only :), (congrArg State.events only :),
    fun k => (congrArg (fun u : State => u.queue k) only :),
    fun k => (congrArg (fun u : State => u.eventsOf k) only :),
    fun j => (congrArg (fun u : State => u.window j) only :),
    fun j => (congrArg (fun u : State => u.stamp j) only :),
    fun j => (congrArg (fun u : State => u.contact j) only :)⟩

theorem State.transmit_only (s : State) (l : Link) :
    { s.transmit l with events := s.events, links := s.links } = s := by
  unfold State.transmit
  apply State.eq_of_parts <;> first | with_reducible rfl | (dsimp only; (repeat' split) <;> simp)

@[simp] theorem State.transmit_frame (s : State) (l : Link) :
    (s.transmit l).pending = s.pending ∧ (s.transmit l).resetN = s.resetN ∧ (s.transmit l).pins = s.pins ∧
    (s.transmit l).mem = s.mem ∧ (s.transmit l).pool = s.pool ∧ (s.transmit l).windows = s.windows ∧
    (s.transmit l).stack = s.stack ∧ (s.transmit l).scanout = s.scanout ∧ (s.transmit l).queues = s.queues ∧
    (s.transmit l).lastServed = s.lastServed ∧ (s.transmit l).engine = s.engine ∧ (s.transmit l).stamps = s.stamps ∧
    (s.transmit l).ownedStamps = s.ownedStamps ∧ (s.transmit l).contacts = s.contacts ∧
    (∀ k, (s.transmit l).queue k = s.queue k) ∧ (∀ j, (s.transmit l).window j = s.window j) ∧
    (∀ j, (s.transmit l).stamp j = s.stamp j) ∧ (∀ j, (s.transmit l).contact j = s.contact j) := by
  have only := s.transmit_only l
  generalize s.transmit l = t at only ⊢
  exact ⟨(congrArg State.pending only :), (congrArg State.resetN only :), (congrArg State.pins only :),
    (congrArg State.mem only :), (congrArg State.pool only :), (congrArg State.windows only :),
    (congrArg State.stack only :), (congrArg State.scanout only :), (congrArg State.queues only :),
    (congrArg State.lastServed only :), (congrArg State.engine only :), (congrArg State.stamps only :),
    (congrArg State.ownedStamps only :), (congrArg State.contacts only :),
    fun k => (congrArg (fun u : State => u.queue k) only :),
    fun j => (congrArg (fun u : State => u.window j) only :),
    fun j => (congrArg (fun u : State => u.stamp j) only :),
    fun j => (congrArg (fun u : State => u.contact j) only :)⟩

theorem State.transmitAll_only (s : State) :
    { s.transmitAll with events := s.events, links := s.links } = s := by
  have h := foldl_only (fun a b => { a with events := b.events, links := b.links })
    (fun _ _ _ => rfl) _ (fun t k => t.transmit_only k)
    allLinks (b := s) (s := s) rfl
  exact h

@[simp] theorem State.transmitAll_frame (s : State) :
    (s.transmitAll).pending = s.pending ∧ (s.transmitAll).resetN = s.resetN ∧ (s.transmitAll).pins = s.pins ∧
    (s.transmitAll).mem = s.mem ∧ (s.transmitAll).pool = s.pool ∧ (s.transmitAll).windows = s.windows ∧
    (s.transmitAll).stack = s.stack ∧ (s.transmitAll).scanout = s.scanout ∧ (s.transmitAll).queues = s.queues ∧
    (s.transmitAll).lastServed = s.lastServed ∧ (s.transmitAll).engine = s.engine ∧
    (s.transmitAll).stamps = s.stamps ∧ (s.transmitAll).ownedStamps = s.ownedStamps ∧
    (s.transmitAll).contacts = s.contacts ∧ (∀ k, (s.transmitAll).queue k = s.queue k) ∧
    (∀ j, (s.transmitAll).window j = s.window j) ∧ (∀ j, (s.transmitAll).stamp j = s.stamp j) ∧
    (∀ j, (s.transmitAll).contact j = s.contact j) := by
  have only := s.transmitAll_only
  generalize s.transmitAll = t at only ⊢
  exact ⟨(congrArg State.pending only :), (congrArg State.resetN only :), (congrArg State.pins only :),
    (congrArg State.mem only :), (congrArg State.pool only :), (congrArg State.windows only :),
    (congrArg State.stack only :), (congrArg State.scanout only :), (congrArg State.queues only :),
    (congrArg State.lastServed only :), (congrArg State.engine only :), (congrArg State.stamps only :),
    (congrArg State.ownedStamps only :), (congrArg State.contacts only :),
    fun k => (congrArg (fun u : State => u.queue k) only :),
    fun j => (congrArg (fun u : State => u.window j) only :),
    fun j => (congrArg (fun u : State => u.stamp j) only :),
    fun j => (congrArg (fun u : State => u.contact j) only :)⟩

theorem State.dropEvents_only (s : State) (l : Link) :
    { s.dropEvents l with queues := s.queues, events := s.events } = s := by
  rfl

@[simp] theorem State.dropEvents_frame (s : State) (l : Link) :
    (s.dropEvents l).pending = s.pending ∧ (s.dropEvents l).resetN = s.resetN ∧ (s.dropEvents l).pins = s.pins ∧
    (s.dropEvents l).mem = s.mem ∧ (s.dropEvents l).pool = s.pool ∧ (s.dropEvents l).windows = s.windows ∧
    (s.dropEvents l).stack = s.stack ∧ (s.dropEvents l).scanout = s.scanout ∧
    (s.dropEvents l).lastServed = s.lastServed ∧ (s.dropEvents l).engine = s.engine ∧
    (s.dropEvents l).stamps = s.stamps ∧ (s.dropEvents l).ownedStamps = s.ownedStamps ∧
    (s.dropEvents l).contacts = s.contacts ∧ (s.dropEvents l).links = s.links ∧
    (∀ k, (s.dropEvents l).link k = s.link k) ∧ (∀ k, (s.dropEvents l).isUp k = s.isUp k) ∧
    (∀ j, (s.dropEvents l).window j = s.window j) ∧ (∀ j, (s.dropEvents l).stamp j = s.stamp j) ∧
    (∀ j, (s.dropEvents l).contact j = s.contact j) := by
  have only := s.dropEvents_only l
  generalize s.dropEvents l = t at only ⊢
  exact ⟨(congrArg State.pending only :), (congrArg State.resetN only :), (congrArg State.pins only :),
    (congrArg State.mem only :), (congrArg State.pool only :), (congrArg State.windows only :),
    (congrArg State.stack only :), (congrArg State.scanout only :), (congrArg State.lastServed only :),
    (congrArg State.engine only :), (congrArg State.stamps only :), (congrArg State.ownedStamps only :),
    (congrArg State.contacts only :), (congrArg State.links only :),
    fun k => (congrArg (fun u : State => u.link k) only :), fun k => (congrArg (fun u : State => u.isUp k) only :),
    fun j => (congrArg (fun u : State => u.window j) only :),
    fun j => (congrArg (fun u : State => u.stamp j) only :),
    fun j => (congrArg (fun u : State => u.contact j) only :)⟩

theorem State.teardownWindow_only (s : State) (l : Link) (i : Slot) :
    { State.teardownWindow l s i with
        pool := s.pool, windows := s.windows, stack := s.stack, engine := s.engine, contacts := s.contacts,
        events := s.events, links := s.links } = s := by
  unfold State.teardownWindow
  apply State.eq_of_parts <;> first | with_reducible rfl | (dsimp only; (repeat' split) <;> simp)

@[simp] theorem State.teardownWindow_frame (s : State) (l : Link) (i : Slot) :
    (State.teardownWindow l s i).pending = s.pending ∧ (State.teardownWindow l s i).resetN = s.resetN ∧
    (State.teardownWindow l s i).pins = s.pins ∧ (State.teardownWindow l s i).mem = s.mem ∧
    (State.teardownWindow l s i).scanout = s.scanout ∧ (State.teardownWindow l s i).queues = s.queues ∧
    (State.teardownWindow l s i).lastServed = s.lastServed ∧ (State.teardownWindow l s i).stamps = s.stamps ∧
    (State.teardownWindow l s i).ownedStamps = s.ownedStamps ∧
    (∀ k, (State.teardownWindow l s i).queue k = s.queue k) ∧ (∀ j, (State.teardownWindow l s i).stamp j = s.stamp j) := by
  have only := s.teardownWindow_only l i
  generalize State.teardownWindow l s i = t at only ⊢
  exact ⟨(congrArg State.pending only :), (congrArg State.resetN only :), (congrArg State.pins only :),
    (congrArg State.mem only :), (congrArg State.scanout only :), (congrArg State.queues only :),
    (congrArg State.lastServed only :), (congrArg State.stamps only :), (congrArg State.ownedStamps only :),
    fun k => (congrArg (fun u : State => u.queue k) only :), fun j => (congrArg (fun u : State => u.stamp j) only :)⟩

theorem State.teardownWindows_only (s : State) (l : Link) :
    { s.teardownWindows l with
        pool := s.pool, windows := s.windows, stack := s.stack, engine := s.engine, contacts := s.contacts,
        events := s.events, links := s.links } = s := by
  have h := foldl_only (fun a b => { a with pool := b.pool, windows := b.windows, stack := b.stack, engine := b.engine, contacts := b.contacts, events := b.events, links := b.links })
    (fun _ _ _ => rfl) (State.teardownWindow l) (fun t i => t.teardownWindow_only l i)
    (List.finRange 32) (b := { s with windows := s.windows.map fun w => w.withoutGrant l }) (s := s) rfl
  exact h

@[simp] theorem State.teardownWindows_frame (s : State) (l : Link) :
    (s.teardownWindows l).pending = s.pending ∧ (s.teardownWindows l).resetN = s.resetN ∧
    (s.teardownWindows l).pins = s.pins ∧ (s.teardownWindows l).mem = s.mem ∧
    (s.teardownWindows l).scanout = s.scanout ∧ (s.teardownWindows l).queues = s.queues ∧
    (s.teardownWindows l).lastServed = s.lastServed ∧ (s.teardownWindows l).stamps = s.stamps ∧
    (s.teardownWindows l).ownedStamps = s.ownedStamps ∧ (∀ k, (s.teardownWindows l).queue k = s.queue k) ∧
    (∀ j, (s.teardownWindows l).stamp j = s.stamp j) := by
  have only := s.teardownWindows_only l
  generalize s.teardownWindows l = t at only ⊢
  exact ⟨(congrArg State.pending only :), (congrArg State.resetN only :), (congrArg State.pins only :),
    (congrArg State.mem only :), (congrArg State.scanout only :), (congrArg State.queues only :),
    (congrArg State.lastServed only :), (congrArg State.stamps only :), (congrArg State.ownedStamps only :),
    fun k => (congrArg (fun u : State => u.queue k) only :), fun j => (congrArg (fun u : State => u.stamp j) only :)⟩

theorem State.startTeardown_only (s : State) (l : Link) (reason : EndReason) :
    { s.startTeardown l reason with
        pool := s.pool, windows := s.windows, stack := s.stack, queues := s.queues, engine := s.engine,
        stamps := s.stamps, ownedStamps := s.ownedStamps, contacts := s.contacts, events := s.events,
        links := s.links } = s := by
  unfold State.startTeardown
  apply State.eq_of_parts <;> first | with_reducible rfl | simp

@[simp] theorem State.startTeardown_frame (s : State) (l : Link) (reason : EndReason) :
    (s.startTeardown l reason).pending = s.pending ∧ (s.startTeardown l reason).resetN = s.resetN ∧
    (s.startTeardown l reason).pins = s.pins ∧ (s.startTeardown l reason).mem = s.mem ∧
    (s.startTeardown l reason).scanout = s.scanout ∧ (s.startTeardown l reason).lastServed = s.lastServed := by
  have only := s.startTeardown_only l reason
  generalize s.startTeardown l reason = t at only ⊢
  exact ⟨(congrArg State.pending only :), (congrArg State.resetN only :), (congrArg State.pins only :),
    (congrArg State.mem only :), (congrArg State.scanout only :), (congrArg State.lastServed only :)⟩

theorem State.endSession_only (s : State) (l : Link) (reason : EndReason) :
    { s.endSession l reason with
        pool := s.pool, windows := s.windows, stack := s.stack, queues := s.queues, lastServed := s.lastServed,
        engine := s.engine, stamps := s.stamps, ownedStamps := s.ownedStamps, contacts := s.contacts, events := s.events,
        links := s.links } = s := by
  unfold State.endSession
  apply State.eq_of_parts <;> first | with_reducible rfl | simp

@[simp] theorem State.endSession_frame (s : State) (l : Link) (reason : EndReason) :
    (s.endSession l reason).pending = s.pending ∧ (s.endSession l reason).resetN = s.resetN ∧
    (s.endSession l reason).pins = s.pins ∧ (s.endSession l reason).mem = s.mem ∧
    (s.endSession l reason).scanout = s.scanout := by
  have only := s.endSession_only l reason
  generalize s.endSession l reason = t at only ⊢
  exact ⟨(congrArg State.pending only :), (congrArg State.resetN only :), (congrArg State.pins only :),
    (congrArg State.mem only :), (congrArg State.scanout only :)⟩

theorem State.handPresented_only (s : State) (w : Window) (f : ArmedFlip) :
    { s.handPresented w f with events := s.events } = s := by
  unfold State.handPresented
  apply State.eq_of_parts <;> first | with_reducible rfl | ((repeat' split) <;> simp)

@[simp] theorem State.handPresented_frame (s : State) (w : Window) (f : ArmedFlip) :
    (s.handPresented w f).pending = s.pending ∧ (s.handPresented w f).resetN = s.resetN ∧
    (s.handPresented w f).pins = s.pins ∧ (s.handPresented w f).mem = s.mem ∧ (s.handPresented w f).pool = s.pool ∧
    (s.handPresented w f).windows = s.windows ∧ (s.handPresented w f).stack = s.stack ∧
    (s.handPresented w f).scanout = s.scanout ∧ (s.handPresented w f).queues = s.queues ∧
    (s.handPresented w f).lastServed = s.lastServed ∧ (s.handPresented w f).engine = s.engine ∧
    (s.handPresented w f).stamps = s.stamps ∧ (s.handPresented w f).ownedStamps = s.ownedStamps ∧
    (s.handPresented w f).contacts = s.contacts ∧ (s.handPresented w f).links = s.links ∧
    (∀ k, (s.handPresented w f).link k = s.link k) ∧ (∀ k, (s.handPresented w f).isUp k = s.isUp k) ∧
    (∀ k, (s.handPresented w f).queue k = s.queue k) ∧ (∀ j, (s.handPresented w f).window j = s.window j) ∧
    (∀ j, (s.handPresented w f).stamp j = s.stamp j) ∧ (∀ j, (s.handPresented w f).contact j = s.contact j) := by
  have only := s.handPresented_only w f
  generalize s.handPresented w f = t at only ⊢
  exact ⟨(congrArg State.pending only :), (congrArg State.resetN only :), (congrArg State.pins only :),
    (congrArg State.mem only :), (congrArg State.pool only :), (congrArg State.windows only :),
    (congrArg State.stack only :), (congrArg State.scanout only :), (congrArg State.queues only :),
    (congrArg State.lastServed only :), (congrArg State.engine only :), (congrArg State.stamps only :),
    (congrArg State.ownedStamps only :), (congrArg State.contacts only :), (congrArg State.links only :),
    fun k => (congrArg (fun u : State => u.link k) only :), fun k => (congrArg (fun u : State => u.isUp k) only :),
    fun k => (congrArg (fun u : State => u.queue k) only :),
    fun j => (congrArg (fun u : State => u.window j) only :),
    fun j => (congrArg (fun u : State => u.stamp j) only :),
    fun j => (congrArg (fun u : State => u.contact j) only :)⟩

theorem State.takeFlip_only (s : State) (i : Slot) :
    { s.takeFlip i with windows := s.windows, events := s.events } = s := by
  unfold State.takeFlip
  apply State.eq_of_parts <;> first | with_reducible rfl | ((repeat' split) <;> simp)

@[simp] theorem State.takeFlip_frame (s : State) (i : Slot) :
    (s.takeFlip i).pending = s.pending ∧ (s.takeFlip i).resetN = s.resetN ∧ (s.takeFlip i).pins = s.pins ∧
    (s.takeFlip i).mem = s.mem ∧ (s.takeFlip i).pool = s.pool ∧ (s.takeFlip i).stack = s.stack ∧
    (s.takeFlip i).scanout = s.scanout ∧ (s.takeFlip i).queues = s.queues ∧
    (s.takeFlip i).lastServed = s.lastServed ∧ (s.takeFlip i).engine = s.engine ∧ (s.takeFlip i).stamps = s.stamps ∧
    (s.takeFlip i).ownedStamps = s.ownedStamps ∧ (s.takeFlip i).contacts = s.contacts ∧
    (s.takeFlip i).links = s.links ∧ (∀ k, (s.takeFlip i).link k = s.link k) ∧
    (∀ k, (s.takeFlip i).isUp k = s.isUp k) ∧ (∀ k, (s.takeFlip i).queue k = s.queue k) ∧
    (∀ j, (s.takeFlip i).stamp j = s.stamp j) ∧ (∀ j, (s.takeFlip i).contact j = s.contact j) := by
  have only := s.takeFlip_only i
  generalize s.takeFlip i = t at only ⊢
  exact ⟨(congrArg State.pending only :), (congrArg State.resetN only :), (congrArg State.pins only :),
    (congrArg State.mem only :), (congrArg State.pool only :), (congrArg State.stack only :),
    (congrArg State.scanout only :), (congrArg State.queues only :), (congrArg State.lastServed only :),
    (congrArg State.engine only :), (congrArg State.stamps only :), (congrArg State.ownedStamps only :),
    (congrArg State.contacts only :), (congrArg State.links only :),
    fun k => (congrArg (fun u : State => u.link k) only :), fun k => (congrArg (fun u : State => u.isUp k) only :),
    fun k => (congrArg (fun u : State => u.queue k) only :), fun j => (congrArg (fun u : State => u.stamp j) only :),
    fun j => (congrArg (fun u : State => u.contact j) only :)⟩

theorem State.noticeFrame_only (s : State) (l : Link) :
    { s.noticeFrame l with events := s.events } = s := by
  unfold State.noticeFrame
  apply State.eq_of_parts <;> first | with_reducible rfl | ((repeat' split) <;> simp)

@[simp] theorem State.noticeFrame_frame (s : State) (l : Link) :
    (s.noticeFrame l).pending = s.pending ∧ (s.noticeFrame l).resetN = s.resetN ∧ (s.noticeFrame l).pins = s.pins ∧
    (s.noticeFrame l).mem = s.mem ∧ (s.noticeFrame l).pool = s.pool ∧ (s.noticeFrame l).windows = s.windows ∧
    (s.noticeFrame l).stack = s.stack ∧ (s.noticeFrame l).scanout = s.scanout ∧ (s.noticeFrame l).queues = s.queues ∧
    (s.noticeFrame l).lastServed = s.lastServed ∧ (s.noticeFrame l).engine = s.engine ∧
    (s.noticeFrame l).stamps = s.stamps ∧ (s.noticeFrame l).ownedStamps = s.ownedStamps ∧
    (s.noticeFrame l).contacts = s.contacts ∧ (s.noticeFrame l).links = s.links ∧
    (∀ k, (s.noticeFrame l).link k = s.link k) ∧ (∀ k, (s.noticeFrame l).isUp k = s.isUp k) ∧
    (∀ k, (s.noticeFrame l).queue k = s.queue k) ∧ (∀ j, (s.noticeFrame l).window j = s.window j) ∧
    (∀ j, (s.noticeFrame l).stamp j = s.stamp j) ∧ (∀ j, (s.noticeFrame l).contact j = s.contact j) := by
  have only := s.noticeFrame_only l
  generalize s.noticeFrame l = t at only ⊢
  exact ⟨(congrArg State.pending only :), (congrArg State.resetN only :), (congrArg State.pins only :),
    (congrArg State.mem only :), (congrArg State.pool only :), (congrArg State.windows only :),
    (congrArg State.stack only :), (congrArg State.scanout only :), (congrArg State.queues only :),
    (congrArg State.lastServed only :), (congrArg State.engine only :), (congrArg State.stamps only :),
    (congrArg State.ownedStamps only :), (congrArg State.contacts only :), (congrArg State.links only :),
    fun k => (congrArg (fun u : State => u.link k) only :), fun k => (congrArg (fun u : State => u.isUp k) only :),
    fun k => (congrArg (fun u : State => u.queue k) only :),
    fun j => (congrArg (fun u : State => u.window j) only :),
    fun j => (congrArg (fun u : State => u.stamp j) only :),
    fun j => (congrArg (fun u : State => u.contact j) only :)⟩

theorem State.foldl_noticeFrame_only (s : State) (ls : List Link) :
    { ls.foldl State.noticeFrame s with events := s.events } = s := by
  exact foldl_only (fun a b => { a with events := b.events })
    (fun _ _ _ => rfl) State.noticeFrame State.noticeFrame_only ls rfl

@[simp] theorem State.foldl_noticeFrame_frame (s : State) (ls : List Link) :
    (ls.foldl State.noticeFrame s).pending = s.pending ∧ (ls.foldl State.noticeFrame s).resetN = s.resetN ∧
    (ls.foldl State.noticeFrame s).pins = s.pins ∧ (ls.foldl State.noticeFrame s).mem = s.mem ∧
    (ls.foldl State.noticeFrame s).pool = s.pool ∧ (ls.foldl State.noticeFrame s).windows = s.windows ∧
    (ls.foldl State.noticeFrame s).stack = s.stack ∧ (ls.foldl State.noticeFrame s).scanout = s.scanout ∧
    (ls.foldl State.noticeFrame s).queues = s.queues ∧ (ls.foldl State.noticeFrame s).lastServed = s.lastServed ∧
    (ls.foldl State.noticeFrame s).engine = s.engine ∧ (ls.foldl State.noticeFrame s).stamps = s.stamps ∧
    (ls.foldl State.noticeFrame s).ownedStamps = s.ownedStamps ∧
    (ls.foldl State.noticeFrame s).contacts = s.contacts ∧ (ls.foldl State.noticeFrame s).links = s.links ∧
    (∀ k, (ls.foldl State.noticeFrame s).link k = s.link k) ∧
    (∀ k, (ls.foldl State.noticeFrame s).isUp k = s.isUp k) ∧
    (∀ k, (ls.foldl State.noticeFrame s).queue k = s.queue k) ∧
    (∀ j, (ls.foldl State.noticeFrame s).window j = s.window j) ∧
    (∀ j, (ls.foldl State.noticeFrame s).stamp j = s.stamp j) ∧
    (∀ j, (ls.foldl State.noticeFrame s).contact j = s.contact j) := by
  have only := s.foldl_noticeFrame_only ls
  generalize ls.foldl State.noticeFrame s = t at only ⊢
  exact ⟨(congrArg State.pending only :), (congrArg State.resetN only :), (congrArg State.pins only :),
    (congrArg State.mem only :), (congrArg State.pool only :), (congrArg State.windows only :),
    (congrArg State.stack only :), (congrArg State.scanout only :), (congrArg State.queues only :),
    (congrArg State.lastServed only :), (congrArg State.engine only :), (congrArg State.stamps only :),
    (congrArg State.ownedStamps only :), (congrArg State.contacts only :), (congrArg State.links only :),
    fun k => (congrArg (fun u : State => u.link k) only :), fun k => (congrArg (fun u : State => u.isUp k) only :),
    fun k => (congrArg (fun u : State => u.queue k) only :),
    fun j => (congrArg (fun u : State => u.window j) only :),
    fun j => (congrArg (fun u : State => u.stamp j) only :),
    fun j => (congrArg (fun u : State => u.contact j) only :)⟩

theorem State.foldl_takeFlip_only (s : State) (is : List Slot) :
    { is.foldl State.takeFlip s with windows := s.windows, events := s.events } = s := by
  exact foldl_only (fun a b => { a with windows := b.windows, events := b.events })
    (fun _ _ _ => rfl) State.takeFlip State.takeFlip_only is rfl

@[simp] theorem State.foldl_takeFlip_frame (s : State) (is : List Slot) :
    (is.foldl State.takeFlip s).pending = s.pending ∧ (is.foldl State.takeFlip s).resetN = s.resetN ∧
    (is.foldl State.takeFlip s).pins = s.pins ∧ (is.foldl State.takeFlip s).mem = s.mem ∧
    (is.foldl State.takeFlip s).pool = s.pool ∧ (is.foldl State.takeFlip s).stack = s.stack ∧
    (is.foldl State.takeFlip s).scanout = s.scanout ∧ (is.foldl State.takeFlip s).queues = s.queues ∧
    (is.foldl State.takeFlip s).lastServed = s.lastServed ∧ (is.foldl State.takeFlip s).engine = s.engine ∧
    (is.foldl State.takeFlip s).stamps = s.stamps ∧ (is.foldl State.takeFlip s).ownedStamps = s.ownedStamps ∧
    (is.foldl State.takeFlip s).contacts = s.contacts ∧ (is.foldl State.takeFlip s).links = s.links ∧
    (∀ k, (is.foldl State.takeFlip s).link k = s.link k) ∧ (∀ k, (is.foldl State.takeFlip s).isUp k = s.isUp k) ∧
    (∀ k, (is.foldl State.takeFlip s).queue k = s.queue k) ∧ (∀ j, (is.foldl State.takeFlip s).stamp j = s.stamp j) ∧
    (∀ j, (is.foldl State.takeFlip s).contact j = s.contact j) := by
  have only := s.foldl_takeFlip_only is
  generalize is.foldl State.takeFlip s = t at only ⊢
  exact ⟨(congrArg State.pending only :), (congrArg State.resetN only :), (congrArg State.pins only :),
    (congrArg State.mem only :), (congrArg State.pool only :), (congrArg State.stack only :),
    (congrArg State.scanout only :), (congrArg State.queues only :), (congrArg State.lastServed only :),
    (congrArg State.engine only :), (congrArg State.stamps only :), (congrArg State.ownedStamps only :),
    (congrArg State.contacts only :), (congrArg State.links only :),
    fun k => (congrArg (fun u : State => u.link k) only :), fun k => (congrArg (fun u : State => u.isUp k) only :),
    fun k => (congrArg (fun u : State => u.queue k) only :), fun j => (congrArg (fun u : State => u.stamp j) only :),
    fun j => (congrArg (fun u : State => u.contact j) only :)⟩

theorem State.updateMarks_only (s : State) :
    { s.updateMarks with pool := s.pool, windows := s.windows, events := s.events, links := s.links } = s := by
  unfold State.updateMarks State.markGlass
  apply State.eq_of_parts <;> first | with_reducible rfl | simp

@[simp] theorem State.updateMarks_frame (s : State) :
    (s.updateMarks).pending = s.pending ∧ (s.updateMarks).resetN = s.resetN ∧ (s.updateMarks).pins = s.pins ∧
    (s.updateMarks).mem = s.mem ∧ (s.updateMarks).stack = s.stack ∧ (s.updateMarks).scanout = s.scanout ∧
    (s.updateMarks).queues = s.queues ∧ (s.updateMarks).lastServed = s.lastServed ∧
    (s.updateMarks).engine = s.engine ∧ (s.updateMarks).stamps = s.stamps ∧
    (s.updateMarks).ownedStamps = s.ownedStamps ∧ (s.updateMarks).contacts = s.contacts ∧
    (∀ k, (s.updateMarks).queue k = s.queue k) ∧ (∀ j, (s.updateMarks).stamp j = s.stamp j) ∧
    (∀ j, (s.updateMarks).contact j = s.contact j) := by
  have only := s.updateMarks_only
  generalize s.updateMarks = t at only ⊢
  exact ⟨(congrArg State.pending only :), (congrArg State.resetN only :), (congrArg State.pins only :),
    (congrArg State.mem only :), (congrArg State.stack only :), (congrArg State.scanout only :),
    (congrArg State.queues only :), (congrArg State.lastServed only :), (congrArg State.engine only :),
    (congrArg State.stamps only :), (congrArg State.ownedStamps only :), (congrArg State.contacts only :),
    fun k => (congrArg (fun u : State => u.queue k) only :), fun j => (congrArg (fun u : State => u.stamp j) only :),
    fun j => (congrArg (fun u : State => u.contact j) only :)⟩

theorem State.frameParts_only (s : State) :
    { s.frameParts with
        pool := s.pool, windows := s.windows, scanout := s.scanout, events := s.events, links := s.links } = s := by
  unfold State.frameParts State.latch
  apply State.eq_of_parts <;> first | with_reducible rfl | simp

@[simp] theorem State.frameParts_frame (s : State) :
    (s.frameParts).pending = s.pending ∧ (s.frameParts).resetN = s.resetN ∧ (s.frameParts).pins = s.pins ∧
    (s.frameParts).mem = s.mem ∧ (s.frameParts).stack = s.stack ∧ (s.frameParts).queues = s.queues ∧
    (s.frameParts).lastServed = s.lastServed ∧ (s.frameParts).engine = s.engine ∧ (s.frameParts).stamps = s.stamps ∧
    (s.frameParts).ownedStamps = s.ownedStamps ∧ (s.frameParts).contacts = s.contacts ∧
    (∀ k, (s.frameParts).queue k = s.queue k) ∧ (∀ j, (s.frameParts).stamp j = s.stamp j) ∧
    (∀ j, (s.frameParts).contact j = s.contact j) := by
  have only := s.frameParts_only
  generalize s.frameParts = t at only ⊢
  exact ⟨(congrArg State.pending only :), (congrArg State.resetN only :), (congrArg State.pins only :),
    (congrArg State.mem only :), (congrArg State.stack only :), (congrArg State.queues only :),
    (congrArg State.lastServed only :), (congrArg State.engine only :), (congrArg State.stamps only :),
    (congrArg State.ownedStamps only :), (congrArg State.contacts only :),
    fun k => (congrArg (fun u : State => u.queue k) only :), fun j => (congrArg (fun u : State => u.stamp j) only :),
    fun j => (congrArg (fun u : State => u.contact j) only :)⟩

theorem State.startFrame_only (s : State) :
    { s.startFrame with
        pool := s.pool, windows := s.windows, scanout := s.scanout, queues := s.queues, lastServed := s.lastServed,
        engine := s.engine, stamps := s.stamps, ownedStamps := s.ownedStamps, events := s.events,
        links := s.links } = s := by
  unfold State.startFrame
  apply State.eq_of_parts <;> first | with_reducible rfl | simp

@[simp] theorem State.startFrame_frame (s : State) :
    (s.startFrame).pending = s.pending ∧ (s.startFrame).resetN = s.resetN ∧ (s.startFrame).pins = s.pins ∧
    (s.startFrame).mem = s.mem ∧ (s.startFrame).stack = s.stack ∧ (s.startFrame).contacts = s.contacts ∧
    (∀ j, (s.startFrame).contact j = s.contact j) := by
  have only := s.startFrame_only
  generalize s.startFrame = t at only ⊢
  exact ⟨(congrArg State.pending only :), (congrArg State.resetN only :), (congrArg State.pins only :),
    (congrArg State.mem only :), (congrArg State.stack only :), (congrArg State.contacts only :),
    fun j => (congrArg (fun u : State => u.contact j) only :)⟩

/-! ### The lease timer -/

theorem LinkCtl.leaseReached_iff (c : LinkCtl) :
    c.leaseReached = true ↔ ∃ n lease, c.timer = some n ∧ c.lease = some lease ∧ lease ≤ n := by
  unfold LinkCtl.leaseReached
  cases c.timer <;> cases c.lease <;> simp

/-- One millisecond of a link whose lease is not reached counts its timer, if it runs. -/
theorem State.tickLink_of_not_reached (s : State) (l : Link) (h : (s.link l).leaseReached = false) :
    s.tickLink l = s.setLink l { s.link l with timer := (s.link l).timer.map fun n => n + 1 } := by
  simp [State.tickLink, h]

/-- One millisecond of a link whose lease is reached ends its session. -/
theorem State.tickLink_of_reached (s : State) (l : Link) (h : (s.link l).leaseReached = true) :
    s.tickLink l = s.endSession l .lease := by
  simp [State.tickLink, h, State.expireLease]

end Sys2Proof.Machine
end

