-- ==== Sys2Proof/Laws/Answers.lean ====
section
/-! SUPPORT. The transmitter, and what an answer leaves: `command_answers` and `answerOutside_answers` say once what every
executed command and every answer outside the sequence make of the state. -/

namespace Sys2Proof.Machine

open Sys2Proof

/-! ### The oldest unsent record -/

theorem takeUnsent_eq_none {rs : List EventRecord} : takeUnsent rs = none ↔ ∀ r ∈ rs, r.sent = true := by
  induction rs with
  | nil => simp [takeUnsent]
  | cons r rs ih =>
    simp only [takeUnsent, List.forall_mem_cons]
    split
    · rename_i hr
      simp [ih, hr]
    · rename_i hr
      simp [hr]

/-- The record taken is the oldest unsent one; it and the records that stay show it sent. -/
theorem takeUnsent_append {old : List EventRecord} (h : ∀ r ∈ old, r.sent = true) (e : EventRecord) (he : e.sent = false)
    (new : List EventRecord) :
    takeUnsent (old ++ e :: new) = some ({ e with sent := true }, old ++ { e with sent := true } :: new) := by
  induction old with
  | nil => simp [takeUnsent, he]
  | cons r old ih =>
    simp only [List.cons_append, takeUnsent, h r List.mem_cons_self, if_true,
      ih fun x hx => h x (List.mem_cons_of_mem _ hx), Option.map_some]

/-- What a record taken says of the records: it is the oldest unsent one. -/
theorem takeUnsent_eq_some {rs rs' : List EventRecord} {e' : EventRecord} (h : takeUnsent rs = some (e', rs')) :
    ∃ old e new, rs = old ++ e :: new ∧ (∀ r ∈ old, r.sent = true) ∧ e.sent = false ∧ e' = { e with sent := true } ∧
      rs' = old ++ { e with sent := true } :: new := by
  induction rs generalizing rs' with
  | nil => simp [takeUnsent] at h
  | cons r rs ih =>
    simp only [takeUnsent] at h
    split at h
    · rename_i hr
      obtain ⟨⟨e1, rs1⟩, h1, h2⟩ := Option.map_eq_some_iff.1 h
      simp only [Prod.mk.injEq] at h2
      obtain ⟨rfl, rfl⟩ := h2
      obtain ⟨old, e, new, h3, h4, h5, h6, h7⟩ := ih h1
      exact ⟨r :: old, e, new, by simp [h3], by simpa [hr] using h4, h5, h6, by simp [h7]⟩
    · rename_i hr
      simp only [Option.some.injEq, Prod.mk.injEq] at h
      exact ⟨[], r, rs, rfl, by simp, by simpa using hr, h.1.symm, by simpa using h.2.symm⟩

/-! ### The transmitter -/

/-- Whether a transmitter is settled depends on its link's controller and event queue alone. -/
theorem State.settled_congr {s t : State} {l : Link} (hl : t.link l = s.link l) (he : t.eventsOf l = s.eventsOf l) :
    t.settled l ↔ s.settled l := by simp only [State.settled, hl, he]

/-- A settled transmitter takes nothing. -/
theorem State.transmit_of_settled {s : State} {l : Link} (h : s.settled l) : s.transmit l = s := by
  unfold State.transmit
  dsimp only
  split
  · rename_i htx
    obtain ⟨hb, he⟩ := h htx
    rw [hb]
    dsimp only
    split
    · rename_i hup
      rw [takeUnsent_eq_none.2 (he hup.1 hup.2)]
    · rfl
  · rfl
  · rfl

/-- A transmitter that is sending takes nothing. -/
theorem State.transmit_of_busy {s : State} {l : Link} (h : (s.link l).tx ≠ .idle) : s.transmit l = s :=
  State.transmit_of_settled fun e => absurd e h

/-- An idle transmitter takes the oldest response that waits. -/
theorem State.transmit_response {s : State} {l : Link} {r : Response} {rest : List Response} (h : (s.link l).tx = .idle)
    (hb : (s.link l).backlog = r :: rest) :
    s.transmit l = s.setLink l { s.link l with tx := .response r, backlog := rest } := by
  unfold State.transmit
  simp only [h, hb]

/-- An idle transmitter of an UP link without a waiting response takes the oldest unsent record. -/
theorem State.transmit_event {s : State} {l : Link} {old new : List EventRecord} {e : EventRecord}
    (h : (s.link l).tx = .idle) (hb : (s.link l).backlog = []) (hu : (s.link l).state = .up)
    (hn : (s.eventsOf l).sentCount < 8) (hr : (s.eventsOf l).records = old ++ e :: new) (ho : ∀ r ∈ old, r.sent = true)
    (he : e.sent = false) :
    s.transmit l = (s.setLink l { s.link l with tx := .event { e with sent := true } }).setEvents l
      { s.eventsOf l with records := old ++ { e with sent := true } :: new, sentCount := (s.eventsOf l).sentCount + 1 } := by
  unfold State.transmit
  simp only [h, hb, hr, takeUnsent_append ho e he, Config.sentLimit, hu, hn, and_self, if_true]

/-- What the transmitter of a link takes, it takes from that link's controller and event queue. -/
theorem State.transmit_link_ne (s : State) {l k : Link} (h : k ≠ l) : (s.transmit l).link k = s.link k := by
  unfold State.transmit
  dsimp only
  (repeat' split) <;> simp [h]

theorem State.transmit_eventsOf_ne (s : State) {l k : Link} (h : k ≠ l) : (s.transmit l).eventsOf k = s.eventsOf k := by
  unfold State.transmit
  dsimp only
  (repeat' split) <;> simp [h]

/-- Nothing of a link's controller but its transmitter and backlog changes, and a frame under way goes on. -/
theorem State.transmit_link (s : State) (l : Link) :
    { (s.transmit l).link l with tx := (s.link l).tx, backlog := (s.link l).backlog } = s.link l ∧
      ((s.link l).tx ≠ .idle → (s.transmit l).link l = s.link l) := by
  refine ⟨?_, fun h => by rw [State.transmit_of_busy h]⟩
  unfold State.transmit
  dsimp only
  (repeat' split) <;> simp

@[simp] theorem State.transmit_isUp (s : State) (l k : Link) : (s.transmit l).isUp k = s.isUp k := by
  by_cases h : k = l
  · subst h
    have := congrArg LinkCtl.state (s.transmit_link k).1
    simp only at this
    simp only [State.isUp, this]
  · simp only [State.isUp, s.transmit_link_ne h]

/-- After its choice a transmitter is settled. -/
theorem State.settled_transmit (s : State) (l : Link) : (s.transmit l).settled l := by
  unfold State.transmit
  dsimp only
  split
  · rename_i htx
    split
    · intro h; simp at h
    · rename_i hb
      split
      · rename_i hup
        split
        · intro h; simp at h
        · rename_i hn
          exact fun _ => ⟨hb, fun _ _ => takeUnsent_eq_none.1 hn⟩
      · rename_i hup
        exact fun _ => ⟨hb, fun h1 h2 => absurd ⟨h1, h2⟩ hup⟩
  · rename_i h
    exact fun e => by simp [h] at e
  · rename_i h
    exact fun e => by simp [h] at e

/-- The choice of one transmitter leaves the others settled or not as they were. -/
theorem State.settled_transmit_ne (s : State) {l k : Link} (h : k ≠ l) : (s.transmit l).settled k ↔ s.settled k :=
  State.settled_congr (s.transmit_link_ne h) (s.transmit_eventsOf_ne h)

/-- A settled transmitter stays settled while the others choose. -/
theorem State.settled_foldl_transmit (ls : List Link) {s : State} {k : Link} (h : s.settled k ∨ k ∈ ls) :
    (ls.foldl State.transmit s).settled k := by
  induction ls generalizing s with
  | nil => simpa using h
  | cons l ls ih =>
    apply ih
    by_cases hk : k = l
    · subst hk
      exact Or.inl (s.settled_transmit k)
    · rcases h with h | h
      · exact Or.inl ((s.settled_transmit_ne hk).2 h)
      · exact Or.inr (by simpa [hk] using h)

/-- After every transmitter has chosen, every one is settled. -/
theorem State.settled_transmitAll (s : State) (l : Link) : s.transmitAll.settled l :=
  State.settled_foldl_transmit allLinks (Or.inr (by cases l <;> decide))

/-- Where only one transmitter may have something to take, the choice of all is the choice of that one. -/
theorem State.transmitAll_of_others {s : State} {l : Link} (h : ∀ k, k ≠ l → s.settled k) : s.transmitAll = s.transmit l := by
  have step : ∀ (ls : List Link) (t : State), (∀ k, k ≠ l → t.settled k) →
      ls.foldl State.transmit t = if l ∈ ls then t.transmit l else t := by
    intro ls
    induction ls with
    | nil => intro t _; rfl
    | cons k ls ih =>
      intro t ht
      rw [List.foldl_cons]
      by_cases hk : k = l
      · subst hk
        rw [ih _ fun j hj => (t.settled_transmit_ne hj).2 (ht j hj), if_pos List.mem_cons_self,
          State.transmit_of_settled (t.settled_transmit k), ite_self]
      · rw [State.transmit_of_settled (ht k hk), ih t ht]
        simp [Ne.symm hk]
  rw [State.transmitAll, step allLinks s h, if_pos (by cases l <;> decide)]

/-- Where no transmitter has anything to take, nothing changes. -/
theorem State.transmitAll_of_settled {s : State} (h : TransmitterLaw s) : s.transmitAll = s := by
  rw [State.transmitAll_of_others (l := .A) fun k _ => h k, State.transmit_of_settled (h .A)]

/-! ### Answers -/

/-- The sent or waiting responses after one more is produced and the transmitter has chosen. -/
theorem State.transmit_answered {s : State} {l : Link} {c : LinkCtl} {r : Response} :
    let d := ((s.setLink l (c.answer r)).transmit l).link l
    d.outgoing = c.outgoing ++ [r] ∧ d.tx ≠ .idle ∧ (c.tx ≠ .idle → d.tx = c.tx) ∧
      { d with tx := c.tx, backlog := c.backlog } = c ∧
      (s.setLink l (c.answer r)).transmit l = s.setLink l d := by
  intro d
  by_cases htx : c.tx = .idle
  · obtain ⟨x, rest, hx⟩ : ∃ x rest, c.backlog ++ [r] = x :: rest :=
      List.exists_cons_of_ne_nil (by simp)
    have ht := State.transmit_response (s := s.setLink l (c.answer r)) (l := l) (r := x) (rest := rest)
      (by simp [LinkCtl.answer, htx]) (by simp [LinkCtl.answer, hx])
    have hd : d = { c.answer r with tx := .response x, backlog := rest } := by
      change ((s.setLink l (c.answer r)).transmit l).link l = _
      rw [ht]; simp
    refine ⟨?_, ?_, fun h => absurd htx h, ?_, ?_⟩
    · simp [hd, LinkCtl.outgoing, htx, hx]
    · simp [hd]
    · simp [hd, LinkCtl.answer]
    · rw [hd, ht]; simp
  · have ht := State.transmit_of_busy (s := s.setLink l (c.answer r)) (l := l) (by simpa [LinkCtl.answer] using htx)
    have hd : d = c.answer r := by
      change ((s.setLink l (c.answer r)).transmit l).link l = _
      rw [ht]; simp
    refine ⟨?_, ?_, fun _ => ?_, ?_, ?_⟩
    · simp [hd, LinkCtl.outgoing, LinkCtl.answer]
    · simpa [hd, LinkCtl.answer] using htx
    · simp [hd, LinkCtl.answer]
    · simp [hd, LinkCtl.answer]
    · rw [hd, ht]

/-- An answer outside the sequence, with room in the backlog. -/
theorem State.answerOutside_answers {s : State} {l : Link} (hb : (s.link l).backlog.length < 4)
    (code seq : Byte) (status : Status) :
    AnswersOutside s ((s.answerOutside l code seq status).transmit l) l ⟨code, seq, status, (s.link l).expected, .none⟩ := by
  have hfull : (s.link l).backlogFull = false := by
    simp only [LinkCtl.backlogFull, Config.backlogLimit, decide_eq_false_iff_not]; omega
  have key := State.transmit_answered (s := s) (l := l) (c := s.link l)
    (r := (s.link l).response code seq status .none)
  simp only at key
  obtain ⟨h1, h2, h3, h4, h5⟩ := key
  have he : s.answerOutside l code seq status = s.setLink l ((s.link l).answer ((s.link l).response code seq status .none)) := by
    simp [State.answerOutside, hfull]
  refine ⟨?_, fun k hk => ?_, ?_, ?_, ?_, ?_⟩
  · rw [he, h5]; rfl
  · rw [he, h5]; simp [hk]
  · rw [he]; exact h1
  · rw [he]; exact h2
  · rw [he]; exact h3
  · rw [he]; exact h4

/-- With 4 responses waiting an answer outside the sequence is discarded. -/
theorem State.answerOutside_full {s : State} {l : Link} (hb : 4 ≤ (s.link l).backlog.length) (code seq : Byte)
    (status : Status) : s.answerOutside l code seq status = s := by
  have hfull : (s.link l).backlogFull = true := by
    simpa only [LinkCtl.backlogFull, Config.backlogLimit, decide_eq_true_eq] using hb
  simp [State.answerOutside, hfull]

/-! ### Executed commands -/

/-- The state that the body of an executed command is applied to: the lease has been renewed (R166). -/
def State.renewedLease (s : State) (l : Link) : State := s.setLink l (s.link l).renewed

/-- A link that is ready executes the command: its body's reply is delivered. -/
theorem State.takeFrame_of_ready {s : State} {l : Link} {seq : Byte} (h : s.ready l seq) (code : Byte)
    (body : State → Reply) : s.takeFrame l seq code body = (body (s.renewedLease l)).deliver l seq code := by
  obtain ⟨-, hup, hg, hb, hs⟩ := h
  have hfull : (s.link l).backlogFull = false := by
    simp only [LinkCtl.backlogFull, Config.backlogLimit, decide_eq_false_iff_not]; omega
  simp [State.takeFrame, State.takeUp, State.takeSequenced, State.renewedLease, hup, hg, hfull, LinkCtl.renewed, hs]

/-- The answer to an executed command: where the body, applied to the state with the lease renewed, leaves the state u with the
lease renewed, the command leaves u with the answer. -/
theorem State.deliver_answers {u : State} {l : Link} {seq code : Byte} {status : Status} {result : Result}
    (hseq : (u.link l).expected = seq) :
    Answers u (((⟨u.renewedLease l, status, result⟩ : Reply).deliver l seq code).transmit l) l seq code status result := by
  subst hseq
  have key := State.transmit_answered (s := u.renewedLease l) (l := l)
    (c := { (u.link l).renewed with
      expected := (u.link l).expected + 1
      cache := cached (u.link l).cache
        ((u.link l).expected, executedResponse (u.link l).expected code status result) })
    (r := executedResponse (u.link l).expected code status result)
  simp only at key
  obtain ⟨h1, h2, h3, h4, h5⟩ := key
  have he : (⟨u.renewedLease l, status, result⟩ : Reply).deliver l (u.link l).expected code =
      (u.renewedLease l).setLink l (LinkCtl.answer { (u.link l).renewed with
        expected := (u.link l).expected + 1
        cache := cached (u.link l).cache
          ((u.link l).expected, executedResponse (u.link l).expected code status result) }
        (executedResponse (u.link l).expected code status result)) := by
    simp [Reply.deliver, State.renewedLease, LinkCtl.executed, LinkCtl.response, executedResponse, LinkCtl.answer,
      LinkCtl.renewed]
  rw [he]
  generalize hd : ((State.setLink (u.renewedLease l) l (LinkCtl.answer _ _)).transmit l).link l = d at h1 h2 h3 h4 h5
  refine ⟨?_, fun k hk => ?_, ?_⟩
  · rw [h5]; rfl
  · rw [h5]; simp [State.renewedLease, hk]
  · rw [hd]
    cases d
    simp only [LinkCtl.mk.injEq] at h4
    obtain ⟨rfl, rfl, rfl, rfl, -, rfl, rfl, rfl, rfl, -, rfl, rfl⟩ := h4
    refine ⟨h1, h2, h3, ?_, rfl, rfl, rfl⟩
    simp only [cached, Config.backlogLimit, List.length_append, List.length_singleton]
    congr 1

/-- What every executed command leaves (the commands whose rule reaches only their own link's transmitter). -/
theorem State.command_answers {s u : State} {l : Link} {seq code : Byte} {status : Status} {result : Result}
    {body : State → Reply} (h : s.ready l seq) (hbody : body (s.renewedLease l) = ⟨u.renewedLease l, status, result⟩)
    (hlink : (u.link l).expected = (s.link l).expected) : Answers u (s.command l seq code body) l seq code status result := by
  rw [State.command, if_pos h.1, State.takeFrame_of_ready h, hbody]
  exact State.deliver_answers (hlink.trans h.2.2.2.2.symm)

/-- The same for the commands that end in every transmitter's choice, where the other links' have nothing to take. -/
theorem State.commandAll_answers {s u : State} {l : Link} {seq code : Byte} {status : Status} {result : Result}
    {body : State → Reply} (h : s.ready l seq) (hbody : body (s.renewedLease l) = ⟨u.renewedLease l, status, result⟩)
    (hlink : (u.link l).expected = (s.link l).expected) (hothers : ∀ k, k ≠ l → u.settled k) :
    Answers u (s.commandAll l seq code body) l seq code status result := by
  rw [State.commandAll, if_pos h.1, State.takeFrame_of_ready h, hbody, State.transmitAll_of_others]
  · exact State.deliver_answers (hlink.trans h.2.2.2.2.symm)
  · intro k hk
    refine (State.settled_congr ?_ ?_).2 (hothers k hk) <;> simp [Reply.deliver, State.renewedLease, hk]

end Sys2Proof.Machine
end

