-- ==== Sys2Proof/Laws/Memory.lean ====
section
/-! SUPPORT. Surface memory: every operation keeps the canonical form, what is read after a write or a scrub, and that equal
reads are equal memories. -/

namespace Sys2Proof.Machine

open Sys2Proof

theorem Memory.wf_nil : Memory.wf [] := by simp [Memory.wf]

theorem Memory.wf_cons (a : Nat) (v : Byte) (m : Memory) :
    Memory.wf ((a, v) :: m) ↔ (∀ c ∈ m, a < c.1) ∧ v ≠ Config.unlistedByte ∧ Memory.wf m := by
  simp only [Memory.wf, List.pairwise_cons, List.forall_mem_cons]
  tauto

/-- A byte below every listed address reads as an unlisted byte. -/
theorem readByte_below (m : Memory) (a : Nat) (h : ∀ c ∈ m, a < c.1) : readByte m a = Config.unlistedByte := by
  induction m with
  | nil => rfl
  | cons c m ih =>
    have hne : c.1 ≠ a := Nat.ne_of_gt (h c List.mem_cons_self)
    simp only [readByte, if_neg hne]
    exact ih fun d hd => h d (List.mem_cons_of_mem _ hd)

/-- The addresses after a write are the written one and those before it. -/
theorem mem_writeByte (m : Memory) (a : Nat) (v : Byte) (c : Host.Cell) (h : c ∈ writeByte m a v) :
    c = (a, v) ∧ v ≠ Config.unlistedByte ∨ c ∈ m := by
  induction m with
  | nil =>
    simp only [writeByte] at h
    split at h <;> simp_all
  | cons d m ih =>
    obtain ⟨k, w⟩ := d
    simp only [writeByte] at h
    repeat' split at h
    all_goals
      simp only [List.mem_cons] at h ⊢
      tauto

/-- A write keeps the canonical form. -/
theorem Memory.wf_writeByte (m : Memory) (a : Nat) (v : Byte) (h : Memory.wf m) : Memory.wf (writeByte m a v) := by
  induction m with
  | nil =>
    simp only [writeByte]
    split
    · exact Memory.wf_nil
    · rename_i hv
      exact (Memory.wf_cons a v []).2 ⟨by simp, hv, Memory.wf_nil⟩
  | cons d m ih =>
    obtain ⟨k, w⟩ := d
    obtain ⟨hk, hw, hm⟩ := (Memory.wf_cons k w m).1 h
    simp only [writeByte]
    split
    · rename_i hlt
      split
      · exact h
      · rename_i hv
        refine (Memory.wf_cons a v _).2 ⟨fun c hc => ?_, hv, h⟩
        rcases List.mem_cons.1 hc with rfl | hc
        · exact hlt
        · exact Nat.lt_trans hlt (hk c hc)
    · split
      · rename_i he
        split
        · exact hm
        · rename_i hv
          exact (Memory.wf_cons a v m).2 ⟨he ▸ hk, hv, hm⟩
      · rename_i hlt hne
        refine (Memory.wf_cons k w _).2 ⟨fun c hc => ?_, hw, ih hm⟩
        rcases mem_writeByte m a v c hc with ⟨rfl, -⟩ | hc
        · exact Nat.lt_of_le_of_ne (Nat.not_lt.1 hlt) (Ne.symm hne)
        · exact hk c hc

theorem Memory.wf_writePixel (m : Memory) (a : Nat) (p : Pixel) (h : Memory.wf m) : Memory.wf (writePixel m a p) :=
  Memory.wf_writeByte _ _ _ (Memory.wf_writeByte _ _ _ h)

/-- A scrub keeps the canonical form. -/
theorem Memory.wf_clearPage (m : Memory) (page : Nat) (h : Memory.wf m) : Memory.wf (clearPage m page) :=
  ⟨h.1.filter _, fun c hc => h.2 c (List.mem_filter.1 hc).1⟩

/-- What is read after a write: the written byte at its address, every other byte as before. -/
theorem readByte_writeByte (m : Memory) (a : Nat) (v : Byte) (b : Nat) (h : Memory.wf m) :
    readByte (writeByte m a v) b = if b = a then v else readByte m b := by
  induction m with
  | nil =>
    simp only [writeByte]
    split
    · rename_i hv
      simp [readByte, hv]
    · simp only [readByte, eq_comm]
  | cons d m ih =>
    obtain ⟨k, w⟩ := d
    obtain ⟨hk, hw, hm⟩ := (Memory.wf_cons k w m).1 h
    simp only [writeByte]
    split
    · rename_i hlt
      have hbelow : readByte ((k, w) :: m) a = Config.unlistedByte :=
        readByte_below _ a fun c hc => by
          rcases List.mem_cons.1 hc with rfl | hc
          · exact hlt
          · exact Nat.lt_trans hlt (hk c hc)
      split
      · rename_i hv
        split
        · rename_i hb
          rw [hb, hbelow, hv]
        · rfl
      · by_cases hb : b = a
        · simp [readByte, hb]
        · rw [if_neg hb, readByte, if_neg (Ne.symm hb)]
    · split
      · rename_i he
        subst he
        split
        · rename_i hv
          by_cases hb : b = a
          · rw [if_pos hb, hb, hv]
            exact readByte_below m a hk
          · rw [if_neg hb, readByte, if_neg (Ne.symm hb)]
        · by_cases hb : b = a
          · simp [readByte, hb]
          · simp [readByte, Ne.symm hb, hb]
      · rename_i hlt hne
        by_cases hb : b = k
        · subst hb
          simp [readByte, Ne.symm hne]
        · simp only [readByte, if_neg (Ne.symm hb)]
          exact ih hm

/-- What is read after a pixel is written. -/
theorem readByte_writePixel (m : Memory) (a : Nat) (p : Pixel) (b : Nat) (h : Memory.wf m) :
    readByte (writePixel m a p) b = if b = a then hiByte p else if b = a + 1 then loByte p else readByte m b := by
  simp only [writePixel, readByte_writeByte _ _ _ _ (Memory.wf_writeByte m a _ h), readByte_writeByte _ _ _ _ h]
  by_cases h1 : b = a
  · simp [h1]
  · simp [h1]

/-- A pixel put together from its two bytes. -/
theorem be16_bytes (p : Pixel) : be16 (hiByte p) (loByte p) = p := by
  apply BitVec.eq_of_toNat_eq
  have hp := p.isLt
  simp only [be16, hiByte, loByte, BitVec.toNat_append, BitVec.extractLsb'_toNat, Nat.shiftRight_zero]
  rw [← Nat.shiftLeft_add_eq_or_of_lt (by omega)]
  simp only [Nat.shiftLeft_eq, Nat.shiftRight_eq_div_pow]
  omega

@[simp] theorem readPixel_writePixel_self (m : Memory) (a : Nat) (p : Pixel) (h : Memory.wf m) :
    readPixel (writePixel m a p) a = p := by
  rw [readPixel, readByte_writePixel m a p a h, readByte_writePixel m a p (a + 1) h]
  simp [be16_bytes]

/-- Pixels whose bytes do not meet the written ones read as before. -/
theorem readPixel_writePixel_ne (m : Memory) (a b : Nat) (p : Pixel) (h : Memory.wf m) (h0 : b ≠ a) (h1 : b ≠ a + 1)
    (h2 : b + 1 ≠ a) : readPixel (writePixel m a p) b = readPixel m b := by
  have h3 : b + 1 ≠ a + 1 := fun e => h0 (Nat.succ.inj e)
  rw [readPixel, readByte_writePixel m a p b h, readByte_writePixel m a p (b + 1) h]
  simp [readPixel, h0, h1, h2]

/-- A byte after a filter of the cells that keeps every cell of its address, or drops every one. -/
theorem readByte_filter (m : Memory) (keep : Nat → Bool) (a : Nat) :
    readByte (m.filter fun c => keep c.1) a = if keep a then readByte m a else Config.unlistedByte := by
  induction m with
  | nil => simp [readByte]
  | cons c m ih =>
    obtain ⟨k, v⟩ := c
    by_cases hk : keep k
    · rw [List.filter_cons_of_pos (by simpa using hk)]
      by_cases ha : k = a
      · subst ha; simp [readByte, hk]
      · simp only [readByte, if_neg ha]; exact ih
    · rw [List.filter_cons_of_neg (by simpa using hk), ih]
      by_cases ha : k = a
      · subst ha; simp [hk]
      · simp [readByte, ha]

/-- What is read after a scrub: the page's bytes are zero, every other byte as before. -/
theorem readByte_clearPage (m : Memory) (page a : Nat) :
    readByte (clearPage m page) a = if page * 2048 ≤ a ∧ a < (page + 1) * 2048 then 0 else readByte m a := by
  have h := readByte_filter m
    (fun k => !(decide (page * Config.pageBytes ≤ k) && decide (k < (page + 1) * Config.pageBytes))) a
  simp only [clearPage]
  rw [h]
  by_cases hc : page * 2048 ≤ a ∧ a < (page + 1) * 2048
  · rw [if_neg (by simpa [Config.pageBytes] using hc), if_pos hc]
    rfl
  · rw [if_neg hc, if_pos]
    simp only [Config.pageBytes, Bool.not_eq_true', Bool.and_eq_false_iff, decide_eq_false_iff_not]
    omega

/-- Two memories in canonical form that read alike are the same list. -/
theorem Memory.ext_readByte (m n : Memory) (hm : Memory.wf m) (hn : Memory.wf n)
    (h : ∀ a, readByte m a = readByte n a) : m = n := by
  induction m generalizing n with
  | nil =>
    cases n with
    | nil => rfl
    | cons c n =>
      have := h c.1
      simp only [readByte, if_pos] at this
      exact absurd this.symm (hn.2 c List.mem_cons_self)
  | cons c m ih =>
    obtain ⟨k, v⟩ := c
    obtain ⟨hk, hv, hm'⟩ := (Memory.wf_cons k v m).1 hm
    cases n with
    | nil =>
      have := h k
      simp only [readByte, if_pos] at this
      exact absurd this hv
    | cons d n =>
      obtain ⟨j, w⟩ := d
      obtain ⟨hj, hw, hn'⟩ := (Memory.wf_cons j w n).1 hn
      have hkj : k = j := by
        rcases Nat.lt_trichotomy k j with hlt | he | hgt
        · exfalso
          have := h k
          rw [readByte_below ((j, w) :: n) k (fun c hc => by
            rcases List.mem_cons.1 hc with rfl | hc
            · exact hlt
            · exact Nat.lt_trans hlt (hj c hc))] at this
          exact hv (by simpa [readByte] using this)
        · exact he
        · exfalso
          have := h j
          rw [readByte_below ((k, v) :: m) j (fun c hc => by
            rcases List.mem_cons.1 hc with rfl | hc
            · exact hgt
            · exact Nat.lt_trans hgt (hk c hc))] at this
          exact hw (by simpa [readByte] using this.symm)
      subst hkj
      have hvw : v = w := by simpa [readByte] using h k
      subst hvw
      refine congrArg _ (ih n hm' hn' fun a => ?_)
      by_cases ha : k = a
      · subst ha
        rw [readByte_below m k hk, readByte_below n k hj]
      · simpa [readByte, ha] using h a

/-- Surface memory after reset is in canonical form. -/
theorem Memory.wf_reset : Memory.wf State.reset.mem := Memory.wf_nil

/-- The bytes of an address inside a page and outside it: a place of a page lies in its page. -/
theorem pageAddr_bounds (page offset : Nat) (h : offset < 1024) :
    page * 2048 ≤ pageAddr page offset ∧ pageAddr page offset + 1 < (page + 1) * 2048 := by
  simp only [pageAddr, Config.pageBytes]
  omega

/-- Where a buffer index lies: the entry and the offset of R30. -/
theorem pixelAddr_eq_some {pages : List Nat} {index a : Nat} :
    pixelAddr pages index = some a ↔
      ∃ page, pages[index / 1024]? = some page ∧ a = pageAddr page (index % 1024) := by
  simp only [pixelAddr, Config.pagePixels, Option.map_eq_some_iff]
  exact exists_congr fun page => and_congr_right fun _ => eq_comm

/-- Different indices of a buffer without repeated pages lie at addresses two bytes apart. -/
theorem pixelAddr_inj {pages : List Nat} (hn : pages.Nodup) {i j a b : Nat} (hi : pixelAddr pages i = some a)
    (hj : pixelAddr pages j = some b) (hij : i ≠ j) : a ≠ b ∧ a ≠ b + 1 ∧ a + 1 ≠ b := by
  obtain ⟨p, hp, rfl⟩ := pixelAddr_eq_some.1 hi
  obtain ⟨q, hq, rfl⟩ := pixelAddr_eq_some.1 hj
  have hpq : p = q → i / 1024 = j / 1024 := by
    intro e
    subst e
    obtain ⟨h1, e1⟩ := List.getElem?_eq_some_iff.1 hp
    obtain ⟨h2, e2⟩ := List.getElem?_eq_some_iff.1 hq
    exact (List.Nodup.getElem_inj_iff hn).1 (e1.trans e2.symm)
  by_cases hpq' : p = q
  · have := hpq hpq'
    subst hpq'
    simp only [pageAddr, Config.pageBytes]
    omega
  · have h1 : i % 1024 < 1024 := Nat.mod_lt _ (by decide)
    have h2 : j % 1024 < 1024 := Nat.mod_lt _ (by decide)
    simp only [pageAddr, Config.pageBytes]
    rcases Nat.lt_or_gt_of_ne hpq' with h | h <;> omega

end Sys2Proof.Machine
end

