-- ==== Sys2Proof/Laws/Engine.lean ====
section
/-! SUPPORT. The draw engine: what a run of pixels leaves in surface memory, and which values a frame may show. -/

namespace Sys2Proof.Machine

open Sys2Proof

/-- A run of pixels keeps the canonical form of surface memory. -/
theorem drawPixels_wf (op : JobOp) (pages : List Nat) (vs : List SourceValue) (index : Nat) (m : Memory)
    (earlier : List (Nat × Pixel)) (hm : Memory.wf m) : Memory.wf (drawPixels op pages vs index m earlier).1 := by
  induction vs generalizing index m earlier with
  | nil => exact hm
  | cons v vs ih =>
    unfold drawPixels
    split
    · exact ih _ _ _ hm
    · split
      · exact ih _ _ _ hm
      · exact ih _ _ _ (Memory.wf_writePixel _ _ _ hm)

/-- A run of pixels leaves every byte outside the addressed pixels as it was. -/
theorem drawPixels_frame (op : JobOp) (pages : List Nat) (vs : List SourceValue) (index : Nat) (m : Memory)
    (earlier : List (Nat × Pixel)) (hm : Memory.wf m) (b : Nat)
    (h : ∀ i a, i < vs.length → pixelAddr pages (index + i) = some a → b ≠ a ∧ b ≠ a + 1) :
    readByte (drawPixels op pages vs index m earlier).1 b = readByte m b := by
  induction vs generalizing index m earlier with
  | nil => rfl
  | cons v vs ih =>
    have hrest : ∀ i a, i < vs.length → pixelAddr pages (index + 1 + i) = some a → b ≠ a ∧ b ≠ a + 1 := fun i a hi ha =>
      h (i + 1) a (by simp [hi]) (by rw [← ha]; congr 1; omega)
    unfold drawPixels
    split
    · exact ih _ _ _ hm hrest
    · rename_i a ha
      split
      · exact ih _ _ _ hm hrest
      · obtain ⟨h1, h2⟩ := h 0 a (by simp) ha
        rw [ih _ _ _ (Memory.wf_writePixel _ _ _ hm) hrest, readByte_writePixel m a _ b hm, if_neg h1, if_neg h2]

/-- A run of pixels into a buffer without repeated pages forms each pixel once from its source value and its old value. -/
theorem drawPixels_pixel (op : JobOp) (pages : List Nat) (hn : pages.Nodup) (vs : List SourceValue) (index : Nat)
    (m : Memory) (earlier : List (Nat × Pixel)) (hm : Memory.wf m) (i : Nat) (v : SourceValue) (a : Nat)
    (hv : vs[i]? = some v) (ha : pixelAddr pages (index + i) = some a) :
    readPixel (drawPixels op pages vs index m earlier).1 a = (op.formed v (readPixel m a)).getD (readPixel m a) := by
  induction vs generalizing index m earlier i with
  | nil => simp at hv
  | cons w vs ih =>
    cases i with
    | zero =>
      simp only [List.getElem?_cons_zero, Option.some.injEq] at hv
      subst hv
      have later : ∀ m' e, Memory.wf m' → readPixel (drawPixels op pages vs (index + 1) m' e).1 a = readPixel m' a := by
        intro m' e hm'
        have outside : ∀ b, b = a ∨ b = a + 1 → ∀ i c, i < vs.length → pixelAddr pages (index + 1 + i) = some c →
            b ≠ c ∧ b ≠ c + 1 := by
          intro b hb i c _ hc
          obtain ⟨h1, h2, h3⟩ := pixelAddr_inj hn ha hc (by omega)
          omega
        simp only [readPixel, drawPixels_frame _ _ _ _ _ _ hm' _ (outside a (Or.inl rfl)),
          drawPixels_frame _ _ _ _ _ _ hm' _ (outside (a + 1) (Or.inr rfl))]
      unfold drawPixels
      simp only [Nat.add_zero] at ha
      simp only [ha]
      split
      · rename_i hf
        rw [later m _ hm, hf]
        rfl
      · rename_i c hf
        rw [later _ _ (Memory.wf_writePixel _ _ _ hm), readPixel_writePixel_self _ _ _ hm, hf]
        rfl
    | succ i =>
      have ha' : pixelAddr pages (index + 1 + i) = some a := by rw [← ha]; congr 1; omega
      have hv' : vs[i]? = some v := by simpa using hv
      unfold drawPixels
      split
      · exact ih _ _ _ hm i hv' ha'
      · rename_i c hc
        split
        · exact ih _ _ _ hm i hv' ha'
        · obtain ⟨h1, h2, h3⟩ := pixelAddr_inj hn ha hc (by omega)
          have hp : ∀ p, readPixel (writePixel m c p) a = readPixel m a := fun p =>
            readPixel_writePixel_ne m c a p hm h1 h2 h3
          rw [ih _ _ _ (Memory.wf_writePixel _ _ _ hm) i hv' ha', hp]

/-- A run that forms no pixel changes nothing. -/
theorem drawPixels_of_none (op : JobOp) (pages : List Nat) (vs : List SourceValue) (index : Nat) (m : Memory)
    (earlier : List (Nat × Pixel)) (h : ∀ v d, op.formed v d = none) :
    drawPixels op pages vs index m earlier = (m, earlier) := by
  induction vs generalizing index with
  | nil => rfl
  | cons v vs ih =>
    unfold drawPixels
    split
    · exact ih _
    · rw [h]
      exact ih _

/-! ### Positions inside and outside a window -/

theorem Window.hasPixel_iff {w : Window} {x y : Nat} : w.hasPixel x y = true ↔ x < w.width ∧ y < w.height := by
  simp [Window.hasPixel]

/-- Inside its source window a job reads the buffer. -/
theorem State.sourcePixel_inside {s : State} {f : InFlight} {src : Handle} {x y : Nat} (hx : x < (s.window src.slot).width)
    (hy : y < (s.window src.slot).height) :
    s.sourcePixel f src x y = bufferPixel s.mem f.readPages (y * (s.window src.slot).width + x) :=
  if_pos (Window.hasPixel_iff.2 ⟨hx, hy⟩)

/-- Outside it a job reads the free value. -/
theorem State.sourcePixel_outside {s : State} {f : InFlight} {src : Handle} {x y : Nat}
    (h : ¬ (x < (s.window src.slot).width ∧ y < (s.window src.slot).height)) :
    s.sourcePixel f src x y = Config.absentPixel s.scanout.choice x y :=
  if_neg fun e => h (Window.hasPixel_iff.1 e)

/-- A row of a rectangle inside the target window is worked whole. -/
theorem State.take_rowRoom {s : State} {f : InFlight} {h : Handle} {r : Rect} (ht : f.job.op.target = some h)
    (hr : f.job.op.rect = some r) (hx : r.x + f.rowStore.length ≤ (s.window h.slot).width)
    (hy : r.y + f.row < (s.window h.slot).height) : f.rowStore.take (s.rowRoom f) = f.rowStore := by
  apply List.take_of_length_le
  simp only [State.rowRoom, ht, hr, hy, if_true]
  omega

/-- A job without a target writes nothing. -/
theorem State.drawRow_of_no_target {s : State} {f : InFlight} (ht : f.job.op.target = none) : s.drawRow f = s := by
  simp [State.drawRow, State.rowRoom, ht, drawPixels]

/-! ### The values a frame may show -/

/-- What a frame shows of a buffer pixel is one of the values the pixel may show, whatever the free choice. -/
theorem State.shownValue_mem (s : State) (sx sy place : Nat) (pages : List Nat) (index a : Nat)
    (h : pixelAddr pages index = some a) : s.shownValue sx sy place pages index ∈ s.heldValues a := by
  unfold State.shownValue
  simp only [h]
  have hlen : 0 < (s.heldValues a).length := by simp [State.heldValues]
  have hlt := Nat.mod_lt (Config.shownVersion s.scanout.choice sx sy place) hlen
  rw [List.getD_eq_getElem?_getD, List.getElem?_eq_getElem hlt]
  exact List.getElem_mem hlt

/-- With the engine idle and nothing overwritten since the frame start, a frame shows the pixel's value. -/
theorem State.shownValue_of_fresh (s : State) (sx sy place : Nat) (pages : List Nat) (index a : Nat)
    (h : pixelAddr pages index = some a) (hfresh : s.scanout.earlier = [])
    (hidle : s.engine = none) :
    s.shownValue sx sy place pages index = readPixel s.mem a := by
  have := s.shownValue_mem sx sy place pages index a h
  simpa [State.heldValues, State.valueUnderWay, hfresh, hidle] using this

/-! ### The frame on the panel port -/

theorem State.sendsPixel_iff (s : State) (sx sy : Nat) :
    s.sendsPixel sx sy = true ↔ s.resetN = true ∧ sx < screenWidth s.pins.panel ∧ sy < screenHeight s.pins.panel := by
  simp [State.sendsPixel, and_assoc]

/-- A pixel of the frame is one that is sent, with the colour composed there. -/
theorem State.framePixel_eq_some (s : State) (sx sy : Nat) (c : Pixel) :
    s.framePixel sx sy = some c ↔ s.sendsPixel sx sy = true ∧ s.composed sx sy = c := by
  simp [State.framePixel]

/-- A row of the frame, by its number from the top. -/
theorem State.panelFrame_getElem? (s : State) (sy : Nat) :
    s.panelFrame[sy]? =
      if s.resetN = true ∧ sy < screenHeight s.pins.panel then
        some ((List.range (screenWidth s.pins.panel)).map fun sx => s.composed sx sy)
      else none := by
  unfold State.panelFrame
  by_cases hr : s.resetN = true
  · by_cases hy : sy < screenHeight s.pins.panel <;> simp [hr, hy]
  · simp [hr]

end Sys2Proof.Machine
end

