-- ==== Sys2Proof/Laws/Lists.lean ====
section
/-! SUPPORT. One lemma for each function over lists that the meanings use: what it answers, and where. -/

namespace Sys2Proof.Machine

open Sys2Proof

/-! ### Event records -/

/-- No record is selected: nothing absorbs. -/
theorem coalesceNewest_of_none {sel : EventRecord → Bool} (absorb : EventRecord → Option EventRecord)
    {rs : List EventRecord} (h : ∀ r ∈ rs, sel r = false) : coalesceNewest sel absorb rs = none := by
  induction rs with
  | nil => rfl
  | cons r rs ih =>
    have hr := h r List.mem_cons_self
    have hrs : rs.any sel = false := by
      rw [List.any_eq_false]
      exact fun x hx => by simp [h x (List.mem_cons_of_mem _ hx)]
    simp [coalesceNewest, hrs, hr]

/-- The newest selected record absorbs, or nothing does. -/
theorem coalesceNewest_append {sel : EventRecord → Bool} (absorb : EventRecord → Option EventRecord)
    (old : List EventRecord) {r : EventRecord} (hr : sel r = true) {new : List EventRecord}
    (h : ∀ x ∈ new, sel x = false) :
    coalesceNewest sel absorb (old ++ r :: new) = (absorb r).map fun r' => old ++ r' :: new := by
  induction old with
  | nil =>
    have hnew : new.any sel = false := by
      rw [List.any_eq_false]
      exact fun x hx => by simp [h x hx]
    simp [coalesceNewest, hnew, hr]
  | cons o old ih =>
    have ho : (old ++ r :: new).any sel = true := by simp [hr]
    rw [List.cons_append, coalesceNewest, if_pos ho, ih, Option.map_map]
    rfl

/-- A list is without selected records, or has a newest one. -/
theorem newest_cases (sel : EventRecord → Bool) (rs : List EventRecord) :
    (∀ r ∈ rs, sel r = false) ∨
      ∃ old r new, rs = old ++ r :: new ∧ sel r = true ∧ ∀ x ∈ new, sel x = false := by
  induction rs with
  | nil => exact Or.inl (by simp)
  | cons r rs ih =>
    rcases ih with h | ⟨old, x, new, rfl, hx, hn⟩
    · cases hr : sel r with
      | true => exact Or.inr ⟨[], r, rs, rfl, hr, h⟩
      | false => exact Or.inl (by simpa [hr] using h)
    · exact Or.inr ⟨r :: old, x, new, rfl, hx, hn⟩

/-- What an absorption says of the records. -/
theorem coalesceNewest_eq_some {sel : EventRecord → Bool} {absorb : EventRecord → Option EventRecord}
    {rs rs' : List EventRecord} (h : coalesceNewest sel absorb rs = some rs') :
    ∃ old r r' new, rs = old ++ r :: new ∧ sel r = true ∧ (∀ x ∈ new, sel x = false) ∧ absorb r = some r' ∧
      rs' = old ++ r' :: new := by
  rcases newest_cases sel rs with hn | ⟨old, r, new, rfl, hr, hn⟩
  · rw [coalesceNewest_of_none absorb hn] at h
    cases h
  · rw [coalesceNewest_append absorb old hr hn] at h
    obtain ⟨r', hr', rfl⟩ := Option.map_eq_some_iff.1 h
    exact ⟨old, r, r', new, rfl, hr, hn, hr', rfl⟩

/-- No sent record has the number: nothing is retired. -/
theorem splitAcked_eq_none {seq : Half} {rs : List EventRecord} :
    splitAcked seq rs = none ↔ ∀ r ∈ rs, ¬ (r.seq = seq ∧ r.sent = true) := by
  induction rs with
  | nil => simp [splitAcked]
  | cons r rs ih =>
    simp only [splitAcked, List.forall_mem_cons]
    split
    · rename_i hr
      simp [hr.1, hr.2]
    · rename_i hr
      simp only [Option.map_eq_none_iff, ih]
      exact ⟨fun h => ⟨hr, h⟩, fun h => h.2⟩

/-- The first sent record with the number, and all before it, are retired. -/
theorem splitAcked_append {seq : Half} {old : List EventRecord} (h : ∀ r ∈ old, ¬ (r.seq = seq ∧ r.sent = true))
    {r : EventRecord} (hseq : r.seq = seq) (hsent : r.sent = true) (new : List EventRecord) :
    splitAcked seq (old ++ r :: new) = some (old ++ [r], new) := by
  induction old with
  | nil => simp [splitAcked, hseq, hsent]
  | cons o old ih =>
    rw [List.cons_append, splitAcked, if_neg (h o List.mem_cons_self),
      ih fun x hx => h x (List.mem_cons_of_mem _ hx)]
    rfl

/-- What a retirement says of the records. -/
theorem splitAcked_eq_some {seq : Half} {rs gone rest : List EventRecord} (h : splitAcked seq rs = some (gone, rest)) :
    rs = gone ++ rest ∧ ∃ old r, gone = old ++ [r] ∧ r.seq = seq ∧ r.sent = true ∧
      ∀ x ∈ old, ¬ (x.seq = seq ∧ x.sent = true) := by
  induction rs generalizing gone with
  | nil => simp [splitAcked] at h
  | cons r rs ih =>
    simp only [splitAcked] at h
    split at h
    · rename_i hr
      simp only [Option.some.injEq, Prod.mk.injEq] at h
      obtain ⟨rfl, rfl⟩ := h
      exact ⟨rfl, [], r, rfl, hr.1, hr.2, by simp⟩
    · rename_i hr
      obtain ⟨⟨g, t⟩, h1, h2⟩ := Option.map_eq_some_iff.1 h
      simp only [Prod.mk.injEq] at h2
      obtain ⟨rfl, rfl⟩ := h2
      obtain ⟨h3, old, x, rfl, h4, h5, h6⟩ := ih h1
      refine ⟨by simp [h3], r :: old, x, rfl, h4, h5, ?_⟩
      simpa using ⟨by simpa using hr, by simpa using h6⟩

/-! ### The live stack -/

/-- The element goes directly above the last selected one, or to the bottom. -/
theorem insertAbove_eq (x : Slot) (below : Slot → Bool) (st : List Slot) :
    ∃ lower upper, st = lower ++ upper ∧ insertAbove x below st = lower ++ x :: upper ∧
      (∀ y ∈ upper, below y = false) ∧ ∀ y, lower.getLast? = some y → below y = true := by
  induction st with
  | nil => exact ⟨[], [], rfl, rfl, by simp, by simp⟩
  | cons y st ih =>
    by_cases h : (y :: st).any below
    · obtain ⟨lower, upper, rfl, h2, h3, h4⟩ := ih
      refine ⟨y :: lower, upper, rfl, by rw [insertAbove, if_pos h, h2]; rfl, h3, fun z hz => ?_⟩
      cases lower with
      | nil =>
        have hyz : y = z := by simpa using hz
        subst hyz
        rcases List.any_eq_true.1 h with ⟨w, hw, hb⟩
        rcases List.mem_cons.1 hw with rfl | hw
        · exact hb
        · rw [List.nil_append] at hw
          simp [h3 w hw] at hb
      | cons a lower => exact h4 z (by simpa using hz)
    · refine ⟨[], y :: st, rfl, by rw [insertAbove, if_neg h]; rfl, fun z hz => ?_, by simp⟩
      exact Bool.eq_false_iff.2 fun hb => h (List.any_eq_true.2 ⟨z, hz, hb⟩)

/-- The element goes directly below the first occurrence of the reference, or to the top. -/
theorem insertBelow_eq (x ref : Slot) (st : List Slot) :
    ∃ lower upper, st = lower ++ upper ∧ insertBelow x ref st = lower ++ x :: upper ∧ (∀ y ∈ lower, y ≠ ref) ∧
      (ref ∈ st → upper.head? = some ref) := by
  induction st with
  | nil => exact ⟨[], [], rfl, rfl, by simp, by simp⟩
  | cons y st ih =>
    by_cases h : y = ref
    · exact ⟨[], y :: st, rfl, by rw [insertBelow, if_pos h]; rfl, by simp, fun _ => by simp [h]⟩
    · obtain ⟨lower, upper, h1, h2, h3, h4⟩ := ih
      refine ⟨y :: lower, upper, by simp [h1], by rw [insertBelow, if_neg h, h2]; rfl, by simpa [h] using h3, fun hm => ?_⟩
      exact h4 (by simpa [Ne.symm h] using hm)

/-! ### Pages -/

theorem insertPage_perm (page : Nat) (ps : List Nat) : (insertPage page ps).Perm (page :: ps) := by
  induction ps with
  | nil => exact List.Perm.refl _
  | cons p ps ih =>
    rw [insertPage]
    split
    · exact List.Perm.refl _
    · exact (ih.cons p).trans (List.Perm.swap page p ps)

theorem mem_insertPage {page q : Nat} {ps : List Nat} : q ∈ insertPage page ps ↔ q = page ∨ q ∈ ps := by
  rw [(insertPage_perm page ps).mem_iff, List.mem_cons]

theorem length_insertPage (page : Nat) (ps : List Nat) : (insertPage page ps).length = ps.length + 1 := by
  rw [(insertPage_perm page ps).length_eq, List.length_cons]

/-- The free set stays in ascending order. -/
theorem sorted_insertPage {page : Nat} {ps : List Nat} (h : ps.Pairwise (· < ·)) (hp : page ∉ ps) :
    (insertPage page ps).Pairwise (· < ·) := by
  induction ps with
  | nil => simp [insertPage]
  | cons p ps ih =>
    rw [insertPage]
    obtain ⟨h1, h2⟩ := List.pairwise_cons.1 h
    split
    · rename_i hlt
      refine List.pairwise_cons.2 ⟨fun q hq => ?_, h⟩
      rcases List.mem_cons.1 hq with rfl | hq
      · exact hlt
      · exact Nat.lt_trans hlt (h1 q hq)
    · rename_i hge
      refine List.pairwise_cons.2 ⟨fun q hq => ?_, ih h2 fun hm => hp (List.mem_cons_of_mem _ hm)⟩
      rcases mem_insertPage.1 hq with rfl | hq
      · exact Nat.lt_of_le_of_ne (Nat.not_lt.1 hge) fun e => hp (by simp [e])
      · exact h1 q hq

/-! ### Payload bytes -/

theorem inlinePixels_flatMap (ps : List Pixel) : inlinePixels (ps.flatMap bytesOf16) = ps := by
  induction ps with
  | nil => rfl
  | cons p ps ih =>
    simp [bytesOf16, inlinePixels, ih, be16_bytes]

end Sys2Proof.Machine
end

