-- ==== Sys2Proof/Laws/EventQueues.lean ====
section
/-! SUPPORT. The event queue: what each of its operations does to its bounds, its sent records, its numbers and its lost count.
`EventQueue.Held` is `EventQueue.Sound` without the clause that a lost count waits; `reportLost` restores that clause. -/

namespace Sys2Proof.Machine

open Sys2Proof

/-- The law of one event queue but for its lost count's waiting. -/
structure EventQueue.Held (q : EventQueue) : Prop where
  bounded : q.records.length + q.reserved ≤ 64
  sentBounded : q.sentCount ≤ 8
  sentHeld : q.sentCount ≤ q.records.length
  sentOldest : ∀ r ∈ q.records.take q.sentCount, r.sent = true
  unsentNewest : ∀ r ∈ q.records.drop q.sentCount, r.sent = false
  consecutive : ∀ k (h : k < q.records.length), (q.records[k]).seq = q.nextSeq - BitVec.ofNat 16 (q.records.length - k)
  lostBounded : q.lost ≤ 65535

theorem EventQueue.Sound.held {q : EventQueue} (h : q.Sound) : q.Held :=
  ⟨h.bounded, h.sentBounded, h.sentHeld, h.sentOldest, h.unsentNewest, h.consecutive, h.lostBounded⟩

theorem EventQueue.hasRoom_iff {q : EventQueue} : q.hasRoom = true ↔ q.records.length + q.reserved < 64 := by
  simp [EventQueue.hasRoom, Config.eventLimit]

/-- A record at the tail keeps the law where there is room. -/
theorem EventQueue.Held.append {q : EventQueue} (h : q.Held) (hroom : q.records.length + q.reserved < 64) (e : Event) :
    (q.append e).Held := by
  refine ⟨?_, h.sentBounded, ?_, ?_, ?_, ?_, h.lostBounded⟩
  · simp only [EventQueue.append, List.length_append, List.length_singleton]; omega
  · have := h.sentHeld
    simp only [EventQueue.append, List.length_append, List.length_singleton]; omega
  · simp only [EventQueue.append, List.take_append_of_le_length h.sentHeld]
    exact h.sentOldest
  · intro r hr
    simp only [EventQueue.append, List.drop_append_of_le_length h.sentHeld] at hr
    rcases List.mem_append.1 hr with hr | hr
    · exact h.unsentNewest r hr
    · rw [List.mem_singleton.1 hr]
  · intro k hk
    simp only [EventQueue.append, List.length_append, List.length_singleton] at hk ⊢
    by_cases hk' : k < q.records.length
    · rw [List.getElem_append_left hk', h.consecutive k hk']
      have e1 : q.records.length + 1 - k = q.records.length - k + 1 := by omega
      rw [e1, BitVec.ofNat_add]
      simp only [BitVec.ofNat_eq_ofNat]
      bv_omega
    · have e1 : k = q.records.length := by omega
      subst e1
      rw [List.getElem_append_right (Nat.le_refl _)]
      simp

/-- Records changed in place, with their numbers and sent marks kept, keep the law. -/
theorem EventQueue.Held.replace {q : EventQueue} (h : q.Held) {old new : List EventRecord} {r r' : EventRecord}
    (hq : q.records = old ++ r :: new) (hseq : r'.seq = r.seq) (hsent : r'.sent = r.sent) :
    ({ q with records := old ++ r' :: new } : EventQueue).Held := by
  have hlen : (old ++ r' :: new).length = q.records.length := by simp [hq]
  have hmap : (old ++ r' :: new).map (fun x => x.sent) = q.records.map fun x => x.sent := by simp [hq, hsent]
  have hmap' : (old ++ r' :: new).map (fun x => x.seq) = q.records.map fun x => x.seq := by simp [hq, hseq]
  refine ⟨by simpa [hlen] using h.bounded, h.sentBounded, by simpa [hlen] using h.sentHeld, ?_, ?_, ?_, h.lostBounded⟩
  · intro x hx
    have hm : x.sent ∈ ((old ++ r' :: new).map fun x => x.sent).take q.sentCount := by
      rw [← List.map_take]; exact List.mem_map_of_mem hx
    rw [hmap, ← List.map_take] at hm
    obtain ⟨y, hy, e⟩ := List.mem_map.1 hm
    rw [← e, h.sentOldest y hy]
  · intro x hx
    have hm : x.sent ∈ ((old ++ r' :: new).map fun x => x.sent).drop q.sentCount := by
      rw [← List.map_drop]; exact List.mem_map_of_mem hx
    rw [hmap, ← List.map_drop] at hm
    obtain ⟨y, hy, e⟩ := List.mem_map.1 hm
    rw [← e, h.unsentNewest y hy]
  · intro k hk
    have hk' : k < q.records.length := by rw [← hlen]; exact hk
    have e1 : ((old ++ r' :: new)[k]'hk).seq = ((old ++ r' :: new).map fun x => x.seq)[k]'(by simpa using hk) := by
      rw [List.getElem_map]
    have e2 : (q.records[k]'hk').seq = (q.records.map fun x => x.seq)[k]'(by simpa using hk') := by
      rw [List.getElem_map]
    have e3 : ((old ++ r' :: new).map fun x => x.seq)[k]'(by simpa using hk)
        = (q.records.map fun x => x.seq)[k]'(by simpa using hk') := by simp only [hmap']
    simp only [hlen]
    exact e1.trans (e3.trans (e2.symm.trans (h.consecutive k hk')))

/-- Reporting the lost count makes a queue sound. -/
theorem EventQueue.Held.reportLost {q : EventQueue} (h : q.Held) : q.reportLost.Sound := by
  unfold EventQueue.reportLost
  split
  · rename_i h0
    exact ⟨h.bounded, h.sentBounded, h.sentHeld, h.sentOldest, h.unsentNewest, h.consecutive, h.lostBounded,
      fun hne => absurd h0 hne⟩
  · rename_i h0
    split
    · rename_i rs hrs
      obtain ⟨old, r, r', new, hq, -, -, habs, rfl⟩ := coalesceNewest_eq_some hrs
      have hr : r'.seq = r.seq ∧ r'.sent = r.sent := by
        unfold absorbLost at habs
        split at habs
        · cases habs; exact ⟨rfl, rfl⟩
        · cases habs
      have hh := h.replace hq hr.1 hr.2
      exact ⟨hh.bounded, hh.sentBounded, hh.sentHeld, hh.sentOldest, hh.unsentNewest, hh.consecutive, Nat.zero_le _,
        fun hne => absurd rfl hne⟩
    · rename_i hnone
      split
      · rename_i hroom
        have hh := h.append (EventQueue.hasRoom_iff.1 hroom) (.lostEvents q.lost)
        exact ⟨hh.bounded, hh.sentBounded, hh.sentHeld, hh.sentOldest, hh.unsentNewest, hh.consecutive, Nat.zero_le _,
          fun hne => absurd rfl hne⟩
      · rename_i hfull
        refine ⟨h.bounded, h.sentBounded, h.sentHeld, h.sentOldest, h.unsentNewest, h.consecutive, h.lostBounded,
          fun _ => ⟨?_, ?_⟩⟩
        · have := h.bounded
          rw [EventQueue.hasRoom_iff] at hfull
          omega
        · intro r hr
          rcases newest_cases EventRecord.isLost q.records with hn | ⟨old, x, new, hq, hx, hn⟩
          · have : q.records.filter EventRecord.isLost = [] := by
              rw [List.filter_eq_nil_iff]
              exact fun y hy => by simp [hn y hy]
            rw [this] at hr
            cases hr
          · have hnew : new.filter EventRecord.isLost = [] := by
              rw [List.filter_eq_nil_iff]
              exact fun y hy => by simp [hn y hy]
            rw [hq, List.filter_append, List.filter_cons_of_pos hx, hnew, List.getLast?_append] at hr
            simp only [List.getLast?_singleton, Option.some_or, Option.some.injEq] at hr
            subst hr
            rw [hq, coalesceNewest_append _ old hx hn, Option.map_eq_none_iff] at hnone
            cases hs : x.sent with
            | true => rfl
            | false =>
              exfalso
              cases he : x.event with
              | lostEvents c => simp [absorbLost, hs, he] at hnone
              | _ => simp [EventRecord.isLost, he] at hx

/-- A reservation taken where there is room. -/
theorem EventQueue.Sound.reserve {q : EventQueue} (h : q.Sound) (hroom : q.records.length + q.reserved < 64) :
    q.reserve.Sound := by
  refine ⟨?_, h.sentBounded, h.sentHeld, h.sentOldest, h.unsentNewest, h.consecutive, h.lostBounded, fun hne => ?_⟩
  · simp only [EventQueue.reserve]; omega
  · have := (h.lostWaits hne).1
    omega

theorem EventQueue.Held.lessReserved {q : EventQueue} (h : q.Held) (n : Nat) (hn : n ≤ q.reserved) :
    ({ q with reserved := n } : EventQueue).Held := by
  have hb := h.bounded
  exact ⟨by simp only; omega, h.sentBounded, h.sentHeld, h.sentOldest, h.unsentNewest, h.consecutive, h.lostBounded⟩

theorem EventQueue.Sound.silentRelease {q : EventQueue} (h : q.Sound) : q.silentRelease.Sound :=
  (h.held.lessReserved (q.reserved - 1) (Nat.sub_le _ _)).reportLost

theorem EventQueue.Sound.queueReserved {q : EventQueue} (h : q.Sound) (e : Event) : (q.queueReserved e).Sound := by
  unfold EventQueue.queueReserved
  split
  · exact h
  · have hb := h.bounded
    exact ((h.held.lessReserved (q.reserved - 1) (Nat.sub_le _ _)).append (by simp only; omega) e).reportLost

/-- A record that absorbs an event keeps its number and its sent mark. -/
theorem EventQueue.coalesced_eq_some {q : EventQueue} {e : Event} {rs : List EventRecord} (h : q.coalesced e = some rs) :
    ∃ old r r' new, q.records = old ++ r :: new ∧ rs = old ++ r' :: new ∧ r'.seq = r.seq ∧ r'.sent = r.sent := by
  unfold EventQueue.coalesced at h
  split at h
  · obtain ⟨old, r, r', new, hq, -, -, habs, rfl⟩ := coalesceNewest_eq_some h
    refine ⟨old, r, r', new, hq, rfl, ?_⟩
    unfold absorbFrame at habs
    split at habs
    · cases habs; exact ⟨rfl, rfl⟩
    · cases habs
  · obtain ⟨old, r, r', new, hq, -, -, habs, rfl⟩ := coalesceNewest_eq_some h
    refine ⟨old, r, r', new, hq, rfl, ?_⟩
    unfold absorbMove at habs
    split at habs
    · split at habs
      · cases habs; exact ⟨rfl, rfl⟩
      · cases habs
    · cases habs
  · cases h

theorem EventQueue.Sound.queueUnreserved {q : EventQueue} (h : q.Sound) (e : Event) : (q.queueUnreserved e).Sound := by
  unfold EventQueue.queueUnreserved
  split
  · rename_i rs hrs
    obtain ⟨old, r, r', new, hq, rfl, h1, h2⟩ := EventQueue.coalesced_eq_some hrs
    exact (h.held.replace hq h1 h2).reportLost
  · split
    · rename_i hroom
      exact (h.held.append (EventQueue.hasRoom_iff.1 hroom) e).reportLost
    · refine EventQueue.Held.reportLost ?_
      have hl : raised q.lost 1 ≤ 65535 := by simp only [raised, Config.countCeiling]; omega
      exact ⟨h.bounded, h.sentBounded, h.sentHeld, h.sentOldest, h.unsentNewest, h.consecutive, hl⟩

/-- The empty queue, with any next number, is sound. -/
theorem EventQueue.sound_empty (n : Half) :
    ({ records := [], reserved := 0, sentCount := 0, lost := 0, nextSeq := n } : EventQueue).Sound := by
  refine ⟨?_, ?_, ?_, ?_, ?_, ?_, ?_, ?_⟩ <;> simp

end Sys2Proof.Machine
end

