-- ==== Sys2Proof/Laws/Formats.lean ====
section
/-! SUPPORT. The byte formats: fields as numbers, the check bit by bit, the entries of a contact report, inline pixels, and when
ATTN is high. -/

namespace Sys2Proof.Machine

open Sys2Proof

/-! ### Fields as numbers -/

theorem be16_eq (a b : Byte) : be16 a b = BitVec.ofNat 16 (a.toNat * 256 + b.toNat) := by
  apply BitVec.eq_of_toNat_eq
  have ha := a.isLt
  have hb := b.isLt
  simp only [be16, BitVec.toNat_append, BitVec.toNat_ofNat]
  rw [← Nat.shiftLeft_add_eq_or_of_lt hb, Nat.shiftLeft_eq]
  omega

theorem bytesOf16_eq (v : BitVec 16) : bytesOf16 v = [BitVec.ofNat 8 (v.toNat / 256), BitVec.ofNat 8 v.toNat] := by
  simp [bytesOf16, hiByte, loByte, BitVec.extractLsb', Nat.shiftRight_eq_div_pow]

theorem bytesOf32_eq (v : BitVec 32) : bytesOf32 v =
    [BitVec.ofNat 8 (v.toNat / 16777216), BitVec.ofNat 8 (v.toNat / 65536), BitVec.ofNat 8 (v.toNat / 256),
      BitVec.ofNat 8 v.toNat] := by
  simp [bytesOf32, BitVec.extractLsb', Nat.shiftRight_eq_div_pow]

theorem ofNat8_congr {m n : Nat} (h : m % 256 = n % 256) : BitVec.ofNat 8 m = BitVec.ofNat 8 n := by
  apply BitVec.eq_of_toNat_eq
  simpa using h

theorem countBytes_eq (n : Nat) : countBytes n = [BitVec.ofNat 8 (n / 256), BitVec.ofNat 8 n] := by
  rw [countBytes, bytesOf16_eq]
  simp only [BitVec.toNat_ofNat]
  rw [ofNat8_congr (m := n % 2 ^ 16 / 256) (n := n / 256) (by omega), ofNat8_congr (m := n % 2 ^ 16) (n := n) (by omega)]

theorem ofInt16_eq (x : Int) : BitVec.ofInt 16 x = BitVec.ofNat 16 (x % 65536).toNat := by
  apply BitVec.eq_of_toNat_eq
  have h0 : 0 ≤ x % 65536 := Int.emod_nonneg _ (by decide)
  have h1 : x % 65536 < 65536 := Int.emod_lt_of_pos _ (by decide)
  simp only [BitVec.toNat_ofInt, BitVec.toNat_ofNat]
  norm_num
  omega

theorem signedBytes_eq (x : Int) : signedBytes x = countBytes (x % 65536).toNat := by
  rw [signedBytes, ofInt16_eq]
  rfl

/-! ### The check -/

theorem crcBit_xor (x y : BitVec 16) : crcBit (x ^^^ y) = crcBit x ^^^ crcBit y := by
  unfold crcBit
  cases hx : x.msb <;> cases hy : y.msb <;>
    simp only [BitVec.msb_xor, hx, hy, BitVec.shiftLeft_xor_distrib, Bool.xor_true, Bool.xor_false, Bool.not_true, Bool.not_false,
      if_true, if_false, Bool.false_eq_true]
  · rw [BitVec.xor_assoc]
  · rw [BitVec.xor_assoc, BitVec.xor_assoc, BitVec.xor_comm (y <<< 1)]
  · rw [BitVec.xor_assoc, BitVec.xor_comm 0x1021#16, BitVec.xor_assoc, BitVec.xor_self, BitVec.xor_zero]

/-- The CRC-16 register takes one message bit. -/
def crcTakes (c : BitVec 16) (bit : Bool) : BitVec 16 := (c <<< 1) ^^^ (if c.msb ≠ bit then 0x1021#16 else 0#16)

theorem crcTakes_eq (c : BitVec 16) (bit : Bool) : crcTakes c bit = crcBit (c ^^^ (if bit then 0x8000#16 else 0#16)) := by
  have h : (32768#16).msb = true := by decide
  have h2 : (32768#16 <<< 1) = 0#16 := by decide
  unfold crcTakes crcBit
  cases hc : c.msb <;> cases bit <;> simp [BitVec.msb_xor, hc, h, h2, BitVec.shiftLeft_xor_distrib]

theorem crcTakes_xor (c d : BitVec 16) (bit : Bool) : crcTakes (c ^^^ d) bit = crcBit c ^^^ crcTakes d bit := by
  rw [crcTakes_eq, crcTakes_eq, BitVec.xor_assoc, crcBit_xor]

theorem repeat_crcBit_xor (n : Nat) (x y : BitVec 16) :
    Nat.repeat crcBit n (x ^^^ y) = Nat.repeat crcBit n x ^^^ Nat.repeat crcBit n y := by
  induction n with
  | zero => rfl
  | succ n ih => simp only [Nat.repeat, ih, crcBit_xor]

theorem repeat_crcBit_succ (n : Nat) (x : BitVec 16) : Nat.repeat crcBit (n + 1) x = Nat.repeat crcBit n (crcBit x) := by
  induction n with
  | zero => rfl
  | succ n ih =>
    rw [Nat.repeat, ih]
    rfl

theorem foldl_crcTakes_xor (bits : List Bool) (c d : BitVec 16) :
    bits.foldl crcTakes (c ^^^ d) = Nat.repeat crcBit bits.length c ^^^ bits.foldl crcTakes d := by
  induction bits generalizing c d with
  | nil => rfl
  | cons b bs ih =>
    rw [List.foldl_cons, crcTakes_xor, ih, List.foldl_cons, List.length_cons, repeat_crcBit_succ]

/-- The bits of a byte, most significant first. -/
def bitsOf (b : Byte) : List Bool := (List.range 8).map fun i => b.getLsbD (7 - i)

theorem crcByte_zero : ∀ b : Byte, crcByte 0#16 b = (bitsOf b).foldl crcTakes 0#16 := by decide +kernel

theorem crcByte_eq (c : BitVec 16) (b : Byte) : crcByte c b = (bitsOf b).foldl crcTakes c := by
  have hl : (bitsOf b).length = 8 := by simp [bitsOf]
  have h := foldl_crcTakes_xor (bitsOf b) c 0#16
  rw [BitVec.xor_zero, hl, ← crcByte_zero] at h
  rw [h]
  unfold crcByte
  rw [repeat_crcBit_xor, BitVec.zero_xor]

theorem crc16_eq_bits (bytes : List Byte) : crc16 bytes = (bytes.flatMap bitsOf).foldl crcTakes 0xFFFF#16 := by
  unfold crc16
  generalize 0xFFFF#16 = c
  induction bytes generalizing c with
  | nil => rfl
  | cons b bs ih => rw [List.foldl_cons, List.flatMap_cons, List.foldl_append, ← crcByte_eq, ih]

/-! ### Lists of entries and pixels -/

theorem reportEntries_eq (bytes : List Byte) (h : bytes.length % 4 = 0) :
    reportEntries bytes = some ((List.range (bytes.length / 4)).map fun k =>
      reportEntry (bytes.getD (4 * k) 0) (bytes.getD (4 * k + 1) 0) (bytes.getD (4 * k + 2) 0) (bytes.getD (4 * k + 3) 0)) := by
  induction bytes using reportEntries.induct with
  | case1 => rfl
  | case2 b0 b1 b2 b3 rest ih =>
    have hr : rest.length % 4 = 0 := by simp at h; omega
    have hn : (b0 :: b1 :: b2 :: b3 :: rest).length / 4 = rest.length / 4 + 1 := by simp; omega
    rw [reportEntries, ih hr, hn, List.range_succ_eq_map]
    simp [Nat.mul_add, Function.comp_def]
  | case3 bytes h0 h4 =>
    exfalso
    rcases bytes with _ | ⟨a, _ | ⟨b, _ | ⟨c, _ | ⟨d, r⟩⟩⟩⟩
    · exact h0 rfl
    all_goals first | exact h4 _ _ _ _ _ rfl | simp at h

theorem inlinePixels_eq (bytes : List Byte) (n : Nat) (h : bytes.length = 2 * n) :
    inlinePixels bytes = (List.range n).map fun i => be16 (bytes.getD (2 * i) 0) (bytes.getD (2 * i + 1) 0) := by
  induction n generalizing bytes with
  | zero => rw [List.length_eq_zero_iff.mp h]; rfl
  | succ n ih =>
    rcases bytes with _ | ⟨a, _ | ⟨b, rest⟩⟩
    · simp at h
    · simp at h; omega
    · rw [inlinePixels, ih rest (by simp at h; omega), List.range_succ_eq_map]
      simp [Nat.mul_add, Function.comp_def]

/-! ### ATTN -/

theorem State.attn_iff (s : State) (l : Link) : s.attn l = true ↔ s.resetN = true ∧ (s.link l).state = .up ∧
    ((s.link l).backlog ≠ [] ∨ ∃ r ∈ (s.eventsOf l).records, r.sent = false) := by
  simp [State.attn, State.isUp, EventQueue.hasUnsent, and_assoc]

end Sys2Proof.Machine
end

