-- ==== Sys2Proof/Laws/Jobs.lean ====
section
/-! SUPPORT. Job queues and the arbiter: what a completion, the examination of a head and the arbiter's grants leave in the
queues. -/

namespace Sys2Proof.Machine

open Sys2Proof

/-! ### What leaves and what is released when a session ends -/

/-- A job in flight stays in its queue when its link's session ends. -/
theorem State.leavingJobs_of_inFlight {s : State} {l : Link} (h : (s.queue l).head = .inFlight) :
    s.leavingJobs l = (s.queue l).entries.drop 1 := by
  simp [State.leavingJobs, h]

/-- Without a job in flight the whole queue leaves. -/
theorem State.leavingJobs_of_waiting {s : State} {l : Link} (h : (s.queue l).head ≠ .inFlight) :
    s.leavingJobs l = (s.queue l).entries := by
  simp [State.leavingJobs, h]

@[simp] theorem namings_nil (i : StampSlot) : namings [] i = 0 := rfl

@[simp] theorem namings_append (js ks : List Job) (i : StampSlot) : namings (js ++ ks) i = namings js i + namings ks i :=
  List.countP_append

theorem namings_cons (j : Job) (js : List Job) (i : StampSlot) :
    namings (j :: js) i = namings js i + if j.op.stamp.map StampHandle.slot = some i then 1 else 0 := by
  simp [namings, List.countP_cons]

/-- The windows released at once are the link's live ones that nothing else uses. -/
theorem State.mem_releasedAtEnd {s : State} {l : Link} {i : Slot} :
    i ∈ s.releasedAtEnd l ↔ (s.window i).owner = some l ∧ (s.window i).live = true ∧ ¬ s.stillUsed i := by
  simp [State.releasedAtEnd, State.stillUsed, and_assoc, not_or]

@[simp] theorem State.pagesOfSlots_nil (s : State) : s.pagesOfSlots [] = [] := rfl

@[simp] theorem State.pagesOfSlots_append (s : State) (is js : List Slot) :
    s.pagesOfSlots (is ++ js) = s.pagesOfSlots is ++ s.pagesOfSlots js := by
  simp [State.pagesOfSlots]

/-! ### Completion -/

/-- A completion takes the head off its queue and leaves the other queues alone. -/
theorem State.completeHead_queue (s : State) (l : Link) (j : Job) (e : Ending) (result : List Pixel) :
    (s.completeHead l j e result).queue l =
      { entries := (s.queue l).entries.tail, head := .empty, staging := (s.queue l).staging - j.stagingReleased e } := by
  simp [State.completeHead]

theorem State.completeHead_queue_ne (s : State) {l k : Link} (hk : k ≠ l) (j : Job) (e : Ending) (result : List Pixel) :
    (s.completeHead l j e result).queue k = s.queue k := by
  simp [State.completeHead, hk]

/-- A PRESENT taken leaves its queue as a completion does. -/
theorem State.takePresent_queue (s : State) (l : Link) (j : Job) (h : Handle) (hj : j.op = .present h) :
    (s.takePresent l j h).queue l =
      { entries := (s.queue l).entries.tail, head := .empty, staging := (s.queue l).staging } := by
  unfold State.takePresent
  split
  · simp
  · rw [State.completeHead_queue]
    simp [Job.stagingReleased, hj, JobOp.staging]

theorem State.takePresent_queue_ne (s : State) {l k : Link} (hk : k ≠ l) (j : Job) (h : Handle) :
    (s.takePresent l j h).queue k = s.queue k := by
  unfold State.takePresent
  split
  · simp [hk]
  · exact s.completeHead_queue_ne hk j _ _

/-! ### Examination -/

/-- What the examination of a head leaves: a rest of the queue, EMPTY exactly when nothing is left, an ELIGIBLE head only for a
job of the engine; the other queues and the engine stay. -/
theorem State.examine_queue (s : State) (l : Link) (js : List Job) (hjs : (s.queue l).entries = js) :
    ∃ gone, js = gone ++ ((s.examine l js).queue l).entries ∧
      (∀ j ∈ gone, j.op.forEngine = false) ∧
      ((s.examine l js).queue l).staging = (s.queue l).staging ∧
      (((s.examine l js).queue l).head = .empty ↔ ((s.examine l js).queue l).entries = []) ∧
      ((s.examine l js).queue l).head ≠ .inFlight ∧
      (((s.examine l js).queue l).head = .eligible →
        ∀ j, ((s.examine l js).queue l).entries.head? = some j → j.op.forEngine = true) := by
  induction js generalizing s with
  | nil => exact ⟨[], by simp [State.examine, hjs], by simp, by simp [State.examine], by simp [State.examine, hjs],
      by simp [State.examine], by simp [State.examine]⟩
  | cons j js ih =>
    unfold State.examine
    split
    · exact ⟨[], by simp [hjs], by simp, by simp, by simp [hjs], by simp, by simp⟩
    · split
      · rename_i hop
        have hq := s.completeHead_queue l j .done []
        obtain ⟨gone, h1, h2, h3, h4⟩ := ih (s.completeHead l j .done []) (by simp [hq, hjs])
        refine ⟨j :: gone, by rw [List.cons_append, ← h1], ?_, ?_, h4⟩
        · simpa [hop, JobOp.forEngine] using h2
        · rw [h3, hq]; simp [Job.stagingReleased, hop, JobOp.staging]
      · rename_i h hop
        have hq := s.takePresent_queue l j h hop
        obtain ⟨gone, h1, h2, h3, h4⟩ := ih (s.takePresent l j h) (by simp [hq, hjs])
        refine ⟨j :: gone, by rw [List.cons_append, ← h1], ?_, ?_, h4⟩
        · simpa [hop, JobOp.forEngine] using h2
        · rw [h3, hq]
      · rename_i hm hp
        refine ⟨[], by simp [hjs], by simp, by simp, by simp [hjs], by simp, fun _ x hx => ?_⟩
        simp only [State.queue_setQueue_self, hjs, List.head?_cons, Option.some.injEq] at hx
        subst hx
        cases hop : j.op with
        | present h => exact absurd hop (hp h)
        | mark => exact absurd hop hm
        | _ => rfl

theorem State.examine_queue_ne (s : State) {l k : Link} (hk : k ≠ l) (js : List Job) :
    (s.examine l js).queue k = s.queue k := by
  induction js generalizing s with
  | nil => simp [State.examine, hk]
  | cons j js ih =>
    unfold State.examine
    (repeat' split) <;> simp [hk, ih, s.completeHead_queue_ne hk, s.takePresent_queue_ne hk]

theorem State.examineHead_queue_ne (s : State) {l k : Link} (hk : k ≠ l) : (s.examineHead l).queue k = s.queue k := by
  unfold State.examineHead
  split <;> simp [s.examine_queue_ne hk]

/-- After its examination a head is EMPTY exactly when its queue is. -/
theorem State.examineHead_empty (s : State) (l : Link) (h : (s.queue l).head = .empty ∨ (s.queue l).head = .waitFlip ∨
    (s.queue l).entries ≠ []) :
    ((s.examineHead l).queue l).head = .empty ↔ ((s.examineHead l).queue l).entries = [] := by
  obtain ⟨-, -, -, -, he, -⟩ := s.examine_queue l _ rfl
  unfold State.examineHead
  split
  · rename_i hh; simp_all
  · rename_i hh; simp_all
  · exact he
  · exact he

/-- No entry joins a queue by an examination. -/
theorem State.examineHead_length (s : State) (l k : Link) :
    ((s.examineHead l).queue k).entries.length ≤ (s.queue k).entries.length := by
  by_cases hk : k = l
  · subst hk
    obtain ⟨gone, h1, -⟩ := s.examine_queue k _ rfl
    have h2 := congrArg List.length h1
    rw [List.length_append] at h2
    unfold State.examineHead
    split <;> omega
  · rw [s.examineHead_queue_ne hk]

/-! ### Grants -/

/-- The search finds a link with an ELIGIBLE head if there is one. -/
theorem State.nextEligible_eq_none (s : State) : s.nextEligible = none ↔ ∀ l, (s.queue l).head ≠ .eligible := by
  unfold State.nextEligible
  rw [List.find?_eq_none]
  constructor
  · intro h l
    have hm : l ∈ linksAfter s.lastServed := by cases s.lastServed <;> cases l <;> decide
    simpa using h l hm
  · intro h l _
    simpa using h l

theorem State.nextEligible_eq_some {s : State} {l : Link} (h : s.nextEligible = some l) : (s.queue l).head = .eligible := by
  have := List.find?_some h
  simpa using this

/-- The queued jobs of the part, link by link. -/
theorem State.queuedJobs_eq (s : State) :
    s.queuedJobs = (s.queue .A).entries.length + (s.queue .B).entries.length + (s.queue .C).entries.length
      + (s.queue .D).entries.length := by
  simp only [State.queuedJobs, allLinks, List.map_cons, List.map_nil, List.sum_cons, List.sum_nil]
  omega

/-- A job that fails its start checks leaves fewer jobs queued. -/
theorem State.queuedJobs_lt {s t : State} (l : Link) (hl : (t.queue l).entries.length < (s.queue l).entries.length)
    (h : ∀ k, (t.queue k).entries.length ≤ (s.queue k).entries.length) : t.queuedJobs < s.queuedJobs := by
  have hA := h .A
  have hB := h .B
  have hC := h .C
  have hD := h .D
  rw [State.queuedJobs_eq, State.queuedJobs_eq]
  cases l <;> omega

/-- Enough grants leave the engine with a job, or no head ELIGIBLE. -/
theorem State.grants_settles (n : Nat) (s : State) (hn : s.queuedJobs ≤ n)
    (he : ∀ l, (s.queue l).head = .empty ↔ (s.queue l).entries = []) :
    (State.grants n s).engine = none → ∀ l, ((State.grants n s).queue l).head ≠ .eligible := by
  induction n generalizing s with
  | zero =>
    intro _ l hl
    have h0 := s.queuedJobs_eq
    have hlen : (s.queue l).entries.length = 0 := by cases l <;> omega
    have := (he l).2 (List.length_eq_zero_iff.1 hlen)
    simp only [State.grants] at hl
    simp [this] at hl
  | succ n ih =>
    unfold State.grants
    split
    · rename_i l hengine hl
      have helig := State.nextEligible_eq_some hl
      split
      · rename_i hentries
        have := (he l).2 hentries
        simp [helig] at this
      · rename_i j js hentries
        dsimp only
        split
        · rename_i status hfail
          generalize hg : ({ s with lastServed := l } : State).setQueue l { s.queue l with head := .inFlight } = g
          have hgl : g.queue l = { s.queue l with head := .inFlight } := by rw [← hg]; simp
          have hgk : ∀ k, k ≠ l → g.queue k = s.queue k := by
            intro k hk; rw [← hg]; simp only [State.queue_setQueue_ne _ _ _ _ hk]; rfl
          have hcl := g.completeHead_queue l j (.failed status) []
          have hck : ∀ k, k ≠ l → (g.completeHead l j (.failed status) []).queue k = s.queue k := fun k hk => by
            rw [g.completeHead_queue_ne hk, hgk k hk]
          apply ih
          · have hlt : ((g.completeHead l j (.failed status) []).examineHead l).queuedJobs < s.queuedJobs := by
              refine State.queuedJobs_lt l ?_ fun k => ?_
              · refine Nat.lt_of_le_of_lt (State.examineHead_length _ l l) ?_
                simp [hcl, hgl, hentries]
              · refine Nat.le_trans (State.examineHead_length _ l k) ?_
                by_cases hk : k = l
                · subst hk; simp [hcl, hgl]
                · rw [hck k hk]
            omega
          · intro k
            by_cases hk : k = l
            · subst hk
              exact State.examineHead_empty _ k (Or.inl (by simp [hcl]))
            · rw [State.examineHead_queue_ne _ hk, hck k hk]
              exact he k
        · intro h
          simp at h
    · rename_i hno
      intro hengine l
      cases hne : s.nextEligible with
      | none => exact s.nextEligible_eq_none.1 hne l
      | some k => exact absurd hne (hno k hengine)

/-- After the arbiter's grants the engine has a job, or no head is ELIGIBLE. -/
theorem State.arbitrate_settles (s : State) (he : ∀ l, (s.queue l).head = .empty ↔ (s.queue l).entries = []) :
    s.arbitrate.engine = none → ∀ l, (s.arbitrate.queue l).head ≠ .eligible :=
  State.grants_settles _ s (Nat.le_refl _) he

/-- A busy engine is not granted again. -/
theorem State.arbitrate_of_busy {s : State} (h : s.engine ≠ none) : s.arbitrate = s := by
  unfold State.arbitrate
  cases hn : s.queuedJobs with
  | zero => rfl
  | succ n =>
    unfold State.grants
    split
    · rename_i he _
      exact absurd he h
    · rfl

/-- With no head ELIGIBLE nothing is granted. -/
theorem State.arbitrate_of_none {s : State} (h : ∀ l, (s.queue l).head ≠ .eligible) : s.arbitrate = s := by
  unfold State.arbitrate
  cases hn : s.queuedJobs with
  | zero => rfl
  | succ n =>
    unfold State.grants
    rw [s.nextEligible_eq_none.2 h]
    split
    · rename_i hl; cases hl
    · rfl

/-! ### Heads that nothing has freed -/

/-- The link's head is one that an examination leaves as it is: ELIGIBLE or IN_FLIGHT, none at all, or still waiting. -/
def State.headRests (s : State) (l : Link) : Prop :=
  (s.queue l).head = .eligible ∨ (s.queue l).head = .inFlight ∨
    ((s.queue l).head = .empty ∧ (s.queue l).entries = []) ∨
    ((s.queue l).head = .waitFlip ∧ ∃ j rest, (s.queue l).entries = j :: rest ∧ s.waitsForFlip j.op = true)

/-- Such a head stays. -/
theorem State.examineHead_of_rests {s : State} {l : Link} (h : s.headRests l) : s.examineHead l = s := by
  have same : ∀ hd, (s.queue l).head = hd → s.setQueue l { s.queue l with head := hd } = s := by
    intro hd e
    subst e
    cases l <;> rfl
  unfold State.examineHead
  rcases h with h | h | ⟨h, he⟩ | ⟨h, j, rest, he, hw⟩
  · simp [h]
  · simp [h]
  · simp only [h, he, State.examine]
    simpa only [he] using same _ h
  · simp only [h, he, State.examine, hw, if_true]
    simpa only [he] using same _ h

/-- Where every head rests and the engine is busy or no head ELIGIBLE, nothing is scheduled. -/
theorem State.scheduleAll_of_rests {s : State} (h : ∀ l, s.headRests l)
    (he : s.engine ≠ none ∨ ∀ l, (s.queue l).head ≠ .eligible) : s.scheduleAll = s := by
  have all : ∀ ls : List Link, ls.foldl State.examineHead s = s := fun ls => by
    induction ls with
    | nil => rfl
    | cons l ls ih => rw [List.foldl_cons, State.examineHead_of_rests (h l), ih]
  rw [State.scheduleAll, all]
  exact he.elim State.arbitrate_of_busy State.arbitrate_of_none

end Sys2Proof.Machine
end

