-- ==== Sys2Proof/Laws/Windows.lean ====
section
/-! SUPPORT. Windows and contacts: what a release, a close, a cancelling and a contact report leave in the window records and
in the contact entries. -/

namespace Sys2Proof.Machine

open Sys2Proof

/-! ### Folds over the slots and the contacts -/

/-- A fold over a list without repetitions, each step of which changes one place alone and decides its new value from that
place's old value and from what no step changes, changes each listed place once. -/
theorem foldl_places {ι σ α : Type} [DecidableEq ι] (get : σ → ι → α) (f : σ → ι → σ) (new : ι → α → α) (P : σ → Prop)
    (hP : ∀ t i, P t → P (f t i)) (hself : ∀ t i, P t → get (f t i) i = new i (get t i))
    (hne : ∀ t i j, P t → j ≠ i → get (f t i) j = get t j) (is : List ι) (hn : is.Nodup) (s : σ) (hs : P s) (j : ι) :
    get (is.foldl f s) j = if j ∈ is then new j (get s j) else get s j := by
  induction is generalizing s with
  | nil => simp
  | cons i is ih =>
    obtain ⟨hi, hn'⟩ := List.nodup_cons.1 hn
    rw [List.foldl_cons, ih hn' _ (hP s i hs)]
    by_cases hj : j = i
    · subst hj
      rw [if_neg hi, if_pos List.mem_cons_self, hself s j hs]
    · rw [hne s i j hs hj]
      simp [hj]

theorem mem_finRange {n : Nat} (i : Fin n) : i ∈ List.finRange n := List.mem_finRange i

theorem nodup_finRange (n : Nat) : (List.finRange n).Nodup := List.nodup_finRange n

/-! ### Release -/

/-- A release frees its own slot and no other. -/
theorem State.release_window (s : State) (i j : Slot) :
    (s.release i).window j = if j = i then (s.window i).released else s.window j := by
  unfold State.release
  dsimp only
  (repeat' split) <;> simp_all

/-- What a release leaves in the pool. -/
theorem State.release_pool (s : State) (i : Slot) :
    (s.release i).pool =
      s.pool.release (s.window i).owner ((s.window i).buf0 ++ (s.window i).buf1) (s.window i).pages := by
  unfold State.release
  dsimp only
  (repeat' split) <;> simp

/-- The release test either releases or leaves everything. -/
theorem State.releaseTest_eq (s : State) (i : Slot) :
    s.releaseTest i =
      if (s.window i).state = .closing ∧ (s.window i).onGlass = false ∧ s.namedInFlight ⟨i, (s.window i).gen⟩ = false then
        s.release i
      else s := rfl

theorem State.releaseTest_window_ne (s : State) {i j : Slot} (h : j ≠ i) : (s.releaseTest i).window j = s.window j := by
  rw [State.releaseTest_eq]
  split
  · rw [State.release_window, if_neg h]
  · rfl

/-- A release puts no page into the free set. -/
@[simp] theorem Pool.release_free (p : Pool) (owner : Option Link) (pages : List Nat) (n : Nat) :
    (p.release owner pages n).free = p.free := by
  unfold Pool.release
  cases owner <;> rfl

@[simp] theorem Pool.release_scrub (p : Pool) (owner : Option Link) (pages : List Nat) (n : Nat) :
    (p.release owner pages n).scrub = p.scrub ++ pages := by
  unfold Pool.release
  cases owner <;> rfl

@[simp] theorem State.releaseTest_free (s : State) (i : Slot) : (s.releaseTest i).pool.free = s.pool.free := by
  rw [State.releaseTest_eq]
  split
  · rw [State.release_pool, Pool.release_free]
  · rfl

/-! ### Captures -/

/-- A cancelling changes at most the contact it is made for. -/
theorem State.cancelCapture_contact (s : State) (h : Handle) (send : Bool) (k j : ContactNumber) :
    (s.cancelCapture h send k).contact j =
      if j = k ∧ (s.contact k).capture = some h then { s.contact k with capture := none, lastSent := none }
      else s.contact j := by
  unfold State.cancelCapture
  dsimp only
  split
  · rename_i hc
    split <;> simp [State.contact_setContact, hc]
  · rename_i hc
    simp [hc]

/-- Every capture on the window is cleared, and no other contact changes. -/
theorem State.cancelCaptures_contact (s : State) (h : Handle) (send : Bool) (k : ContactNumber) :
    (s.cancelCaptures h send).contact k =
      if (s.contact k).capture = some h then { s.contact k with capture := none, lastSent := none } else s.contact k := by
  have := foldl_places State.contact (fun t k => t.cancelCapture h send k)
    (fun _ c => if c.capture = some h then { c with capture := none, lastSent := none } else c) (fun _ => True)
    (fun _ _ _ => trivial) (fun t i _ => by rw [State.cancelCapture_contact]; simp)
    (fun t i j _ hj => by rw [State.cancelCapture_contact]; simp [hj]) (List.finRange 5) (nodup_finRange 5) s trivial k
  rw [if_pos (mem_finRange k)] at this
  exact this

/-! ### Contact reports -/

/-- What a report makes of one contact, from its entry, its listing and the hit test (R130). -/
def Contact.reported (c : Contact) (listed : Option Pos) (hit : Pos → Option Handle) : Contact :=
  match c.state, listed with
  | .none, some p => { c with state := .settling, last := some p }
  | .none, none => c
  | .settling, some p =>
    { state := .held, capture := hit p, last := some p, lastSent := if (hit p).isSome then some p else none }
  | .settling, none => Contact.atReset
  | .held, some p => { c with last := some p, lastSent := if c.capture.isSome then some p else c.lastSent }
  | .held, none => Contact.atReset

theorem State.applyContact_contact_self (s : State) (es : List ReportEntry) (k : ContactNumber) :
    (s.applyContact es k).contact k = (s.contact k).reported (presentAt s.pins.panel es k) s.hitTest := by
  unfold State.applyContact Contact.reported
  dsimp only
  cases hc : (s.contact k).state <;> cases hp : presentAt s.pins.panel es k <;> dsimp only
  · simp
  · simp
  · simp only [State.contactDown]
    split
    · rename_i hh; simp [hh]
    · rename_i hh; simp [hh]
  · split
    · unfold State.contactUp
      dsimp only
      split <;> simp
    · simp
  · rename_i p
    split
    · rename_i h hcap
      unfold State.contactMove
      dsimp only
      split
      · rename_i hl
        simp [hcap, hl, hc]
      · simp [hcap, hc]
    · rename_i hcap
      simp [hcap]

theorem State.applyContact_contact_ne (s : State) (es : List ReportEntry) {k j : ContactNumber} (h : j ≠ k) :
    (s.applyContact es k).contact j = s.contact j := by
  unfold State.applyContact State.contactDown State.contactMove State.contactUp
  dsimp only
  (repeat' split) <;> simp [h]

/-- The hit test does not read the contacts, the event queues or the link controllers. -/
theorem State.hitTest_congr {s t : State} (hs : t.scanout = s.scanout) (hw : t.windows = s.windows) :
    t.hitTest = s.hitTest := by
  funext p
  have hh : t.hits p = s.hits p := by
    funext e
    have hwin : t.window = s.window := by
      funext i
      simp only [State.window, hw]
    unfold State.hits State.current
    rw [hwin]
  simp only [State.hitTest, hs, hh]

/-- A report decides each contact from that contact's own entry and listing. -/
theorem State.applyReport_contact (s : State) (es : List ReportEntry) (k : ContactNumber) :
    (s.applyReport es).contact k = (s.contact k).reported (presentAt s.pins.panel es k) s.hitTest := by
  have := foldl_places State.contact (fun t k => t.applyContact es k)
    (fun k c => c.reported (presentAt s.pins.panel es k) s.hitTest)
    (fun t => t.pins = s.pins ∧ t.scanout = s.scanout ∧ t.windows = s.windows)
    (fun t i h => by simpa using h)
    (fun t i h => by rw [State.applyContact_contact_self, h.1, State.hitTest_congr h.2.1 h.2.2])
    (fun t i j _ hj => t.applyContact_contact_ne es hj) (List.finRange 5) (nodup_finRange 5) s ⟨rfl, rfl, rfl⟩ k
  rw [if_pos (mem_finRange k)] at this
  exact this

/-! ### Front and drawing buffers -/

@[simp] theorem Window.frontPages_single {w : Window} (h : w.buffering = .single) : w.frontPages = w.buf0 := by
  simp [Window.frontPages, h]

@[simp] theorem Window.frontPages_double {w : Window} (h : w.buffering = .double) : w.frontPages = w.buffer w.front := by
  simp [Window.frontPages, h]

@[simp] theorem Window.drawingPages_single {w : Window} (h : w.buffering = .single) : w.drawingPages = w.buf0 := by
  simp [Window.drawingPages, h]

@[simp] theorem Window.drawingPages_double {w : Window} (h : w.buffering = .double) :
    w.drawingPages = w.buffer w.front.other := by
  simp [Window.drawingPages, h]

/-! ### Entering CLOSING -/

/-- A close takes the window off the live stack. -/
theorem State.enterClosing_stack (s : State) (i : Slot) (reason : CloseReason) :
    (s.enterClosing i reason).stack = s.stack.filter fun j => decide (j ≠ i) := by
  unfold State.enterClosing
  simp

/-- A close changes no other window. -/
theorem State.enterClosing_window_ne (s : State) {i j : Slot} (reason : CloseReason) (h : j ≠ i) :
    (s.enterClosing i reason).window j = s.window j := by
  unfold State.enterClosing
  simp [State.releaseTest_window_ne, h]

/-- A close clears the captures on its window, and changes no other contact. -/
theorem State.enterClosing_contact (s : State) (i : Slot) (reason : CloseReason) (k : ContactNumber) :
    (s.enterClosing i reason).contact k =
      if (s.contact k).capture = some ⟨i, (s.window i).gen⟩ then { s.contact k with capture := none, lastSent := none }
      else s.contact k := by
  unfold State.enterClosing
  simp [State.cancelCaptures_contact]

/-- A close leaves the free set as it is. -/
theorem State.enterClosing_free (s : State) (i : Slot) (reason : CloseReason) :
    (s.enterClosing i reason).pool.free = s.pool.free := by
  unfold State.enterClosing
  simp

end Sys2Proof.Machine
end

