-- ==== Sys2Proof/Tests/Slice0.lean ====
section
/-! SUPPORT. Tests: the WellFormed smoke, the spec's own worked figures, and small steps of every command on small states. -/

namespace Sys2Proof.Tests

set_option Elab.async false

open Sys2Proof Sys2Proof.Machine

/-! ### WellFormed refuses an ill-formed term of each check -/

/-- A payload longer than a frame can carry (R154, R178). -/
def tooLong : List Byte := List.replicate 4161 0

theorem test_wf_refuses_known_codes : (Instr.badCommand .A 0 0x01).wf = false ∧ (Instr.badCommand .A 0 0x07).wf = false ∧
    (Instr.badCommand .A 0 0x10).wf = false ∧ (Instr.badCommand .A 0 0x18).wf = false ∧
    (Instr.badCommand .A 0 0x20).wf = false ∧ (Instr.badCommand .A 0 0x32).wf = false := by decide

theorem test_wf_accepts_other_codes : (Instr.badCommand .A 0 0x00).wf = true ∧ (Instr.badCommand .A 0 0x08).wf = true ∧
    (Instr.badCommand .A 0 0x19).wf = true ∧ (Instr.badCommand .A 0 0x33).wf = true := by decide

theorem test_payload_fits : payloadFits tooLong = false ∧ payloadFits (tooLong.drop 1) = true := by decide +kernel

theorem test_wf_refuses_long_payloads : (Instr.hello .A 0 tooLong).wf = false ∧ (Instr.setNotify .A 0 tooLong).wf = false ∧
    (Instr.ackEvents .A 0 tooLong).wf = false ∧ (Instr.openWindow .A 0 tooLong).wf = false ∧
    (Instr.closeWindow .A 0 tooLong).wf = false ∧ (Instr.moveWindow .A 0 tooLong).wf = false ∧
    (Instr.setLook .A 0 tooLong).wf = false ∧ (Instr.setTouch .A 0 tooLong).wf = false ∧
    (Instr.grant .A 0 tooLong).wf = false ∧ (Instr.windowInfo .A 0 tooLong).wf = false ∧
    (Instr.showWindow .A 0 tooLong).wf = false ∧ (Instr.hide .A 0 tooLong).wf = false ∧
    (Instr.submit .A 0 tooLong).wf = false ∧ (Instr.loadStamp .A 0 tooLong).wf = false ∧
    (Instr.reloadStamp .A 0 tooLong).wf = false ∧ (Instr.freeStamp .A 0 tooLong).wf = false :=
  have h := test_payload_fits.1
  ⟨h, h, h, h, h, h, h, h, h, h, h, h, h, h, h, h⟩

/-! ### Formats (file 12) -/

/-- The check over the nine ASCII bytes 123456789 is 0x29B1 (R178). -/
theorem test_crc : crc16 [0x31, 0x32, 0x33, 0x34, 0x35, 0x36, 0x37, 0x38, 0x39] = 0x29B1#16 := by decide +kernel

/-- A PING frame is taken as PING whatever its type byte; with one bit of its check changed it fails the check. -/
theorem test_frame_taken : Instr.ofFrame .B (frameBytes 0x77 0x03 0x0009 []) = .ping .B 9 ∧
    Instr.ofFrame .B ((frameBytes 0x01 0x03 0x0009 []).set 7 0) = .checkFailed .B ∧
    Instr.ofFrame .B [0x01] = .checkFailed .B ∧ Instr.ofFrame .B (frameBytes 0x01 0x40 5 [1]) = .badCommand .B 5 0x40 := by
  decide +kernel

/-- A FILL's job record, byte by byte (12.5). -/
theorem test_job_record : jobRequest
    [1, 1, 0x12, 0x34, 5, 7, 0, 1, 0, 2, 0, 3, 0, 4, 0, 0, 0, 7, 16, 0, 0, 0, 0, 0, 0xAB, 0xCD, 0, 0, 0, 0, 0, 0] =
      some ⟨0x1234, true, .fill ⟨5, 7⟩ ⟨1, 2, 3, 4⟩ 0xABCD (.blend 16)⟩ := by decide +kernel

/-- The same record with weight 17, with an inline byte, with a width of 0, and cut short is refused (R75). -/
theorem test_job_record_refused : jobRequest
      [1, 1, 0, 0, 5, 7, 0, 1, 0, 2, 0, 3, 0, 4, 0, 0, 0, 7, 17, 0, 0, 0, 0, 0, 0, 0, 0, 0, 0, 0, 0, 0] = none ∧
    jobRequest [1, 1, 0, 0, 5, 7, 0, 1, 0, 2, 0, 3, 0, 4, 0, 0, 0, 0, 0, 0, 0, 0, 0, 0, 0, 0, 0, 0, 0, 0, 0, 0, 9] = none ∧
    jobRequest [1, 1, 0, 0, 5, 7, 0, 1, 0, 2, 0, 0, 0, 4, 0, 0, 0, 0, 0, 0, 0, 0, 0, 0, 0, 0, 0, 0, 0, 0, 0, 0] = none ∧
    jobRequest [1, 1, 0, 0, 5, 7] = none := by decide +kernel

/-- A response frame: type 0x02, the command's code, the sequence number, the status and the expected sequence (R178, R181). -/
theorem test_response_frame : (executedResponse 9 0x10 .ok (.window ⟨3, 0⟩)).frame.take 10 =
    [0x02, 0x10, 0x00, 0x09, 0x00, 0x04, 0x00, 0x0A, 0x03, 0x00] := by decide +kernel

/-- An event frame: type 0x03, the kind, the event sequence number, then the payload (R178, 12.4). -/
theorem test_event_frame : (EventRecord.frame ⟨0x1234, .touch .move 3 ⟨2, 9⟩ (-1) 300, true⟩).take 14 =
    [0x03, 0x07, 0x12, 0x34, 0x00, 0x08, 0x03, 0x00, 0x02, 0x09, 0xFF, 0xFF, 0x01, 0x2C] := by decide +kernel

/-! ### The spec's worked figures -/

/-- Pages needed (2.3). -/
theorem test_pages : pagesNeeded 1 1 .single = 1 ∧ pagesNeeded 33 32 .double = 4 ∧ pagesNeeded 480 272 .double = 256 ∧
    pagesNeeded 800 480 .single = 375 ∧ pagesNeeded 1024 1024 .double = 2048 := by decide

/-- Pixels (123, 3), (124, 3) and (299, 9) of a window 300 wide on pages 7, 8, 12 (2.3). -/
theorem test_pixel_addresses : pixelAddr [7, 8, 12] (3 * 300 + 123) = some (7 * 2048 + 2 * 1023) ∧
    pixelAddr [7, 8, 12] (3 * 300 + 124) = some (8 * 2048) ∧
    pixelAddr [7, 8, 12] (9 * 300 + 299) = some (12 * 2048 + 2 * 951) := by decide

/-- One pixel through four windows (3.8): the running colour after each entry. -/
theorem test_composition : blend 0x001F 0x0000 16 = 0x001F#16 ∧ blend 0xF800 0x001F 8 = 0x8010#16 ∧
    blend 0xFFFF 0x8010 4 = 0xA214#16 := by decide

/-- The two FILLs of 6.3: XOR, then BLEND with weight 4. -/
theorem test_fill_figures : combined 0x07E0 0x001F .xor = 0x07FF#16 ∧ combined 0x07E0 0xFFFF .xor = 0xF81F#16 ∧
    combined 0xFFFF 0x07E0 (.blend 4) = 0x47E8#16 := by decide

/-- The ten-pixel-wide mask (6.9): its padding bits draw nothing. -/
theorem test_mask_rows : ((List.range 10).map fun i => maskBit [0xA5, 0xC0, 0xFF, 0x7F] 2 i 0) =
      [true, false, true, false, false, true, false, true, true, true] ∧
    ((List.range 10).map fun i => maskBit [0xA5, 0xC0, 0xFF, 0x7F] 2 i 1) =
      [true, true, true, true, true, true, true, true, false, true] := by decide +kernel

/-- A contact report's entry: 12-bit positions (R182). -/
theorem test_report_entry : reportEntries [2, 0x1E, 0x01, 0x10] = some [⟨2, 480, 272⟩] ∧
    takenReport [5, 0, 0, 0] = none ∧ takenReport [1, 0, 0, 0, 1, 0, 0, 0] = none ∧ takenReport [1, 0, 0] = none := by
  decide +kernel

/-! ### Small states -/

/-- What a command's next state shows. -/
def after {α : Type} (o : Host.Outcome State Fault Refusal) (f : State → α) : Option α :=
  match o with
  | .next t => some (f t)
  | .fault _ => none
  | .refused _ => none

/-- A session with a lease of 100 ms, 7 ms old. -/
def session : LinkCtl := { LinkCtl.atReset with state := .up, lease := some 100, timer := some 7 }

/-- Five free pages, nothing to scrub. -/
def smallPool : Pool := { free := [3, 5, 8, 9, 12], scrub := [], busy := false, held := PerLink.all 0 }

/-- Links A and B UP, five free pages, nothing else. -/
def twoLinks : State := ((State.reset.setPool smallPool).setLink .A session).setLink .B session

/-- A window of 2 × 3 pixels on page 20, generation 4. -/
def small (o : Link) (st : WindowState) : Window :=
  { Window.atReset with gen := 4, state := st, owner := some o, width := 2, height := 3, buf0 := [20], weight := 16,
                        touch := true }

/-- The handles of the windows in slots 0, 1, 2. -/
def w0 : Handle := ⟨0, 4⟩
def w1 : Handle := ⟨1, 4⟩
def w2 : Handle := ⟨2, 4⟩

/-- A's windows in slots 0 (SHOWN) and 1 (HIDDEN), B's in slot 2 (SHOWN), slot 0 below slot 2. -/
def threeWindows : State :=
  ((((twoLinks.setWindow 0 (small .A .shown)).setWindow 1 (small .A .hidden)).setWindow 2 (small .B .shown)).setStack
    [0, 2])

/-- What the link sends next: the response taken by the idle transmitter. -/
def answerOn (l : Link) (t : State) : Option (Status × Result) :=
  match (t.link l).tx with
  | .response r => some (r.status, r.result)
  | .event _ => none
  | .idle => none

/-! ### Reset, pool, links -/

theorem test_pinReset : after (exec (.pinReset ⟨2, true, false, true, false, true⟩) threeWindows)
    (fun t => (t.resetN, t.pins.panel, (t.window 0).state, (t.link .A).state, t.pool.scrub.length)) =
      some (false, 2, .free, .down, 4096) := by decide +kernel

theorem test_resetRelease : after (exec .resetRelease (State.heldInReset Pins.low))
    (fun t => (t.resetN, t.pool.busy, t.pageState 0, t.pageState 1)) = some (true, true, .scrubbing, .queued) := by
  decide +kernel

theorem test_scrubCompletion :
    after (exec .scrubCompletion (twoLinks.setPool { smallPool with scrub := [7, 2], busy := true }))
      (fun t => (t.pool.free, t.pool.scrub, t.pool.busy)) = some ([3, 5, 7, 8, 9, 12], [2], true) := by decide +kernel

theorem test_checkFailed : after (exec (.checkFailed .C) twoLinks) (fun t => (t.link .C).tx) =
    some (.response ⟨0, 0, .checkFailed, 0, .none⟩) := by decide +kernel

theorem test_badCommand : after (exec (.badCommand .A 0 0x40) twoLinks) (fun t => ((t.link .A).tx, (t.link .A).expected)) =
    some (.response ⟨0x40, 0, .badCommand, 1, .none⟩, 1) := by decide +kernel

theorem test_hello : after (exec (.hello .D 200 [0, 50]) twoLinks)
    (fun t => ((t.link .D).state, (t.link .D).expected, (t.link .D).timer, answerOn .D t)) =
      some (.up, 201, some 0, some (.ok, .hello .D .reset 0 false false 50)) := by decide +kernel

theorem test_hello_refused : after (exec (.hello .D 200 [0, 9]) twoLinks) (fun t => ((t.link .D).state, answerOn .D t)) =
    some (.down, some (.badParam, .none)) := by decide +kernel

theorem test_goodbye : after (exec (.goodbye .A 0) twoLinks)
    (fun t => ((t.link .A).state, (t.link .A).goodbye, (t.link .A).timer, answerOn .A t)) =
      some (.up, true, none, some (.ok, .none)) := by decide +kernel

theorem test_ping : after (exec (.ping .A 0) twoLinks) (fun t => ((t.link .A).timer, answerOn .A t)) =
    some (some 0, some (.ok, .none)) := by decide +kernel

theorem test_ping_skipped : after (exec (.ping .A 1) twoLinks) (fun t => ((t.link .A).expected, answerOn .A t)) =
    some (0, some (.sequenceError, .none)) := by decide +kernel

theorem test_setNotify : after (exec (.setNotify .A 0 [1]) twoLinks) (fun t => ((t.link .A).notify, answerOn .A t)) =
    some (true, some (.ok, .none)) := by decide +kernel

theorem test_status : after (exec (.status .A 0) threeWindows) (answerOn .A) =
    some (some (.ok, .status ⟨5, 0, 0, 0, false, 0, 0, 0, 0, 0, 0⟩)) := by decide +kernel

/-- A lease whose timer has reached it expires; one that is short of it does not (R166). -/
theorem test_leaseExpiry :
    after (exec (.leaseExpiry .A) (threeWindows.setLink .A { session with timer := some 100 }))
      (fun t => ((t.link .A).state, (t.link .A).lastEnd, (t.window 0).state, (t.window 2).state, t.stack)) =
        some (.down, .lease, .free, .shown, [2]) ∧
    after (exec (.leaseExpiry .A) threeWindows) (fun t => ((t.link .A).state, (t.link .A).timer, t.stack)) =
        some (.up, some 7, [0, 2]) := by decide +kernel

/-- A frame that arrives with the expiry and comes first renews the lease, and the expiry does not happen; the other way round
the session ends and the frame meets a link that is not UP (R168). -/
theorem test_frame_and_expiry :
    let due := threeWindows.setLink .A { session with timer := some 100 }
    ((after (exec (.ping .A 0) due) fun t => after (exec (.leaseExpiry .A) t) fun u =>
        ((u.link .A).state, (u.link .A).timer)) = some (some (.up, some 0))) ∧
    ((after (exec (.leaseExpiry .A) due) fun t => after (exec (.ping .A 0) t) fun u => answerOn .A u) =
      some (some (some (.notAttached, .none)))) := by decide +kernel

/-- The OK of a GOODBYE sent ends the session. -/
theorem test_transmitCompletion : after (exec (.transmitCompletion .A)
      (threeWindows.setLink .A { session with goodbye := true, timer := none,
                                              tx := .response (executedResponse 3 0x02 .ok .none) }))
    (fun t => ((t.link .A).state, (t.link .A).lastEnd, (t.link .A).tx)) = some (.down, .goodbye, .idle) := by decide +kernel

/-! ### Event queues -/

/-- Records 0 and 1 sent, 2 unsent, of a queue of link A. -/
def someEvents : EventQueue :=
  { records := [⟨0, .frame 1 1, true⟩, ⟨1, .jobDone 9 .mark, true⟩, ⟨2, .frame 2 1, false⟩], reserved := 0, sentCount := 2,
    lost := 0, nextSeq := 3 }

theorem test_ackEvents : after (exec (.ackEvents .A 0 [0, 1]) (twoLinks.setEvents .A someEvents))
    (fun t => ((t.eventsOf .A).records.map EventRecord.seq, (t.eventsOf .A).sentCount, answerOn .A t)) =
      some ([2], 0, some (.ok, .none)) := by decide +kernel

/-- A record that is unsent cannot be acknowledged (R147). -/
theorem test_ackEvents_refused : after (exec (.ackEvents .A 0 [0, 2]) (twoLinks.setEvents .A someEvents))
    (fun t => ((t.eventsOf .A).sentCount, answerOn .A t)) = some (2, some (.badAck, .none)) := by decide +kernel

theorem test_resendEvents : after (exec (.resendEvents .A 0) (twoLinks.setEvents .A someEvents))
    (fun t => ((t.eventsOf .A).records.map EventRecord.sent, (t.eventsOf .A).sentCount)) =
      some ([false, false, false], 0) := by decide +kernel

/-- ATTN: an unsent record on an UP link raises it; a queue at rest and a link that is DOWN leave it low (R150). -/
theorem test_attn : (twoLinks.setEvents .A someEvents).attn .A = true ∧ twoLinks.attn .A = false ∧
    (twoLinks.setEvents .C someEvents).attn .C = false := by decide +kernel

/-- Frame starts coalesce into an unsent FRAME record (R69). -/
theorem test_frame_coalesces : (someEvents.queueUnreserved (.frame 3 1)).records.getLast? =
    some ⟨2, .frame 3 2, false⟩ := by decide +kernel

/-! ### Windows -/

/-- A window of 33 × 32 pixels, SINGLE, takes pages 3 and 5 and slot 0. -/
theorem test_openWindow : after (exec (.openWindow .A 0 [0, 33, 0, 32, 0xFF, 0xF6, 0, 40, 0, 0]) twoLinks)
    (fun t => ((t.window 0).buf0, (t.window 0).x, (t.eventsOf .A).reserved, answerOn .A t)) =
      some ([3, 5], -10, 1, some (.ok, .window ⟨0, 0⟩)) := by decide +kernel

theorem test_openWindow_poolFull : after (exec (.openWindow .A 0 [4, 0, 0, 6, 0, 0, 0, 0, 0, 0]) twoLinks) (answerOn .A) =
    some (some (.poolFull, .none)) := by decide +kernel

theorem test_closeWindow : after (exec (.closeWindow .A 0 [0, 4]) threeWindows)
    (fun t => ((t.window 0).state, (t.window 0).gen, t.stack, t.pool.scrub)) =
      some (.free, 5, [2], [20]) := by decide +kernel

theorem test_closeWindow_onGlass :
    after (exec (.closeWindow .A 0 [0, 4]) (threeWindows.setWindow 0 { small .A .shown with onGlass := true }))
      (fun t => ((t.window 0).state, (t.window 0).closeReason, t.stack, t.pool.scrub)) =
        some (.closing, some .owner, [2], []) := by decide +kernel

theorem test_moveWindow : after (exec (.moveWindow .A 0 [0, 4, 0xF8, 0x00, 0x07, 0xFF]) threeWindows)
    (fun t => ((t.window 0).x, (t.window 0).y, answerOn .A t)) = some (-2048, 2047, some (.ok, .none)) := by decide +kernel

theorem test_moveWindow_notOwner : after (exec (.moveWindow .A 0 [2, 4, 0, 0, 0, 0]) threeWindows) (answerOn .A) =
    some (some (.notOwner, .none)) := by decide +kernel

theorem test_setLook : after (exec (.setLook .A 0 [0, 4, 9, 1, 0x07, 0xE0]) threeWindows)
    (fun t => ((t.window 0).weight, (t.window 0).key)) = some (9, some 0x07E0#16) := by decide +kernel

theorem test_setTouch : after (exec (.setTouch .A 0 [0, 4, 0]) threeWindows) (fun t => (t.window 0).touch) =
    some false := by decide +kernel

theorem test_grant : after (exec (.grant .A 0 [0, 4, 0x0A]) threeWindows) (fun t => (t.window 0).grants) =
    some ⟨false, true, false, true⟩ := by decide +kernel

/-- A set that contains the owner is refused (R18). -/
theorem test_grant_owner : after (exec (.grant .A 0 [0, 4, 0x01]) threeWindows) (answerOn .A) =
    some (some (.badParam, .none)) := by decide +kernel

theorem test_windowInfo : after (exec (.windowInfo .A 0 [2, 4]) threeWindows) (answerOn .A) =
    some (some (.ok, .info ⟨true, some .B, 2, 3, 0, 0, 0, .single, 16, none, true, .zero, none, false, PerLink.all false⟩)) := by
  decide +kernel

/-- A HIDDEN window shown BELOW slot 0 of its tier. -/
theorem test_show : after (exec (.showWindow .A 0 [1, 4, 3, 0, 4]) threeWindows) (fun t => (t.stack, (t.window 1).state)) =
    some ([1, 0, 2], .shown) := by decide +kernel

/-- A reference that is the window itself is refused (R42, test 6). -/
theorem test_show_itself : after (exec (.showWindow .A 0 [0, 4, 2, 0, 4]) threeWindows) (fun t => (t.stack, answerOn .A t)) =
    some ([0, 2], some (.badParam, .none)) := by decide +kernel

theorem test_hide : after (exec (.hide .A 0 [0, 4]) threeWindows) (fun t => (t.stack, (t.window 0).state)) =
    some ([2], .hidden) := by decide +kernel

/-! ### Jobs -/

/-- A FILL of the two upper rows of slot 0 with 0xABCD, tag 1, notify on. -/
def fillJob : Job := ⟨1, true, .fill w0 ⟨0, 0, 2, 2⟩ 0xABCD .replace⟩

/-- threeWindows with the FILL in the engine. -/
def filling : State :=
  ((threeWindows.setQueue .A { entries := [fillJob], head := .inFlight, staging := 0 }).setEvents .A
    { EventQueue.atReset with reserved := 1 }).setEngine
    (some { link := .A, job := fillJob, abandon := none, progress := 0, writePages := [20], readPages := [],
            rowStore := [.pixel 0xABCD, .pixel 0xABCD], result := [] })

theorem test_submit : after (exec (.submit .A 0 fillJob.payload) threeWindows)
    (fun t => (t.engine, (t.queue .A).head, (t.eventsOf .A).reserved, answerOn .A t)) =
      some (filling.engine, .inFlight, 1, some (.accepted, .none)) := by decide +kernel

/-- A READ of another link's window without a grant is refused (R76, test 5). -/
theorem test_submit_denied :
    after (exec (.submit .A 0 (⟨1, true, .read w2 .shown ⟨0, 0, 1, 1⟩⟩ : Job).payload) threeWindows) (answerOn .A) =
      some (some (.denied, .none)) := by decide +kernel

theorem test_rowEnd : after (exec .rowEnd filling)
    (fun t => (readPixel t.mem 40960, readPixel t.mem 40962, readPixel t.mem 40964, t.engine.map InFlight.progress)) =
      some (0xABCD#16, 0xABCD#16, 0, some 1) := by decide +kernel

/-- While its row is being written, a frame may show a pixel's old or new value (R95). -/
theorem test_rowUnderWay : (filling.heldValues 40960, filling.heldValues 40964, twoLinks.heldValues 40960) =
    ([0, 0xABCD#16], [0, 0], [0]) := by decide +kernel

theorem test_rowEnd_last : after (exec .rowEnd (filling.setEngine (filling.engine.map fun f => { f with progress := 1 })))
    (fun t => (readPixel t.mem 40964, t.engine, (t.queue .A).entries, (t.link .A).tx)) =
      some (0xABCD#16, none, [], .event ⟨0, .jobDone 1 .fill, true⟩) := by decide +kernel

/-! ### Stamps -/

/-- A PATTERN8 stamp of A in slot 0, generation 2, with no references. -/
def patternStamp : Stamp :=
  { gen := 2, state := .loaded, kind := .pattern8, owner := some .A, visibility := .priv, references := 0,
    contents := List.replicate 128 7 }

/-- twoLinks with that stamp. -/
def withStamp : State := (twoLinks.setStamp 0 patternStamp).setOwned .A 1

theorem test_loadStamp : after (exec (.loadStamp .A 0 (0 :: 1 :: List.replicate 32 9)) withStamp)
    (fun t => ((t.stamp 1).kind, (t.stamp 1).visibility, t.ownedStamps.get .A, answerOn .A t)) =
      some (.mask16, .pub, 2, some (.ok, .stamp ⟨1, 0⟩)) := by decide +kernel

theorem test_reloadStamp : after (exec (.reloadStamp .A 0 (0 :: 2 :: List.replicate 128 1)) withStamp)
    (fun t => ((t.stamp 0).contents.getD 5 0, answerOn .A t)) = some (1, some (.ok, .none)) := by decide +kernel

theorem test_freeStamp : after (exec (.freeStamp .A 0 [0, 2]) withStamp)
    (fun t => ((t.stamp 0).state, (t.stamp 0).gen, t.ownedStamps.get .A, answerOn .A t)) =
      some (.free, 3, 0, some (.freed, .none)) := by decide +kernel

theorem test_freeStamp_inUse : after (exec (.freeStamp .A 0 [0, 2]) (withStamp.setStamp 0 { patternStamp with references := 1 }))
    (fun t => ((t.stamp 0).state, t.ownedStamps.get .A, answerOn .A t)) = some (.retiring, 1, some (.retiring, .none)) := by
  decide +kernel

/-! ### Frames and touches -/

theorem test_frameStart : after (exec .frameStart threeWindows)
    (fun t => (t.scanout.frameNumber, t.scanout.record.map Latched.handle, (t.window 0).onGlass, (t.window 1).onGlass)) =
      some (1, [w0, w2], true, false) := by decide +kernel

/-- A latched entry over a running colour: blended at its weight, or nothing where its pixel is its key (R51, 3.8). -/
theorem test_latched_over :
    ({ threeWindows.latched 0 with weight := 8, key := none } : Latched).over 0xF800 0x001F = 0x8010#16 ∧
    ({ threeWindows.latched 0 with weight := 16, key := some 0x07E0 } : Latched).over 0x07E0 0x8010 = 0x8010#16 := by
  decide +kernel

/-- threeWindows with its frame record latched and contact 3 about to go down. -/
def touching : State :=
  (threeWindows.setScanout { threeWindows.scanout with record := threeWindows.stack.map threeWindows.latched }).setContact 3
    { Contact.atReset with state := .settling, last := some ⟨1, 1⟩ }

/-- The contact goes down on the topmost window, B's, which is told. -/
theorem test_contactReport : after (exec (.contactReport [3, 0, 0x10, 2]) touching)
    (fun t => ((t.contact 3).capture, (t.link .B).tx)) = some (some w2, .event ⟨0, .touch .down 3 w2 1 2, true⟩) := by
  decide +kernel

theorem test_contactReport_malformed : after (exec (.contactReport [5, 0, 0, 0]) touching) (fun t => t.contact 3) =
    some (touching.contact 3) := by decide +kernel

/-- The frame of `touching` at its corners: the last pixel of a 480 × 272 screen is sent, the one beside it is not, and nothing is
sent in reset (R48, R50, R57). -/
theorem test_framePixel : (touching.framePixel 0 0).isSome = true ∧ touching.framePixel 479 271 = some 0x0000#16 ∧
    touching.framePixel 480 0 = none ∧ touching.framePixel 0 272 = none ∧
    (State.heldInReset Pins.low).framePixel 0 0 = none ∧ (State.heldInReset Pins.low).panelFrame = [] := by decide +kernel

/-! ### Witnesses: for every obligation with hypotheses, a state and operands that meet them together, clause by clause -/

theorem forall_link {p : Link → Prop} (hA : p .A) (hB : p .B) (hC : p .C) (hD : p .D) : ∀ l, p l
  | .A => hA
  | .B => hB
  | .C => hC
  | .D => hD

/-- What holds of every link of the list of all links holds of every link. -/
theorem forall_link_of {p : Link → Prop} (h : ∀ l ∈ allLinks, p l) : ∀ l, p l :=
  fun l => h l (by cases l <;> decide)

/-- Where every link is sending, or has no response waiting and no record unsent, every transmitter is settled. -/
theorem transmitterLaw_of {s : State} (h : ∀ l ∈ allLinks, (s.link l).tx = .idle →
    (s.link l).backlog = [] ∧ ∀ r ∈ (s.eventsOf l).records, r.sent = true) : TransmitterLaw s :=
  fun l hl => ⟨(forall_link_of h l hl).1, fun _ _ => (forall_link_of h l hl).2⟩

/-- Some response. -/
def someResponse : Response := ⟨0x03, 9, .ok, 10, .none⟩

/-- Link A sending, with n responses waiting. -/
def crowded (n : Nat) : State :=
  twoLinks.setLink .A { session with tx := .response someResponse, backlog := List.replicate n someResponse }

/-- Link A n milliseconds into a lease of 100. -/
def aged (n : Nat) : State := twoLinks.setLink .A { session with timer := some n }

/-- Link C in TEARDOWN, waiting for a window. -/
def tearing : State := twoLinks.setLink .C { LinkCtl.atReset with state := .teardown, toRelease := 1 }

/-- Link C DOWN, sending, with n responses waiting. -/
def crowdedDown (n : Nat) : State :=
  twoLinks.setLink .C { LinkCtl.atReset with tx := .response someResponse, backlog := List.replicate n someResponse }

theorem ready_twoLinks : twoLinks.ready .A 0 := by unfold State.ready; decide +kernel

theorem ready_threeWindows : threeWindows.ready .A 0 := by unfold State.ready; decide +kernel

theorem ready_withStamp : withStamp.ready .A 0 := by unfold State.ready; decide +kernel

theorem transmitterLaw_twoLinks : TransmitterLaw twoLinks :=
  transmitterLaw_of (by decide +kernel)

theorem transmitterLaw_threeWindows : TransmitterLaw threeWindows :=
  transmitterLaw_of (by decide +kernel)

theorem transmitterLaw_withStamp : TransmitterLaw withStamp :=
  transmitterLaw_of (by decide +kernel)

theorem transmitterLaw_filling : TransmitterLaw filling :=
  transmitterLaw_of (by decide +kernel)

theorem transmitterLaw_crowded (n : Nat) : TransmitterLaw (crowded n) := by
  refine transmitterLaw_of fun l _ h => ?_
  cases l
  · simp [crowded, State.link, State.setLink, PerLink.get, PerLink.set] at h
  all_goals exact ⟨rfl, fun _ hr => by cases hr⟩

/-- The job queues at rest, beside an idle engine, meet their law. -/
theorem jobLaw_quiet {s : State} (hq : s.queues = PerLink.all JobQueue.atReset) (he : s.engine = none) : JobLaw s := by
  have h : ∀ l, s.queue l = JobQueue.atReset := by
    intro l
    unfold State.queue
    rw [hq]
    cases l <;> rfl
  refine ⟨?_, ?_, ?_, ?_, ?_, ?_, ?_⟩
  · intro l; rw [h]; decide
  · intro l; rw [h]; decide
  · intro l; rw [h]; decide
  · intro l; rw [h, he]; simp [JobQueue.atReset]
  · intro f hf; rw [he] at hf; cases hf
  · intro l hl; rw [h] at hl; cases hl
  · intro _ l hl; rw [h] at hl; cases hl

theorem witness_FrontCommandIsExecuted :
    ({ twoLinks with pending := [.ping .A 0, .rowEnd] } : State).pending = .ping .A 0 :: [.rowEnd] := rfl

theorem witness_NothingMovesInReset : (State.heldInReset Pins.low).resetN = false ∧
    (∀ pins, Instr.ping .A 0 ≠ .pinReset pins) ∧ Instr.ping .A 0 ≠ .resetRelease :=
  ⟨rfl, (fun _ h => by cases h), fun h => by cases h⟩

/-- A timer one short of its lease, one at it, and a stopped one. -/
theorem witness_IdleMillisecond : (aged 99).pending = [] ∧ (aged 99).resetN = true ∧
    ((aged 99).link .A).timer = some 99 ∧ ((aged 99).link .A).lease = some 100 ∧ 99 < 100 ∧
    (aged 100).pending = [] ∧ (aged 100).resetN = true ∧ ((aged 100).link .A).timer = some 100 ∧
    ((aged 100).link .A).lease = some 100 ∧ ((aged 100).link .C).timer = none := by
  decide +kernel

theorem witness_PinResetAndRelease : (State.heldInReset Pins.low).resetN = false := rfl

theorem witness_ScrubCompletionFreesPage :
    let s := twoLinks.setPool { smallPool with scrub := [7], busy := true }
    s.resetN = true ∧ s.pool.busy = true ∧ s.pool.scrub = 7 :: [] := ⟨rfl, rfl, rfl⟩

theorem witness_FrameRoundTrip : (Instr.submit .A 5 fillJob.payload).wf = true ∧
    (Instr.submit .A 5 fillJob.payload).framed = some (.A, 0x20#8, 5, fillJob.payload) ∧
    (Instr.badCommand .D 255 0x08).wf = true ∧ (Instr.badCommand .D 255 0x08).framed = some (.D, 0x08#8, 255, []) ∧
    (Instr.hello .B 0 (tooLong.drop 1)).wf = true ∧ (Instr.ping .C 1).framed = some (.C, 0x03#8, 1, []) ∧
    someResponse.result = .none ∧ (⟨0, .windowClosed w0, true⟩ : EventRecord).event = .windowClosed w0 ∧
    [(7 : Byte), 9].length ≤ 4160 :=
  ⟨by decide +kernel, rfl, by decide, rfl, test_payload_fits.2, rfl, rfl, rfl, by decide⟩

theorem witness_JobRecordRoundTrip : (JobOp.fill w0 ⟨1023, 1023, 1024, 1024⟩ 0xFFFF (.blend 16)).wf ∧
    (JobOp.stampExpand w0 ⟨0, 0, 16, 16⟩ ⟨191, 0⟩ 1 none).wf ∧ (JobOp.read w0 .drawing ⟨0, 0, 2, 1024⟩).wf ∧
    (JobOp.maskExpand w0 ⟨0, 0, 9, 1⟩ 1 (some 2) [0, 0]).wf ∧ (JobOp.write w0 ⟨0, 0, 1, 1⟩ .replace none [7]).wf ∧
    JobOp.mark.wf ∧ ([] : List Byte).length < 32 ∧ fillJob.payload.length = 32 := by
  refine ⟨?_, ?_, ?_, ?_, ?_, ?_, by decide, by decide⟩ <;> simp [JobOp.wf, Rect.wf, Combine.wf]

theorem witness_CommandFieldsRead : (31#8).toNat < 32 ∧ (0#8).toNat < 32 ∧ ([] : List Byte).length < 1 ∧
    31 < ([(32 : Byte), 0].getD 0 0).toNat := by decide

theorem witness_BlendArithmetic : (16 : Nat) ≤ 16 ∧ (0 : Nat) ≤ 16 ∧ (8 : Nat) ≤ 16 := by decide

theorem witness_ComposedPixel : twoLinks.framePixel 479 271 = some 0x0000#16 ∧ twoLinks.scanout.earlier = [] ∧
    (∀ f, twoLinks.engine = some f → f.job.op.target = none) ∧ pixelAddr [7] 1023 = some 16382 :=
  ⟨by decide +kernel, rfl, (fun _ h => by cases h), rfl⟩

theorem witness_CheckFailedAnswered : (crowded 3).resetN = true ∧ (crowded 3).settled .A ∧
    ((crowded 3).link .A).backlog.length < 4 ∧ (crowded 4).settled .A ∧ 4 ≤ ((crowded 4).link .A).backlog.length :=
  ⟨rfl, transmitterLaw_crowded 3 .A, by decide +kernel, transmitterLaw_crowded 4 .A, by decide +kernel⟩

theorem witness_OutsideSessionAnswered : (Instr.ping .C 5).framed = some (.C, 0x03#8, 5, []) ∧ TransmitterLaw twoLinks ∧
    (twoLinks.link .C).state ≠ .up ∧ (twoLinks.link .C).backlog.length < 4 ∧ (∀ q, Instr.ping .C 5 ≠ .hello .C 5 q) ∧
    (Instr.hello .C 5 [0, 50]).framed = some (.C, 0x01#8, 5, [0, 50]) ∧ (tearing.link .C).state = .teardown ∧
    (tearing.link .C).backlog.length < 4 ∧ TransmitterLaw tearing ∧ ((crowdedDown 4).link .C).state ≠ .up ∧
    4 ≤ ((crowdedDown 4).link .C).backlog.length ∧ TransmitterLaw (crowdedDown 4) :=
  ⟨rfl, transmitterLaw_twoLinks, by decide +kernel, by decide +kernel, (fun _ h => by cases h), rfl, rfl,
    by decide +kernel,
    transmitterLaw_of (by decide +kernel),
    by decide +kernel, by decide +kernel,
    transmitterLaw_of (by decide +kernel)⟩

/-- Link A with a cached response for number 255. -/
def cachedOnce : State := twoLinks.setLink .A { session with cache := [(255, someResponse)] }

theorem witness_SequenceNumberDecides :
    let leaving := twoLinks.setLink .A { session with goodbye := true, timer := none }
    (leaving.link .A).state = .up ∧ (leaving.link .A).goodbye = true ∧ TransmitterLaw leaving ∧
    (cachedOnce.link .A).state = .up ∧ (cachedOnce.link .A).goodbye = false ∧ TransmitterLaw cachedOnce ∧
    (cachedOnce.link .A).cache.find? (fun e => decide (e.1 = 255)) = some (255, someResponse) ∧
    (255 : Byte) ≠ (cachedOnce.link .A).expected ∧ (∀ e ∈ (cachedOnce.link .A).cache, e.1 ≠ 1) ∧
    (1 : Byte) ≠ (cachedOnce.link .A).expected :=
  ⟨rfl, rfl,
    transmitterLaw_of (by decide +kernel),
    rfl, rfl,
    transmitterLaw_of (by decide +kernel), by decide +kernel⟩

/-- A full backlog; a timer at its lease; a timer short of it; and the OK of GOODBYE under way. -/
theorem witness_SessionEnds : (Instr.ping .A 7).framed = some (.A, 0x03#8, 7, []) ∧ ((crowded 4).link .A).state = .up ∧
    ((crowded 4).link .A).goodbye = false ∧ 4 ≤ ((crowded 4).link .A).backlog.length ∧
    (((aged 100).link .A).timer = some 100 ∧ ((aged 100).link .A).lease = some 100) ∧
    (((aged 99).link .A).timer = some 99 ∧ ((aged 99).link .A).lease = some 100 ∧ 99 < 100) ∧
    (let s := twoLinks.setLink .A { session with goodbye := true, timer := none,
                                                 tx := .response (executedResponse 3 0x02 .ok .none) }
     (s.link .A).tx = .response (executedResponse 3 0x02 .ok .none) ∧ (s.link .A).goodbye = true ∧
      (executedResponse 3 0x02 .ok .none).code = 0x02#8 ∧ (executedResponse 3 0x02 .ok .none).status = .ok) := by
  decide +kernel

/-- A's session is due to end while B's COPY in flight reads A's window and A's queued TILE holds the last reference of a
RETIRING stamp of B. -/
def endingAmidJobs : State :=
  let reads : Job := ⟨1, true, .copy w2 ⟨0, 0, 1, 1⟩ w0 .shown 0 0 .replace none⟩
  ((((threeWindows.setLink .A { session with timer := some 100 }).setQueue .A
      { entries := [⟨9, true, .tile w0 ⟨0, 0, 1, 1⟩ ⟨0, 2⟩ .replace none⟩], head := .eligible, staging := 0 }).setQueue .B
      { entries := [reads], head := .inFlight, staging := 0 }).setEngine
    (some { link := .B, job := reads, abandon := none, progress := 0, writePages := [20], readPages := [20],
            rowStore := [.pixel 0], result := [] })).setStamp 0
    { patternStamp with state := .retiring, owner := some .B, references := 1 }

/-- What that end meets and leaves: the window read waits, the other is released, the job takes SOURCE_LOST, the stamp is freed,
and its owner is told. -/
theorem witness_SessionEnds_amid_jobs :
    (endingAmidJobs.releasedAtEnd .A = [1] ∧ endingAmidJobs.awaitedWindows .A = 1 ∧
      (endingAmidJobs.leavingJobs .A).length = 1 ∧ endingAmidJobs.retires (endingAmidJobs.leavingJobs .A) 0 = true) ∧
    (after (exec (.leaseExpiry .A) endingAmidJobs) fun t =>
        ((t.link .A).state, t.engine.map InFlight.abandon, (t.window 0).state, (t.window 1).state)) =
      some (.teardown, some (some .sourceLost), .closing, .free) ∧
    (after (exec (.leaseExpiry .A) endingAmidJobs) fun t => ((t.stamp 0).state, (t.link .B).tx)) =
      some (.free, .event ⟨0, .stampFreed ⟨0, 2⟩, true⟩) := by
  decide +kernel

/-- B's queue waits for the flip of A's window, whose session is due to end. -/
def heldByAnother : State :=
  (((threeWindows.setLink .A { session with timer := some 100 }).setWindow 0
      { small .A .shown with flipPending := some ⟨2, true⟩ }).setQueue .B
      { entries := [⟨7, true, .fill w0 ⟨0, 0, 1, 1⟩ 1 .replace⟩, ⟨8, false, .mark⟩], head := .waitFlip, staging := 0 }).setEvents .B
    { EventQueue.atReset with reserved := 2 }

/-- The head fails when the window closes, by its owner or with its owner's session (R81), and the queue goes on. -/
theorem test_freed_heads :
    (after (exec (.closeWindow .A 0 [0, 4]) heldByAnother) fun t => ((t.queue .B).entries, (t.link .B).tx)) =
      some ([], .event ⟨0, .jobFailed 7 .targetGone, true⟩) ∧
    (after (exec (.leaseExpiry .A) heldByAnother) fun t => ((t.queue .B).entries, (t.link .B).tx)) =
      some ([], .event ⟨0, .jobFailed 7 .targetGone, true⟩) := by decide +kernel

/-- No head waits; and a head of A waits for A's own window while B's session ends. -/
theorem witness_othersWaitFor : JobLaw twoLinks ∧ twoLinks.othersWaitFor .A (fun _ => False) ∧
    (let held := (threeWindows.setWindow 0 { small .A .shown with flipPending := some ⟨2, true⟩ }).setQueue .A
        { entries := [fillJob], head := .waitFlip, staging := 0 }
     held.othersWaitFor .B fun i => (held.window i).owner ≠ some .B) := by
  refine ⟨jobLaw_quiet rfl rfl, fun k _ hk => ?_, fun k hk hw => ?_⟩
  · exact absurd hk (by cases k <;> decide +kernel)
  · cases k with
    | A => exact ⟨fillJob, [], w0, by decide +kernel⟩
    | B => exact absurd rfl hk
    | C => exact absurd hw (by decide +kernel)
    | D => exact absurd hw (by decide +kernel)

theorem witness_HelloBeginsSession : (twoLinks.link .C).state = .down ∧ (twoLinks.link .C).backlog.length < 4 ∧
    10 ≤ (be16 0 10).toNat ∧ (be16 0 10).toNat ≤ 2000 ∧ 10 ≤ (be16 0x07 0xD0).toNat ∧ (be16 0x07 0xD0).toNat ≤ 2000 := by
  decide +kernel

theorem witness_HelloRefused : (twoLinks.link .C).state = .down ∧ (twoLinks.link .C).backlog.length < 4 ∧
    [(1 : Byte)].length < 2 ∧ (be16 0 9).toNat < 10 ∧ 2000 < (be16 0x07 0xD1).toNat ∧ twoLinks.ready .A 0 :=
  ⟨by decide +kernel, by decide +kernel, by decide, by decide, by decide, ready_twoLinks⟩

theorem witness_executed_commands : twoLinks.ready .A 0 := ready_twoLinks

theorem witness_SetNotifyResult : twoLinks.ready .A 0 ∧ 1 < ([(2 : Byte)].getD 0 0).toNat := ⟨ready_twoLinks, by decide⟩

/-- Link A sending an event record, with a response waiting, with an unsent record, and with nothing; and idle with each. -/
theorem witness_TransmitterChooses :
    let busy := fun c : LinkCtl => { c with tx := .event ⟨0, .lostEvents 1, true⟩ }
    let waiting := twoLinks.setLink .A (busy { session with backlog := [someResponse] })
    let unsent := (twoLinks.setLink .A (busy session)).setEvents .A someEvents
    let quiet := twoLinks.setLink .A (busy session)
    (waiting.link .A).tx ≠ .idle ∧ (∀ r, (waiting.link .A).tx ≠ .response r) ∧
    (waiting.link .A).backlog = someResponse :: [] ∧
    (unsent.link .A).backlog = [] ∧ (unsent.link .A).state = .up ∧ (unsent.eventsOf .A).sentCount < 8 ∧
    (unsent.eventsOf .A).records = [⟨0, .frame 1 1, true⟩, ⟨1, .jobDone 9 .mark, true⟩] ++ ⟨2, .frame 2 1, false⟩ :: [] ∧
    (quiet.link .A).backlog = [] ∧ (∀ x ∈ (quiet.eventsOf .A).records, x.sent = true) ∧
    ((twoLinks.setLink .A { session with backlog := [someResponse] }).link .A).tx = .idle ∧
    ((twoLinks.setEvents .A someEvents).link .A).tx = .idle ∧ (twoLinks.link .A).tx = .idle :=
  ⟨by decide +kernel, (fun _ h => by cases h), rfl, rfl, rfl, by decide +kernel, rfl, rfl, by decide +kernel, rfl, rfl, rfl⟩

theorem witness_AckAndResend :
    let s := twoLinks.setEvents .A someEvents
    s.ready .A 0 ∧ [(0 : Byte)].length < 2 ∧ (∀ r ∈ (s.eventsOf .A).records, ¬ (r.seq = be16 0 2 ∧ r.sent = true)) ∧
    (s.eventsOf .A).records = [⟨0, .frame 1 1, true⟩] ++ ⟨1, .jobDone 9 .mark, true⟩ :: [⟨2, .frame 2 1, false⟩] ∧
    (⟨1, .jobDone 9 .mark, true⟩ : EventRecord).seq = be16 0 1 :=
  ⟨by unfold State.ready; decide +kernel, by decide, by decide +kernel, rfl, by decide⟩

/-- A queue with a lost count; with an unsent LOST_EVENTS record; with a newest record that absorbs; with none that does. -/
theorem witness_UnreservedEventsTaken :
    (let q := ({ someEvents with lost := 3 } : EventQueue)
     q.lost ≠ 0 ∧ ∀ r, (q.records.filter EventRecord.isLost).getLast? = some r → r.sent = true) ∧
    (let q := ({ someEvents with records := [⟨2, .lostEvents 65535, false⟩], lost := 3 } : EventQueue)
     q.records = [] ++ ⟨2, .lostEvents 65535, false⟩ :: []) ∧
    someEvents.records = [⟨0, .frame 1 1, true⟩, ⟨1, .jobDone 9 .mark, true⟩] ++ ⟨2, .frame 2 1, false⟩ :: [] ∧
    (let q := ({ someEvents with records := [⟨2, .touch .move 3 w0 1 1, false⟩, ⟨3, .frame 1 1, true⟩] } : EventQueue)
     q.records = [] ++ ⟨2, .touch .move 3 w0 1 1, false⟩ :: [⟨3, .frame 1 1, true⟩] ∧
      (⟨3, .frame 1 1, true⟩ : EventRecord).isTouchOf 3 = false ∧
      ∀ r, (q.records.filter EventRecord.isFrame).getLast? = some r → r.sent = true) := by
  refine ⟨⟨by decide, ?_⟩, rfl, rfl, rfl, rfl, ?_⟩
  · intro r hr
    have h : ({ someEvents with lost := 3 } : EventQueue).records.filter EventRecord.isLost = [] := rfl
    rw [h] at hr
    cases hr
  · intro r hr
    have h : ([⟨2, .touch .move 3 w0 1 1, false⟩, ⟨3, .frame 1 1, true⟩] : List EventRecord).filter EventRecord.isFrame =
      [⟨3, .frame 1 1, true⟩] := rfl
    rw [h] at hr
    simp only [List.getLast?_singleton, Option.some.injEq] at hr
    rw [← hr]

/-- Every slot of the window table used. -/
def fullTable : State := { twoLinks with windows := Vector.replicate 32 (small .A .hidden) }

/-- A request for one page. -/
def onePage : OpenRequest := ⟨1, 1, 0, 0, 0, .single⟩

/-- A state and a request for each refusal of OPEN_WINDOW, at the bound where there is one. -/
theorem witness_OpenWindowRefusals : openRequest [] = none ∧
    (alertOf twoLinks.pins .A = false ∧ openRequest [0, 1, 0, 1, 0, 0, 0, 0, 3, 0] = some { onePage with tier := 3 }) ∧
    (∀ i : Slot, (fullTable.window i).state ≠ .free) ∧ openRequest [0, 1, 0, 1, 0, 0, 0, 0, 0, 0] = some onePage ∧
    (let s := twoLinks.setEvents .A { EventQueue.atReset with reserved := 64 }
     64 ≤ (s.eventsOf .A).records.length + (s.eventsOf .A).reserved) ∧
    (let s := twoLinks.setPool { smallPool with held := PerLink.all 1024 }
     s.pins.pool = false ∧ 1024 < s.pool.held.get .A + 1) ∧
    (let s := twoLinks.setPool { smallPool with free := [] }
     s.pool.free.length + s.pool.scrub.length < 1) ∧
    (let s := twoLinks.setPool { smallPool with free := [], scrub := [7] }
     s.pool.free.length + s.pool.scrub.length = 1 ∧ s.pool.free.length < 1) := by decide +kernel

/-- A DOUBLE window of two pages a buffer, in the last slot, at the quota. -/
theorem witness_OpenWindowOpens :
    let r : OpenRequest := { onePage with buffering := .double }
    let s := twoLinks.setPool { smallPool with held := PerLink.all 1022, free := [3, 5] }
    openRequest [0, 1, 0, 1, 0, 0, 0, 0, 0, 1] = some r ∧ ¬ (r.tier = 3 ∧ alertOf s.pins .A = false) ∧
    (s.window 0).state = .free ∧ (∀ j : Slot, j < 0 → (s.window j).state ≠ .free) ∧
    (s.eventsOf .A).records.length + (s.eventsOf .A).reserved < 64 ∧ s.pool.held.get .A + 2 ≤ 1024 ∧
    2 ≤ s.pool.free.length := by decide +kernel

theorem witness_WindowCommandRefusals : threeWindows.ready .A 0 ∧ TransmitterLaw threeWindows ∧
    changeOf (.hide .A 0 [32, 0]) = some (.A, 0, 0x13#8, none) ∧
    changeOf (.closeWindow .A 0 [0, 5]) = some (.A, 0, 0x11#8, some ⟨0, 5⟩) ∧ (threeWindows.window 0).gen ≠ 5 ∧
    changeOf (.setTouch .A 0 [2, 4, 1]) = some (.A, 0, 0x16#8, some w2) ∧ (threeWindows.window 2).owner ≠ some .A ∧
    ((threeWindows.setWindow 0 (small .A .closing)).window 0).state = .closing :=
  ⟨ready_threeWindows, transmitterLaw_threeWindows, rfl, rfl, by decide +kernel, rfl, by decide +kernel⟩

theorem mayChange_w0 : threeWindows.mayChange .A w0 := by unfold State.mayChange; decide +kernel

theorem witness_WindowChangesApplied : threeWindows.ready .A 0 ∧ threeWindows.mayChange .A w0 ∧
    moveRequest [0, 4, 0xF8, 0, 7, 0xFF] = some (w0, -2048, 2047) ∧
    lookRequest [0, 4, 16, 0, 1, 1] = some (w0, 16, none) ∧ touchRequest [0, 4, 1] = some (w0, true) ∧
    grantRequest [0, 4, 0x0E] = some (w0, ⟨false, true, true, true⟩) ∧
    grantRequest [0, 4, 0x01] = some (w0, ⟨true, false, false, false⟩) :=
  ⟨ready_threeWindows, mayChange_w0, by decide +kernel⟩

theorem witness_WindowInfoResult : threeWindows.ready .A 0 ∧ handleField [32, 4] = none ∧ handleField [31, 4] = some ⟨31, 4⟩ ∧
    (threeWindows.window 31).state = .free ∧ handleField [1, 4] = some w1 ∧ (threeWindows.window 1).state = .hidden ∧
    handleField [2, 4] = some w2 ∧ (threeWindows.window 2).state = .shown ∧
    ((threeWindows.setWindow 2 (small .B .closing)).window 2).state = .closing :=
  ⟨ready_threeWindows, by decide +kernel⟩

theorem witness_CloseWindowResult : threeWindows.ready .A 0 ∧ handleField [0, 4] = some w0 ∧ threeWindows.mayChange .A w0 ∧
    ¬ threeWindows.stillUsed 0 ∧ (threeWindows.setWindow 0 { small .A .shown with onGlass := true }).stillUsed 0 :=
  ⟨ready_threeWindows, by decide +kernel, mayChange_w0, by unfold State.stillUsed; decide +kernel, Or.inl rfl⟩

theorem witness_ShowPlacesWindow : threeWindows.ready .A 0 ∧ threeWindows.mayChange .A w0 ∧
    showRequest [0, 4, 0, 9, 9] = some (w0, .topOfTier) ∧ showRequest [0, 4, 1, 9, 9] = some (w0, .bottomOfTier) ∧
    showRequest [0, 4, 2, 2, 4] = some (w0, .above w2) ∧ showRequest [0, 4, 3, 2, 4] = some (w0, .below w2) ∧
    (threeWindows.window 2).state = .shown ∧ (threeWindows.window 2).gen = 4 ∧ (2 : Slot) ≠ 0 ∧
    (threeWindows.window 2).tier = (threeWindows.window 0).tier ∧ (2 : Slot) ∈ threeWindows.stack :=
  ⟨ready_threeWindows, mayChange_w0, by decide +kernel, by decide +kernel, by decide +kernel, by decide +kernel,
    by decide +kernel, by decide +kernel, by decide, by decide +kernel⟩

theorem witness_ShowReferenceRefusals : threeWindows.ready .A 0 ∧ threeWindows.mayChange .A w0 ∧
    showRequest [0, 4, 2, 2, 5] = some (w0, .above ⟨2, 5⟩) ∧ (threeWindows.window 2).gen ≠ 5 ∧
    showRequest [0, 4, 3, 0, 4] = some (w0, .below w0) ∧ showRequest [0, 4, 2, 1, 4] = some (w0, .above w1) ∧
    (threeWindows.window 1).state = .hidden ∧
    ((threeWindows.setWindow 2 { small .B .shown with tier := 1 }).window 2).tier ≠ (threeWindows.window 0).tier :=
  ⟨ready_threeWindows, mayChange_w0, by decide +kernel⟩

/-- touching with contacts 1 and 3 captured on A's window in slot 0. -/
def twoCaptures : State :=
  let held : Contact := { state := .held, capture := some w0, last := some ⟨1, 1⟩, lastSent := some ⟨1, 1⟩ }
  (touching.setContact 3 held).setContact 1 { held with last := some ⟨0, 2⟩ }

/-- Both captures are cleared, in ascending contact number, and the owner is told of each (R45, R136). -/
theorem test_hide_captures : after (exec (.hide .A 0 [0, 4]) twoCaptures)
    (fun t => ((t.eventsOf .A).records.map EventRecord.event, (t.contact 1).capture, (t.contact 3).capture)) =
      some ([.touch .cancel 1 w0 0 2, .touch .cancel 3 w0 1 1], none, none) := by decide +kernel

theorem witness_HideResult : threeWindows.ready .A 0 ∧ threeWindows.mayChange .A w1 ∧ threeWindows.mayChange .A w0 ∧
    (handleField [1, 4] = some w1 ∧ (threeWindows.window 1).state = .hidden) ∧
    twoCaptures.ready .A 0 ∧ twoCaptures.mayChange .A w0 ∧
    (handleField [0, 4] = some w0 ∧ (twoCaptures.window 0).state = .shown ∧ (twoCaptures.contact 1).capture = some w0 ∧
      (twoCaptures.contact 3).capture = some w0) :=
  ⟨ready_threeWindows, by unfold State.mayChange; decide +kernel, mayChange_w0, by decide +kernel,
    by unfold State.ready; decide +kernel, by unfold State.mayChange; decide +kernel, by decide +kernel⟩

theorem witness_OtherWindowsUntouched : (Instr.hide .A 0 [0, 4]).framed = some (.A, 0x13#8, 0, [0, 4]) ∧
    threeWindows.ready .A 0 ∧ (∃ t, exec (.hide .A 0 [0, 4]) threeWindows = .next t) ∧
    (threeWindows.window 2).state ≠ .free ∧ (threeWindows.window 2).owner ≠ some .A :=
  ⟨rfl, ready_threeWindows, ⟨_, rfl⟩, by decide +kernel⟩

/-- A one-pixel FILL of slot 0. -/
def onePixel (h : Handle) (x : Nat) : JobOp := .fill h ⟨x, 0, 1, 1⟩ 0 .replace

/-- A job for each refusal of SUBMIT that its windows and stamp decide, and a state for each that room decides. -/
theorem witness_SubmitRefusals : threeWindows.ready .A 0 ∧ TransmitterLaw threeWindows ∧ jobRequest [] = none ∧
    (threeWindows.window 0).gen ≠ 5 ∧ (threeWindows.setWindow 0 (small .A .closing)).submitRefusal .A (onePixel w0 0) =
      some .wrongState ∧ threeWindows.submitRefusal .A (onePixel w2 0) = some .notOwner ∧
    threeWindows.submitRefusal .A (.read w2 .shown ⟨0, 0, 1, 1⟩) = some .denied ∧
    threeWindows.submitRefusal .A (.tile w0 ⟨0, 0, 1, 1⟩ ⟨0, 2⟩ .replace none) = some .staleHandle ∧
    (threeWindows.setStamp 0 { patternStamp with state := .retiring }).submitRefusal .A
      (.tile w0 ⟨0, 0, 1, 1⟩ ⟨0, 2⟩ .replace none) = some .stampRetiring ∧
    (threeWindows.setStamp 0 patternStamp).submitRefusal .A (.stampExpand w0 ⟨0, 0, 1, 1⟩ ⟨0, 2⟩ 0 none) = some .badParam ∧
    (threeWindows.setStamp 0 { patternStamp with owner := some .B }).submitRefusal .A
      (.tile w0 ⟨0, 0, 1, 1⟩ ⟨0, 2⟩ .replace none) = some .denied ∧
    threeWindows.submitRefusal .A (onePixel w0 2) = some .outOfBounds ∧
    threeWindows.submitRefusal .A (onePixel w0 1) = none ∧
    (threeWindows.setQueue .A { entries := List.replicate 16 ⟨0, true, .mark⟩, head := .eligible, staging := 0 }).submitRefusal
      .A .mark = some .queueFull ∧
    (threeWindows.setQueue .A { JobQueue.atReset with staging := 16383 }).submitRefusal .A (.read w0 .shown ⟨0, 0, 1, 1⟩) =
      some .stagingFull ∧
    (threeWindows.setEvents .A { EventQueue.atReset with reserved := 64 }).submitRefusal .A .mark = some .eventsFull := by
  exact ⟨ready_threeWindows, transmitterLaw_threeWindows, by decide +kernel⟩

/-- A one-row FILL by B of its window in slot 2. -/
def fillB : Job := ⟨1, true, .fill w2 ⟨0, 0, 1, 1⟩ 7 .replace⟩

/-- threeWindows with the jobs queued on B, the first of them ELIGIBLE. -/
def queuedOnB (jobs : List Job) : State := threeWindows.setQueue .B { entries := jobs, head := .eligible, staging := 0 }

/-- A busy engine with the link's own job in it, with another link's job waiting for a flip, and with another link's queue
empty. -/
theorem witness_SubmitAdmits : (filling.ready .A 0 ∧ jobRequest fillJob.payload = some fillJob ∧
      filling.submitRefusal .A fillJob.op = none) ∧
    TransmitterLaw filling ∧ (filling.engine ≠ none ∧ (filling.queue .A).head = .inFlight) ∧
    (let held := (filling.setQueue .B { entries := [⟨1, true, .present w2⟩], head := .waitFlip, staging := 0 }).setWindow 2
        { small .B .shown with flipPending := some ⟨2, true⟩ }
     (held.queue .B).head = .waitFlip ∧ held.current w2 = true ∧ (held.window 2).flipPending ≠ none) ∧
    (filling.ready .B 0 ∧ jobRequest fillB.payload = some fillB ∧ filling.submitRefusal .B fillB.op = none ∧
      (filling.queue .B).head = .empty ∧ (filling.queue .B).entries = [] ∧ fillB.op.forEngine = true ∧
      (filling.window 2).flipPending = none) :=
  ⟨⟨by unfold State.ready; decide +kernel, by decide +kernel⟩, transmitterLaw_filling, by decide +kernel, by decide +kernel,
    by unfold State.ready; decide +kernel, by decide +kernel⟩

/-- An empty queue and an idle engine, with and without a flip pending on the target; an arbiter with nothing to grant; and an
ELIGIBLE head of B, whose turn is before C's and D's, for each start check and for a start. -/
theorem witness_SubmitStartsJob : threeWindows.ready .A 0 ∧ TransmitterLaw threeWindows ∧ JobLaw threeWindows ∧
    jobRequest fillJob.payload = some fillJob ∧
    (threeWindows.submitRefusal .A fillJob.op = none ∧ fillJob.op.forEngine = true ∧
      (threeWindows.queue .A).entries = [] ∧ threeWindows.engine = none ∧ fillJob.op.target = some w0 ∧
      (threeWindows.window 0).flipPending = none) ∧
    (let held := threeWindows.setWindow 0 { small .A .shown with flipPending := some ⟨2, true⟩ }
     held.ready .A 0 ∧ TransmitterLaw held ∧ JobLaw held ∧ held.submitRefusal .A fillJob.op = none ∧
      (held.window 0).flipPending ≠ none) ∧
    filling.engine ≠ none ∧ (∀ l, (twoLinks.queue l).head ≠ .eligible) ∧
    (let copyB : Job := ⟨1, true, .copy w2 ⟨0, 0, 1, 1⟩ w0 .shown 0 0 .replace none⟩
     let granted := (queuedOnB [copyB]).setWindow 0 { small .A .shown with grants := ⟨false, true, false, false⟩ }
     (∀ k ∈ allLinks, ((linkCode k).toNat + 3 - (linkCode (queuedOnB [fillB]).lastServed).toNat) % 4 < 1 →
        ((queuedOnB [fillB]).queue k).head ≠ .eligible) ∧
      (((queuedOnB [fillB, fillB]).setWindow 2 (small .B .closing)).window 2).state = .closing ∧
      (((queuedOnB [copyB]).setWindow 0 { small .A .shown with gen := 5 }).window 0).gen ≠ 4 ∧
      ((queuedOnB [copyB]).window 0).grants.get .B = false ∧ ((queuedOnB [copyB]).window 0).owner ≠ some .B ∧
      ((queuedOnB [copyB]).window 2).state = .shown ∧ (granted.window 0).grants.get .B = true) :=
  ⟨ready_threeWindows, transmitterLaw_threeWindows, jobLaw_quiet rfl rfl, by decide +kernel, by decide +kernel,
    ⟨by unfold State.ready; decide +kernel, transmitterLaw_of (by decide +kernel), jobLaw_quiet rfl rfl, by decide +kernel⟩,
    by decide +kernel, forall_link_of (by decide +kernel), by decide +kernel⟩

/-- An empty queue for a MARK and a PRESENT; and, for the examination, a head in the engine, an empty queue, a job that waits for a
flip, and the first entries ready to go on. -/
theorem witness_MarkAndPresentTakenAtOnce : threeWindows.ready .A 0 ∧ TransmitterLaw threeWindows ∧ JobLaw threeWindows ∧
    ((threeWindows.queue .A).entries = [] ∧ (threeWindows.eventsOf .A).lost = 0 ∧
      jobRequest (⟨5, true, .mark⟩ : Job).payload = some ⟨5, true, .mark⟩ ∧ threeWindows.submitRefusal .A .mark = none ∧
      jobRequest (⟨5, true, .present w0⟩ : Job).payload = some ⟨5, true, .present w0⟩ ∧
      threeWindows.submitRefusal .A (.present w0) = none ∧ (threeWindows.window 0).flipPending = none) ∧
    ((filling.queue .A).head = .inFlight ∧ (threeWindows.queue .A).head = .empty) ∧
    (let waiting := fun j : Job => threeWindows.setQueue .A { entries := [j, fillJob], head := .waitFlip, staging := 0 }
     let flipping := (waiting fillJob).setWindow 0 { small .A .shown with flipPending := some ⟨2, true⟩ }
     (flipping.queue .A).head = .waitFlip ∧ (flipping.queue .A).entries = fillJob :: [fillJob] ∧
      fillJob.op.target = some w0 ∧ (flipping.window 0).gen = 4 ∧ (flipping.window 0).flipPending ≠ none ∧
      fillJob.op.forEngine = true ∧ ((waiting fillJob).window 0).flipPending = none ∧
      ((waiting ⟨5, true, .mark⟩).queue .A).entries = ⟨5, true, .mark⟩ :: [fillJob] ∧ JobOp.mark.target = none ∧
      ((waiting ⟨5, true, .present w1⟩).window 1).state = .hidden ∧
      (((waiting ⟨5, true, .present w1⟩).setWindow 1 (small .A .closing)).window 1).state = .closing) :=
  ⟨ready_threeWindows, transmitterLaw_threeWindows, jobLaw_quiet rfl rfl, by decide +kernel⟩

/-- The FILL in the engine of `filling`. -/
def fillFlight : InFlight :=
  { link := .A, job := fillJob, abandon := none, progress := 0, writePages := [20], readPages := [],
    rowStore := [.pixel 0xABCD, .pixel 0xABCD], result := [] }

theorem witness_RowPixels : MemoryLaw filling ∧ fillFlight.job.op.target = some w0 ∧
    fillFlight.job.op.rect = some ⟨0, 0, 2, 2⟩ ∧ fillFlight.writePages.Nodup ∧
    fillFlight.rowStore[1]? = some (.pixel 0xABCD) ∧ pixelAddr fillFlight.writePages 1 = some 40962 ∧
    (JobOp.read w0 .shown ⟨0, 0, 1, 1⟩).target = none ∧ filling.rowRoom fillFlight = 2 ∧
    (let beyond := { fillFlight with job := ⟨1, true, .fill w0 ⟨1, 0, 2, 2⟩ 0xABCD .replace⟩ }
     filling.rowRoom beyond = 1 ∧ readPixel (filling.drawRow beyond).mem 40962 = 0xABCD#16 ∧
      readPixel (filling.drawRow beyond).mem 40964 = 0x0000#16) :=
  ⟨⟨List.Pairwise.nil, fun _ h => by cases h⟩, rfl, rfl, by decide, rfl, rfl, rfl, by decide +kernel⟩

theorem witness_RowDrawn : filling.resetN = true ∧ TransmitterLaw filling ∧ filling.engine = some fillFlight ∧
    fillFlight.abandon = none ∧ fillFlight.progress + 1 < fillFlight.height :=
  ⟨rfl, transmitterLaw_filling, rfl, rfl, by decide⟩

/-- A completion with an entry behind it. Then a last row; an abandoned job whose target is CLOSING on the glass; the job of a link
in TEARDOWN; a target CLOSING off the glass, by its owner; and a READ of a window that its owner's teardown closed. -/
theorem witness_JobEnds :
    let queued := filling.setQueue .A { entries := [fillJob, ⟨2, false, .mark⟩], head := .inFlight, staging := 0 }
    let working := fun f : InFlight => filling.setEngine (some f)
    let last := working { fillFlight with progress := 1 }
    let asked := working { fillFlight with abandon := some .abandoned }
    let leaving := asked.setLink .A { LinkCtl.atReset with state := .teardown, toRelease := 1, jobPending := true }
    let closing := (asked.setWindow 0 { small .A .closing with closeReason := some .owner }).setEvents .A
      { EventQueue.atReset with reserved := 2 }
    let readFlight : InFlight := { fillFlight with job := ⟨1, true, .read w2 .shown ⟨0, 0, 2, 2⟩⟩, abandon := some .sourceLost,
                                                   writePages := [], readPages := [20] }
    let reading := (((working readFlight).setQueue .A { entries := [readFlight.job], head := .inFlight, staging := 8 }).setWindow
      2 { small .B .closing with closeReason := some .teardown }).setLink .B
        { LinkCtl.atReset with state := .teardown, toRelease := 1 }
    ((queued.queue .A).entries = fillJob :: [⟨2, false, .mark⟩] ∧ queued.isUp .A = true ∧ 0 < (queued.eventsOf .A).reserved) ∧
    (last.resetN = true ∧ last.engine = some { fillFlight with progress := 1 } ∧
      (last.queue .A).entries = fillFlight.job :: [] ∧ fillFlight.height ≤ 1 + 1 ∧ (last.window 0).state ≠ .closing) ∧
    (asked.engine.map InFlight.abandon = some (some .abandoned) ∧ (asked.queue .A).entries = fillFlight.job :: []) ∧
    ((asked.setWindow 0 { small .A .closing with onGlass := true }).window 0).onGlass = true ∧
    ((leaving.link .A).state = .teardown ∧ (leaving.queue .A).entries = fillFlight.job :: []) ∧
    ((closing.window 0).state = .closing ∧ (closing.window 0).onGlass = false ∧ (closing.window 0).owner = some .A) ∧
    (readFlight.job.op.target = none ∧ readFlight.job.op.source = some w2 ∧ (reading.window 2).state = .closing ∧
      (reading.window 2).onGlass = false ∧ (reading.window 2).closeReason = some .teardown ∧
      (reading.window 2).owner = some .B ∧ (reading.link .B).state = .teardown ∧ (reading.link .A).state = .up) := by
  decide +kernel

/-- An overlapping copy one pixel down within slot 0's buffer, at its start. -/
def copyFlight : InFlight :=
  { link := .A, job := ⟨1, true, .copy w0 ⟨0, 1, 2, 2⟩ w0 .shown 0 0 .replace none⟩, abandon := none, progress := 0,
    writePages := [20], readPages := [20], rowStore := [.pixel 0, .pixel 0], result := [] }

theorem witness_CopyAsIfReadFirst :
    let s := filling.setEngine (some copyFlight)
    MemoryLaw s ∧ s.engine = some copyFlight ∧ copyFlight.rowStore = s.sourceRow copyFlight copyFlight.row ∧
    copyFlight.writePages.Nodup ∧ 0 + 2 ≤ (s.window 0).width ∧ (1 + 2) * (s.window 0).width ≤ 1 * 1024 :=
  ⟨⟨List.Pairwise.nil, fun _ h => by cases h⟩, rfl, by decide +kernel, by decide, by decide +kernel⟩

/-- Every slot of the stamp store used. -/
def fullStamps : State := { twoLinks with stamps := Vector.replicate 192 patternStamp }

theorem fullStamps_stamp (i : StampSlot) : fullStamps.stamp i = patternStamp := by simp [fullStamps, State.stamp]

theorem witness_LoadStampResult : withStamp.ready .A 0 ∧ fullStamps.ready .A 0 ∧ [(0 : Byte)].length < 2 ∧
    1 < ([(2 : Byte), 0].getD 0 0).toNat ∧ (List.replicate 32 (7 : Byte)).length = 32 ∧
    (∀ i, (fullStamps.stamp i).state ≠ .free) ∧ (withStamp.stamp 1).state = .free ∧
    (∀ j : StampSlot, j < 1 → (withStamp.stamp j).state ≠ .free) ∧ withStamp.pins.pool = false ∧
    48 ≤ (withStamp.setOwned .A 48).ownedStamps.get .A ∧ (withStamp.setOwned .A 47).ownedStamps.get .A < 48 :=
  ⟨ready_withStamp, by unfold State.ready; decide +kernel, by decide, by decide, by decide,
    fun i => by rw [fullStamps_stamp]; decide, by decide +kernel, by decide +kernel, rfl, by decide +kernel⟩

theorem witness_ReloadStampResult : withStamp.ready .A 0 ∧ 191 < ([(192 : Byte)].getD 0 0).toNat ∧ (191#8).toNat < 192 ∧
    (withStamp.stamp 1).state = .free ∧ (withStamp.stamp 0).state = .loaded ∧ (withStamp.stamp 0).gen = 2 ∧
    (withStamp.stamp 0).owner = some .A ∧ (withStamp.stamp 0).kind = .pattern8 ∧ (withStamp.stamp 0).references = 0 ∧
    ((withStamp.setStamp 0 { patternStamp with state := .retiring }).stamp 0).state = .retiring ∧
    ((withStamp.setStamp 0 { patternStamp with owner := some .B }).stamp 0).owner ≠ some .A ∧
    0 < ((withStamp.setStamp 0 { patternStamp with references := 1 }).stamp 0).references :=
  ⟨ready_withStamp, by decide, by decide, by decide +kernel⟩

theorem witness_FreeStampResult : withStamp.ready .A 0 ∧ (withStamp.stamp 0).state = .loaded ∧
    (withStamp.stamp 0).gen = 2 ∧ (withStamp.stamp 0).owner = some .A ∧ (withStamp.stamp 0).references = 0 ∧
    ((withStamp.setStamp 0 { patternStamp with references := 1 }).stamp 0).references ≠ 0 ∧
    (withStamp.stamp 191).state = .free :=
  ⟨ready_withStamp, by decide +kernel⟩

theorem stackLaw_threeWindows : StackLaw threeWindows := ⟨by decide +kernel, by decide +kernel, by decide +kernel⟩

/-- A live window, with a flip pending on a subscribed link; a link that is not UP; and a CLOSING window on the glass that is not
named in flight. -/
theorem witness_FrameStartResult : 0 < (filling.eventsOf .A).reserved ∧ threeWindows.resetN = true ∧ StackLaw threeWindows ∧
    ((threeWindows.window 0).state ≠ .closing ∧ threeWindows.isUp .A = true ∧ threeWindows.isUp .C = false) ∧
    (let s := (threeWindows.setWindow 0 { small .A .shown with flipPending := some ⟨3, true⟩ }).setLink .A
        { session with notify := true }
     StackLaw s ∧ (s.window 0).flipPending = some ⟨3, true⟩ ∧ s.isUp .A = true) ∧
    (let s := threeWindows.setWindow 1 { small .A .closing with onGlass := true, closeReason := some .owner }
     StackLaw s ∧ (s.window 1).state = .closing ∧ (s.window 1).onGlass = true ∧ s.namedInFlight ⟨1, 4⟩ = false) :=
  ⟨by decide +kernel, rfl, stackLaw_threeWindows, by decide +kernel,
    ⟨⟨by decide +kernel, by decide +kernel, by decide +kernel⟩, by decide +kernel⟩,
    ⟨by decide +kernel, by decide +kernel, by decide +kernel⟩, by decide +kernel⟩

/-- A report of each fault, and one without any. -/
theorem witness_ReportApplied : [(0 : Byte), 0, 0].length % 4 ≠ 0 ∧ 4 < ([(5 : Byte), 0, 0, 0].getD (4 * 0) 0).toNat ∧
    ([(1 : Byte), 0, 0, 0, 1, 0, 0, 0].getD (4 * 0) 0 = [(1 : Byte), 0, 0, 0, 1, 0, 0, 0].getD (4 * 1) 0) ∧
    (let bytes : List Byte := [4, 0x12, 0x34, 0x56]
     ¬ (bytes.length % 4 ≠ 0 ∨ (∃ k, 4 * k < bytes.length ∧ 4 < (bytes.getD (4 * k) 0).toNat) ∨
        ∃ j k, j < k ∧ 4 * k < bytes.length ∧ bytes.getD (4 * j) 0 = bytes.getD (4 * k) 0) ∧
      takenReport bytes = some [⟨4, 0x123, 0x456⟩]) := by
  refine ⟨by decide, by decide, by decide, ?_, by decide⟩
  rintro (h | ⟨k, hk, h⟩ | ⟨j, k, hj, hk, _⟩)
  · exact h rfl
  · have hk0 : k = 0 := by simp at hk; omega
    subst hk0
    revert h
    decide
  · simp at hk
    omega

/-- A contact on B's window going down, moving, and lifted, while another goes down beside it; and the contacts that hand nothing:
absent, settling where no window is, held without a capture, and held at rest. -/
theorem witness_TouchEventsHanded :
    let held : Contact := { state := .held, capture := some w2, last := some ⟨1, 1⟩, lastSent := some ⟨1, 1⟩ }
    let s := touching.setContact 3 held
    let both : List ReportEntry := [⟨3, 1, 2⟩, ⟨1, 400, 200⟩]
    takenReport [3, 0, 0x10, 2, 1, 0x19, 0x00, 0xC8] = some both ∧
    threeWindows.latched 2 ∈ touching.scanout.record ∧ (threeWindows.latched 2).handle = w2 ∧
    (∀ d ∈ touching.scanout.record, d.handle = w2 → d = threeWindows.latched 2) ∧
    ((touching.window 2).owner = some .B ∧ touching.isUp .B = true) ∧
    ((touching.contact 3).state = .settling ∧ presentAt touching.pins.panel both 3 = some ⟨1, 2⟩ ∧
      touching.hitTest ⟨1, 2⟩ = some w2) ∧
    ((s.contact 3).state = .held ∧ (s.contact 3).capture = some w2 ∧ presentAt s.pins.panel both 3 = some ⟨1, 2⟩ ∧
      (s.contact 3).lastSent ≠ some ⟨1, 2⟩) ∧
    (presentAt s.pins.panel [] 3 = none ∧ (s.contact 3).last = some ⟨1, 1⟩) ∧
    ((touching.contact 1).state = .none ∧ presentAt touching.pins.panel both 1 = some ⟨400, 200⟩ ∧
      touching.hitTest ⟨400, 200⟩ = none ∧ ((touching.setContact 3 { held with capture := none }).contact 3).capture = none ∧
      presentAt s.pins.panel [⟨3, 1, 1⟩] 3 = (s.contact 3).lastSent) := by
  decide +kernel

/-- A step of link A's PING, for the laws below. -/
def pinging (s : State) : State := { s with pending := [.ping .A 0] }

theorem pinging_steps (s : State) : ∃ t, step (pinging s) = .next t := ⟨_, rfl⟩

theorem witness_MemoryLawKept : MemoryLaw (pinging twoLinks) := ⟨List.Pairwise.nil, fun _ h => by cases h⟩

theorem witness_StackLawKept : StackLaw (pinging threeWindows) :=
  ⟨stackLaw_threeWindows.once, stackLaw_threeWindows.holdsShown, stackLaw_threeWindows.tiersRise⟩

theorem sound_someEvents : someEvents.Sound := by
  refine ⟨by decide, by decide, by decide, by decide, by decide, ?_, by decide, fun h => absurd rfl h⟩
  intro k hk
  have : k = 0 ∨ k = 1 ∨ k = 2 := by
    have : k < 3 := hk
    omega
  rcases this with rfl | rfl | rfl <;> rfl

theorem sound_noEvents : EventQueue.atReset.Sound := by
  refine ⟨?_, ?_, ?_, ?_, ?_, ?_, ?_, ?_⟩ <;> simp [EventQueue.atReset]

theorem witness_EventLawKept : EventLaw (pinging (twoLinks.setEvents .A someEvents)) :=
  forall_link sound_someEvents sound_noEvents sound_noEvents sound_noEvents

theorem sound_session : session.Sound := by
  refine ⟨by decide, by decide, by decide, by decide, by decide, ?_, by decide, by decide⟩
  intro t ht
  have : t = 7 := by simpa [session] using ht.symm
  exact ⟨100, rfl, by omega, by omega, by omega⟩

theorem sound_down : LinkCtl.atReset.Sound := by
  refine ⟨by decide, by decide, by decide, by decide, by decide, ?_, by decide, by decide⟩
  intro t ht
  cases ht

theorem witness_LinkLawKept : LinkLaw (pinging twoLinks) := forall_link sound_session sound_session sound_down sound_down

theorem liveOwned_threeWindows : LiveOwned threeWindows := by
  have h : ∀ i, (threeWindows.window i).live = true → (threeWindows.window i).owner = some .A ∨
      (threeWindows.window i).owner = some .B := by decide +kernel
  intro i hi
  rcases h i hi with e | e
  · exact ⟨.A, e, by decide +kernel⟩
  · exact ⟨.B, e, by decide +kernel⟩

theorem witness_TouchLawKept :
    TouchLaw (pinging (threeWindows.setContact 3
      { state := .held, capture := some w2, last := some ⟨1, 1⟩, lastSent := some ⟨1, 1⟩ })) := by
  refine ⟨liveOwned_threeWindows, fun k h hk => ?_⟩
  have hk3 : k = 3 ∧ h = w2 := by
    have all : ∀ k : ContactNumber, k ≠ 3 → ((threeWindows.setContact 3
        { state := .held, capture := some w2, last := some ⟨1, 1⟩, lastSent := some ⟨1, 1⟩ }).contact k).capture = none := by
      decide +kernel
    by_cases h3 : k = 3
    · subst h3
      have e : some w2 = some h := hk
      exact ⟨rfl, (Option.some.inj e).symm⟩
    · have e := all k h3
      have hk' : ((threeWindows.setContact 3
        { state := .held, capture := some w2, last := some ⟨1, 1⟩, lastSent := some ⟨1, 1⟩ }).contact k).capture = some h := hk
      rw [e] at hk'
      cases hk'
  obtain ⟨rfl, rfl⟩ := hk3
  exact ⟨rfl, by decide +kernel, by decide +kernel, .B, by decide +kernel⟩

/-- A and B UP beside the whole pool of reset. -/
def wholePool : State := (State.reset.setLink .A session).setLink .B session

theorem wholePool_window (i : Slot) : wholePool.window i = Window.atReset := by
  simp [wholePool, State.window, State.setLink, State.reset, State.heldInReset]

theorem witness_PageLawKept : PageLaw (pinging wholePool) ∧ MemoryLaw (pinging wholePool) := by
  have hw : ∀ i, (pinging wholePool).window i = Window.atReset := wholePool_window
  have hheld : (pinging wholePool).heldPages = [] := by
    unfold State.heldPages
    simp [hw, Window.heldPages, Window.atReset]
  have howned : ∀ l, (pinging wholePool).pagesOwned l = 0 := by
    intro l
    unfold State.pagesOwned
    simp [hw, Window.atReset]
  refine ⟨⟨?_, List.Pairwise.nil, by decide +kernel, ?_, ?_, ?_, ?_, (fun _ h => by cases h), fun _ _ h => by cases h⟩,
    List.Pairwise.nil, fun _ h => by cases h⟩
  · have hpool : (pinging wholePool).pool = { Pool.atReset with busy := true } := rfl
    rw [hheld, List.append_nil, hpool]
    simp [Pool.atReset, Config.pageCount]
  · intro i _
    rw [hw]
    exact ⟨rfl, rfl, rfl⟩
  · intro i hi
    rw [hw] at hi
    exact absurd rfl hi
  · intro l
    rw [howned]
    cases l <;> rfl
  · intro _ l
    cases l <;> exact Nat.zero_le _

theorem witness_JobLawKept : JobLaw (pinging twoLinks) := jobLaw_quiet rfl rfl

theorem wholePool_stamp (i : StampSlot) : wholePool.stamp i = Stamp.atReset := by
  simp [wholePool, State.stamp, State.setLink, State.reset, State.heldInReset]

theorem witness_StampLawKept : StampLaw (pinging wholePool) ∧ JobLaw (pinging wholePool) := by
  have hs : ∀ i, (pinging wholePool).stamp i = Stamp.atReset := wholePool_stamp
  refine ⟨⟨?_, ?_, ?_, ?_, ?_, ?_, ?_⟩, jobLaw_quiet rfl rfl⟩
  · intro i
    rw [hs]
    rfl
  · exact forall_link_of (by decide +kernel)
  · intro i _
    rw [hs]
    decide
  · intro i _
    rw [hs]
    decide
  · intro i hi
    rw [hs] at hi
    cases hi
  · intro l
    have h0 : (pinging wholePool).stampsOwned l = 0 := by
      unfold State.stampsOwned
      simp [hs, Stamp.atReset]
    rw [h0]
    cases l <;> rfl
  · intro _ l
    cases l <;> exact Nat.zero_le _

theorem witness_SessionLawKept : SessionLaw (pinging wholePool) ∧ JobLaw (pinging wholePool) := by
  have hw : ∀ i, (pinging wholePool).window i = Window.atReset := wholePool_window
  have hs : ∀ i, (pinging wholePool).stamp i = Stamp.atReset := wholePool_stamp
  refine ⟨⟨?_, ?_, ?_, ?_, ?_, ?_, ?_, ?_, ?_⟩, jobLaw_quiet rfl rfl⟩
  · intro i hi
    rw [hw] at hi
    cases hi
  · intro i
    rw [hw]
    decide
  · intro i l hi
    rw [hw] at hi
    cases hi
  · intro i l hi
    rw [hw] at hi
    cases hi
  · intro l _
    cases l <;> exact ⟨rfl, rfl⟩
  · intro l _ i
    rw [hs]
    exact fun h => by cases h
  · intro l _ h
    exact absurd (by cases l <;> rfl) h
  · exact forall_link (fun h => by cases h) (fun h => by cases h) (fun h => by cases h) (fun h => by cases h)
  · intro l _
    refine ⟨fun i => ?_, by cases l <;> rfl⟩
    rw [hw]
    exact fun h => by cases h

theorem witness_TransmitterLawKept : TransmitterLaw (pinging twoLinks) := transmitterLaw_twoLinks

end Sys2Proof.Tests
end

section
/-! Windows: the tests of the window table's commands (R2, R4, R20), and that a refused command leaves only its answer. -/

namespace Sys2Proof.Machine

open Sys2Proof

/-! ### Refused commands -/

/-- A refusal leaves nothing but its answer. -/
theorem State.command_refuses {s : State} {l : Link} {seq code : Byte} {status : Status} {body : State → Reply}
    (h : s.ready l seq) (hbody : body (s.renewedLease l) = .refuse (s.renewedLease l) status) :
    Answers s (s.command l seq code body) l seq code status .none :=
  State.command_answers h hbody rfl

/-- The same for the commands that end in every transmitter's choice. -/
theorem State.commandAll_refuses {s : State} {l : Link} {seq code : Byte} {status : Status} {body : State → Reply}
    (h : s.ready l seq) (hsettled : TransmitterLaw s)
    (hbody : body (s.renewedLease l) = .refuse (s.renewedLease l) status) :
    Answers s (s.commandAll l seq code body) l seq code status .none :=
  State.commandAll_answers h hbody rfl fun k _ => hsettled k

/-! ### The tests read nothing of the lease timer -/

@[simp] theorem State.renewedLease_current (s : State) (l : Link) (h : Handle) :
    (s.renewedLease l).current h = s.current h := rfl

@[simp] theorem State.renewedLease_changeRefusal (s : State) (l k : Link) (h : Handle) :
    (s.renewedLease l).changeRefusal k h = s.changeRefusal k h := rfl

@[simp] theorem State.renewedLease_openRefusal (s : State) (l k : Link) (r : OpenRequest) :
    (s.renewedLease l).openRefusal k r = s.openRefusal k r := rfl

/-! ### Handles and slots -/

/-- A handle is stale when its slot is FREE or has another generation (R1). -/
theorem State.current_eq_false_iff {s : State} {h : Handle} :
    s.current h = false ↔ (s.window h.slot).state = .free ∨ (s.window h.slot).gen ≠ h.gen := by
  simp only [State.current, Bool.and_eq_false_iff, decide_eq_false_iff_not, not_not]

/-- A handle is current when its slot is not FREE and has its generation (R1). -/
theorem State.current_eq_true_iff {s : State} {h : Handle} :
    s.current h = true ↔ (s.window h.slot).state ≠ .free ∧ (s.window h.slot).gen = h.gen := by
  simp only [State.current, Bool.and_eq_true, decide_eq_true_eq]

theorem State.freeSlot_eq_none_iff {s : State} : s.freeSlot = none ↔ ∀ i : Slot, (s.window i).state ≠ .free := by
  simp only [State.freeSlot, List.find?_eq_none, mem_finRange, forall_const, decide_eq_true_eq]

theorem EventQueue.hasRoom_eq_false_iff {q : EventQueue} : q.hasRoom = false ↔ 64 ≤ q.records.length + q.reserved := by
  rw [← Bool.not_eq_true, EventQueue.hasRoom_iff, Nat.not_lt]

/-! ### OPEN_WINDOW -/

theorem OpenRequest.pages_single {r : OpenRequest} (h : r.buffering = .single) :
    r.pages = (r.width * r.height + 1023) / 1024 := by
  simp only [OpenRequest.pages, pagesNeeded, pagesPerBuffer, h]

theorem OpenRequest.pages_double {r : OpenRequest} (h : r.buffering = .double) :
    r.pages = 2 * ((r.width * r.height + 1023) / 1024) := by
  simp only [OpenRequest.pages, pagesNeeded, pagesPerBuffer, h]

/-- Tests 2 to 7 of R4 on the window table, the event queue, the held-page count and the pool. -/
theorem State.openRefusal_eq (s : State) (l : Link) (r : OpenRequest) :
    s.openRefusal l r =
      if r.tier = 3 ∧ alertOf s.pins l = false then some .tierDenied
      else if ∀ i : Slot, (s.window i).state ≠ .free then some .noWindowSlot
      else if 64 ≤ (s.eventsOf l).records.length + (s.eventsOf l).reserved then some .eventsFull
      else if s.pins.pool = false ∧ 1024 < s.pool.held.get l + r.pages then some .quota
      else if s.pool.free.length + s.pool.scrub.length < r.pages then some .poolFull
      else if s.pool.free.length < r.pages then some .poolBusy
      else none := by
  simp only [State.openRefusal, State.freeSlot_eq_none_iff, EventQueue.hasRoom_eq_false_iff]

theorem exec_openWindow (l : Link) (seq : Byte) (p : List Byte) (s : State) :
    exec (.openWindow l seq p) s = .next (s.command l seq 0x10#8 (openReply l p)) := rfl

/-- Test 1 of R4. -/
theorem openReply_badParam {l : Link} {p : List Byte} (hp : openRequest p = none) (t : State) :
    openReply l p t = .refuse t .badParam := by
  simp only [openReply, hp]

/-- The first of tests 2 to 7 of R4 that holds decides the answer. -/
theorem openReply_of_openRefusal {l : Link} {p : List Byte} {r : OpenRequest} {t : State} {status : Status}
    (hp : openRequest p = some r) (ht : t.openRefusal l r = some status) : openReply l p t = .refuse t status := by
  simp only [openReply, hp, ht]

/-- Settles O26: the tests of the model are those of R4 (`State.openRefusal_eq`), and each leaves a refusal. -/
theorem openWindowRefusals : Obligations.OpenWindowRefusals := by
  intro l seq p s hready
  refine ⟨fun hp => ⟨_, exec_openWindow l seq p s, State.command_refuses hready (openReply_badParam hp _)⟩, ?_⟩
  intro r status hp needed htests
  have hpages : r.pages = needed := by
    cases hb : r.buffering with
    | single => simp only [needed, hb, OpenRequest.pages_single hb, Nat.one_mul]
    | double => simp only [needed, hb, OpenRequest.pages_double hb]
  have hrefused : (s.renewedLease l).openRefusal l r = some status := by
    rw [State.renewedLease_openRefusal, State.openRefusal_eq, hpages]
    exact htests
  exact ⟨_, exec_openWindow l seq p s, State.command_refuses hready (openReply_of_openRefusal hp hrefused)⟩

/-! ### The commands that change one window -/

/-- Tests 1 to 4 of R2 on the handle a command names, absent where a field is outside its range: the status of the first that
holds. -/
def State.namedRefusal (s : State) (l : Link) : Option Handle → Option Status
  | none => some .badParam
  | some h => s.changeRefusal l h

@[simp] theorem State.renewedLease_namedRefusal (s : State) (l k : Link) (h? : Option Handle) :
    (s.renewedLease l).namedRefusal k h? = s.namedRefusal k h? := by
  cases h? with
  | none => rfl
  | some h => exact s.renewedLease_changeRefusal l k h

/-- Tests 2 to 4 of R2 on the window's record. -/
theorem State.changeRefusal_eq (s : State) (l : Link) (h : Handle) :
    s.changeRefusal l h =
      if (s.window h.slot).state = .free ∨ (s.window h.slot).gen ≠ h.gen then some .staleHandle
      else if (s.window h.slot).state = .closing then some .wrongState
      else if (s.window h.slot).owner ≠ some l then some .notOwner
      else none := by
  simp only [State.changeRefusal, State.current_eq_false_iff]

theorem State.changeWindow_of_changeRefusal {t : State} {l : Link} {h : Handle} {status : Status}
    (ht : t.changeRefusal l h = some status) (change : State → State) :
    t.changeWindow l h change = .refuse t status := by
  simp only [State.changeWindow, ht]

/-- A body whose answer is a refusal wherever one of the tests of R2 holds. -/
def RefusesByR2 (body : State → Reply) (l : Link) (h? : Option Handle) : Prop :=
  ∀ (t : State) (status : Status), t.namedRefusal l h? = some status → body t = .refuse t status

/-- A body that reads its request first: without one BAD_PARAM, else the tests of R2 on the handle the request names. -/
theorem refusesByR2_of_request {α : Type} {body : State → Reply} {l : Link} {request : Option α} {name : α → Handle}
    (hnone : request = none → ∀ t, body t = .refuse t .badParam)
    (hsome : ∀ m, request = some m → ∀ t status, t.changeRefusal l (name m) = some status → body t = .refuse t status) :
    RefusesByR2 body l (request.map name) := by
  intro t status ht
  cases request with
  | none =>
    obtain rfl : Status.badParam = status := Option.some.inj ht
    exact hnone rfl t
  | some m => exact hsome m rfl t status ht

theorem closeReply_refusesByR2 (l : Link) (p : List Byte) : RefusesByR2 (closeReply l p) l (handleField p) := by
  simpa only [Option.map_id_fun, id] using refusesByR2_of_request (name := id) (request := handleField p)
    (fun hp _ => by simp only [closeReply, hp])
    (fun h hp t _ (ht : t.changeRefusal l h = _) => by simp only [closeReply, hp, State.changeWindow_of_changeRefusal ht])

theorem hideReply_refusesByR2 (l : Link) (p : List Byte) : RefusesByR2 (hideReply l p) l (handleField p) := by
  simpa only [Option.map_id_fun, id] using refusesByR2_of_request (name := id) (request := handleField p)
    (fun hp _ => by simp only [hideReply, hp])
    (fun h hp t _ (ht : t.changeRefusal l h = _) => by simp only [hideReply, hp, State.changeWindow_of_changeRefusal ht])

theorem moveReply_refusesByR2 (l : Link) (p : List Byte) :
    RefusesByR2 (moveReply l p) l ((moveRequest p).map Prod.fst) :=
  refusesByR2_of_request (fun hp _ => by simp only [moveReply, hp])
    (fun _ hp _ _ ht => by simp only [moveReply, hp, State.changeWindow_of_changeRefusal ht])

theorem lookReply_refusesByR2 (l : Link) (p : List Byte) :
    RefusesByR2 (lookReply l p) l ((lookRequest p).map Prod.fst) :=
  refusesByR2_of_request (fun hp _ => by simp only [lookReply, hp])
    (fun _ hp _ _ ht => by simp only [lookReply, hp, State.changeWindow_of_changeRefusal ht])

theorem touchReply_refusesByR2 (l : Link) (p : List Byte) :
    RefusesByR2 (touchReply l p) l ((touchRequest p).map Prod.fst) :=
  refusesByR2_of_request (fun hp _ => by simp only [touchReply, hp])
    (fun _ hp _ _ ht => by simp only [touchReply, hp, State.changeWindow_of_changeRefusal ht])

/-- The tests of R2 come before GRANT's own test of R18. -/
theorem grantReply_refusesByR2 (l : Link) (p : List Byte) :
    RefusesByR2 (grantReply l p) l ((grantRequest p).map Prod.fst) :=
  refusesByR2_of_request (fun hp _ => by simp only [grantReply, hp])
    (fun _ hp _ _ ht => by simp only [grantReply, hp, ht])

/-- The tests of R2 come before SHOW's own tests of R42. -/
theorem showReply_refusesByR2 (l : Link) (p : List Byte) :
    RefusesByR2 (showReply l p) l ((showRequest p).map Prod.fst) :=
  refusesByR2_of_request (fun hp _ => by simp only [showReply, hp])
    (fun _ hp _ _ ht => by simp only [showReply, hp, ht])

/-- Each command that changes one window has a body with the tests of R2 first; CLOSE_WINDOW alone ends in every transmitter's
choice. -/
theorem exec_change {c : Instr} {l : Link} {seq code : Byte} {h? : Option Handle}
    (hc : changeOf c = some (l, seq, code, h?)) (s : State) :
    ∃ body, RefusesByR2 body l h? ∧
      (exec c s = .next (s.command l seq code body) ∨ exec c s = .next (s.commandAll l seq code body)) := by
  cases c with
  | closeWindow l seq p => cases hc; exact ⟨_, closeReply_refusesByR2 l p, .inr rfl⟩
  | showWindow l seq p => cases hc; exact ⟨_, showReply_refusesByR2 l p, .inl rfl⟩
  | hide l seq p => cases hc; exact ⟨_, hideReply_refusesByR2 l p, .inl rfl⟩
  | moveWindow l seq p => cases hc; exact ⟨_, moveReply_refusesByR2 l p, .inl rfl⟩
  | setLook l seq p => cases hc; exact ⟨_, lookReply_refusesByR2 l p, .inl rfl⟩
  | setTouch l seq p => cases hc; exact ⟨_, touchReply_refusesByR2 l p, .inl rfl⟩
  | grant l seq p => cases hc; exact ⟨_, grantReply_refusesByR2 l p, .inl rfl⟩
  | _ => cases hc

/-- A command that changes one window and meets one of the tests of R2 leaves only its refusal. -/
theorem exec_change_refused {c : Instr} {l : Link} {seq code : Byte} {h? : Option Handle} {s : State} {status : Status}
    (hc : changeOf c = some (l, seq, code, h?)) (hready : s.ready l seq) (hsettled : TransmitterLaw s)
    (htests : s.namedRefusal l h? = some status) :
    ∃ t, exec c s = .next t ∧ Answers s t l seq code status .none := by
  obtain ⟨body, hbody, hexec⟩ := exec_change hc s
  have hrefuse : body (s.renewedLease l) = .refuse (s.renewedLease l) status :=
    hbody _ _ ((s.renewedLease_namedRefusal l l h?).trans htests)
  rcases hexec with hexec | hexec
  · exact ⟨_, hexec, State.command_refuses hready hrefuse⟩
  · exact ⟨_, hexec, State.commandAll_refuses hready hsettled hrefuse⟩

/-- Settles O28: test 1 of R2 is the absent handle, and tests 2 to 4 are `State.changeRefusal_eq`. -/
theorem windowCommandRefusals : Obligations.WindowCommandRefusals := by
  intro c l seq code h? s hc hready hsettled
  constructor
  · rintro rfl
    exact exec_change_refused hc hready hsettled rfl
  · rintro h status rfl htests
    exact exec_change_refused hc hready hsettled ((s.changeRefusal_eq l h).trans htests)

/-! ### WINDOW_INFO -/

theorem exec_windowInfo (l : Link) (seq : Byte) (p : List Byte) (s : State) :
    exec (.windowInfo l seq p) s = .next (s.command l seq 0x18#8 (infoReply p)) := rfl

/-- Test 1 of R20. -/
theorem infoReply_badParam {p : List Byte} (hp : handleField p = none) (t : State) :
    infoReply p t = .refuse t .badParam := by
  simp only [infoReply, hp]

/-- Test 2 of R20. -/
theorem infoReply_stale {p : List Byte} {h : Handle} {t : State} (hp : handleField p = some h)
    (hstale : t.current h = false) : infoReply p t = .refuse t .staleHandle := by
  simp only [infoReply, hp, hstale, if_true]

/-- Test 3 of R20. -/
theorem infoReply_closing {p : List Byte} {h : Handle} {t : State} (hp : handleField p = some h)
    (hcurrent : t.current h = true) (hclosing : (t.window h.slot).state = .closing) :
    infoReply p t = .refuse t .wrongState := by
  simp [infoReply, hp, hcurrent, hclosing]

/-- A WINDOW_INFO that passes its tests reports the window's record, whichever link owns it. -/
theorem infoReply_report {p : List Byte} {h : Handle} {t : State} (hp : handleField p = some h)
    (hcurrent : t.current h = true) (hopen : (t.window h.slot).state ≠ .closing) :
    infoReply p t = ⟨t, .ok, .info (t.window h.slot).infoReport⟩ := by
  simp [infoReply, hp, hcurrent, hopen]

/-- Settles O30: one lemma on `infoReply` for each test of R20 and one for the report. -/
theorem windowInfoResult : Obligations.WindowInfoResult := by
  intro l seq p s hready
  refine ⟨fun hp => ⟨_, exec_windowInfo l seq p s, State.command_refuses hready (infoReply_badParam hp _)⟩, ?_⟩
  intro h hp w
  refine ⟨fun hstale => ?_, fun hgen hclosing => ?_, fun hgen hlive => ?_⟩
  · have hcurrent : (s.renewedLease l).current h = false :=
      (s.renewedLease_current l h).trans (State.current_eq_false_iff.2 hstale)
    exact ⟨_, exec_windowInfo l seq p s, State.command_refuses hready (infoReply_stale hp hcurrent)⟩
  · have hcurrent : (s.renewedLease l).current h = true :=
      (s.renewedLease_current l h).trans (State.current_eq_true_iff.2 ⟨hclosing.trans_ne nofun, hgen⟩)
    exact ⟨_, exec_windowInfo l seq p s, State.command_refuses hready (infoReply_closing hp hcurrent hclosing)⟩
  · obtain ⟨hfree, hopen⟩ : w.state ≠ .free ∧ w.state ≠ .closing := by
      rcases hlive with hlive | hlive <;> simp [hlive]
    have hcurrent : (s.renewedLease l).current h = true :=
      (s.renewedLease_current l h).trans (State.current_eq_true_iff.2 ⟨hfree, hgen⟩)
    exact ⟨_, exec_windowInfo l seq p s, State.command_answers hready (infoReply_report hp hcurrent hopen) rfl⟩

end Sys2Proof.Machine
end

section
/-! The stack and composition: the arithmetic of blend (O10). -/

namespace Sys2Proof.Machine

open Sys2Proof

/-! ### The components of a colour -/

theorem red_lt (p : Pixel) : red p < 32 := by
  have hp : p.toNat < 65536 := p.isLt
  unfold red
  omega

theorem green_lt (p : Pixel) : green p < 64 := Nat.mod_lt _ (by decide)

theorem blue_lt (p : Pixel) : blue p < 32 := Nat.mod_lt _ (by decide)

/-- Components within their fields fill the sixteen bits, so none is lost to the width of a pixel. -/
theorem toNat_rgb {r g b : Nat} (hr : r < 32) (hg : g < 64) (hb : b < 32) :
    (rgb r g b).toNat = r * 2048 + g * 32 + b := by
  rw [rgb, BitVec.toNat_ofNat, Nat.mod_eq_of_lt (by omega)]

theorem red_rgb {r g b : Nat} (hr : r < 32) (hg : g < 64) (hb : b < 32) : red (rgb r g b) = r := by
  rw [red, toNat_rgb hr hg hb]
  omega

theorem green_rgb {r g b : Nat} (hr : r < 32) (hg : g < 64) (hb : b < 32) : green (rgb r g b) = g := by
  rw [green, toNat_rgb hr hg hb]
  omega

theorem blue_rgb {r g b : Nat} (hr : r < 32) (hg : g < 64) (hb : b < 32) : blue (rgb r g b) = b := by
  rw [blue, toNat_rgb hr hg hb]
  omega

/-- A colour is its three components. -/
@[simp] theorem rgb_components (p : Pixel) : rgb (red p) (green p) (blue p) = p := by
  apply BitVec.eq_of_toNat_eq
  rw [toNat_rgb (red_lt p) (green_lt p) (blue_lt p), red, green, blue]
  omega

/-! ### The blend of one component -/

/-- A weighted mean stays below every strict bound of its two parts: the weights add up to 16, and the 8 that rounds it to the
nearest whole number is less than the divisor. -/
theorem blendPart_lt {w t b n : Nat} (hw : w ≤ 16) (ht : t < n) (hb : b < n) : blendPart w t b < n := by
  obtain ⟨m, rfl⟩ : ∃ m, n = m + 1 := ⟨n - 1, by omega⟩
  have htop : w * t ≤ w * m := Nat.mul_le_mul_left w (Nat.lt_succ_iff.1 ht)
  have hbelow : (16 - w) * b ≤ (16 - w) * m := Nat.mul_le_mul_left (16 - w) (Nat.lt_succ_iff.1 hb)
  have hweights : w * m + (16 - w) * m = 16 * m := by rw [← Nat.add_mul, Nat.add_sub_cancel' hw]
  unfold blendPart
  omega

@[simp] theorem blendPart_sixteen (t b : Nat) : blendPart 16 t b = t := by
  unfold blendPart
  omega

@[simp] theorem blendPart_zero (t b : Nat) : blendPart 0 t b = b := by
  unfold blendPart
  omega

theorem blendPart_self {w : Nat} (hw : w ≤ 16) (t : Nat) : blendPart w t t = t := by
  have hweights : w * t + (16 - w) * t = 16 * t := by rw [← Nat.add_mul, Nat.add_sub_cancel' hw]
  unfold blendPart
  omega

theorem blendPart_eight (t b : Nat) : blendPart 8 t b = (t + b + 1) / 2 := by
  unfold blendPart
  omega

/-! ### The blend of two colours -/

/-- Each component of a blend is read back as it was formed, for it stays within its field. -/
theorem components_blend {w : Nat} (hw : w ≤ 16) (top below : Pixel) :
    red (blend top below w) = blendPart w (red top) (red below) ∧
    green (blend top below w) = blendPart w (green top) (green below) ∧
    blue (blend top below w) = blendPart w (blue top) (blue below) := by
  have hred := blendPart_lt hw (red_lt top) (red_lt below)
  have hgreen := blendPart_lt hw (green_lt top) (green_lt below)
  have hblue := blendPart_lt hw (blue_lt top) (blue_lt below)
  exact ⟨red_rgb hred hgreen hblue, green_rgb hred hgreen hblue, blue_rgb hred hgreen hblue⟩

@[simp] theorem blend_sixteen (top below : Pixel) : blend top below 16 = top := by
  simp only [blend, blendPart_sixteen, rgb_components]

@[simp] theorem blend_zero (top below : Pixel) : blend top below 0 = below := by
  simp only [blend, blendPart_zero, rgb_components]

theorem blend_self {w : Nat} (hw : w ≤ 16) (p : Pixel) : blend p p w = p := by
  simp only [blend, blendPart_self hw, rgb_components]

/-- Settles O10: the components are `components_blend`, the special cases those of one component. -/
theorem blendArithmetic : Obligations.BlendArithmetic := by
  intro top below w hw
  obtain ⟨hred, hgreen, hblue⟩ := components_blend hw top below
  refine ⟨hred, hgreen, hblue, ?_, ?_, ?_, ?_⟩
  · rintro rfl
    exact blend_sixteen top below
  · rintro rfl
    exact blend_zero top below
  · rintro rfl
    exact blend_self hw top
  · rintro rfl
    exact ⟨hred.trans (blendPart_eight _ _), hgreen.trans (blendPart_eight _ _), hblue.trans (blendPart_eight _ _)⟩

end Sys2Proof.Machine
end

section
/-! Job queues: the thirteen tests of SUBMIT (R76), and what each kind of job carries (5.1, R78). -/

namespace Sys2Proof.Machine

open Sys2Proof

/-! ### The windows a job names (tests 2 to 5) -/

/-- The job names the window, as its target or as its source (5.1). -/
def JobOp.Names (op : JobOp) (h : Handle) : Prop := op.target = some h ∨ op.source = some h

/-- The handle is not current (R1). -/
def State.Stale (s : State) (h : Handle) : Prop := (s.window h.slot).state = .free ∨ (s.window h.slot).gen ≠ h.gen

/-- The record of the window the handle names is CLOSING. -/
def State.Closing (s : State) (h : Handle) : Prop := (s.window h.slot).state = .closing

/-- A test on the target and the same test on the source are one test on the windows a job names. -/
theorem JobOp.exists_names_iff {op : JobOp} {P : Handle → Prop} :
    (∃ h, op.Names h ∧ P h) ↔ (∃ h, op.target = some h ∧ P h) ∨ ∃ h, op.source = some h ∧ P h := by
  simp only [JobOp.Names, or_and_right, exists_or]

open Classical in
/-- Tests 2 to 5 of R76 on the window records: the first that holds decides. -/
theorem State.windowRefusal_eq (s : State) (l : Link) (op : JobOp) :
    s.windowRefusal l op =
      if ∃ h, op.Names h ∧ s.Stale h then some .staleHandle
      else if ∃ h, op.Names h ∧ s.Closing h then some .wrongState
      else if ∃ h, op.target = some h ∧ (s.window h.slot).owner ≠ some l then some .notOwner
      else if ∃ h, op.source = some h ∧ (s.window h.slot).owner ≠ some l ∧ (s.window h.slot).grants.get l = false then
        some .denied
      else none := by
  simp only [State.windowRefusal, JobOp.exists_names_iff, ite_or, Option.any_eq_true, Bool.not_eq_true', State.Stale,
    State.Closing, State.current_eq_false_iff, decide_eq_true_eq, Window.readableBy, Bool.or_eq_false_iff,
    decide_eq_false_iff_not]

/-- No window that the job names is stale or CLOSING: tests 2 and 3 of R76 pass. -/
def State.NamesLive (s : State) (op : JobOp) : Prop := ∀ h, op.Names h → ¬ s.Stale h ∧ ¬ s.Closing h

/-- Tests 2 to 5 of R76 pass. -/
def State.WindowsPass (s : State) (l : Link) (op : JobOp) : Prop :=
  (∀ h, op.target = some h → ¬ s.Stale h ∧ ¬ s.Closing h ∧ (s.window h.slot).owner = some l) ∧
  ∀ h, op.source = some h →
    ¬ s.Stale h ∧ ¬ s.Closing h ∧ ((s.window h.slot).owner = some l ∨ (s.window h.slot).grants.get l = true)

section
variable {s : State} {l : Link} {op : JobOp}

theorem State.windowRefusal_of_stale (hstale : ∃ h, op.Names h ∧ s.Stale h) :
    s.windowRefusal l op = some .staleHandle := by
  rw [State.windowRefusal_eq, if_pos hstale]

theorem State.windowRefusal_of_closing (hcurrent : ∀ h, op.Names h → ¬ s.Stale h)
    (hclosing : ∃ h, op.Names h ∧ s.Closing h) : s.windowRefusal l op = some .wrongState := by
  rw [State.windowRefusal_eq, if_neg fun ⟨h, hnames, hstale⟩ => hcurrent h hnames hstale, if_pos hclosing]

open Classical in
/-- Tests 4 and 5 of R76, where tests 2 and 3 pass. -/
theorem State.windowRefusal_of_namesLive (hlive : s.NamesLive op) :
    s.windowRefusal l op =
      if ∃ h, op.target = some h ∧ (s.window h.slot).owner ≠ some l then some .notOwner
      else if ∃ h, op.source = some h ∧ (s.window h.slot).owner ≠ some l ∧ (s.window h.slot).grants.get l = false then
        some .denied
      else none := by
  rw [State.windowRefusal_eq, if_neg fun ⟨h, hnames, hstale⟩ => (hlive h hnames).1 hstale,
    if_neg fun ⟨h, hnames, hclosing⟩ => (hlive h hnames).2 hclosing]

theorem State.windowRefusal_of_notOwner (hlive : s.NamesLive op)
    (howner : ∃ h, op.target = some h ∧ (s.window h.slot).owner ≠ some l) :
    s.windowRefusal l op = some .notOwner := by
  rw [State.windowRefusal_of_namesLive hlive, if_pos howner]

theorem State.windowRefusal_of_denied (hlive : s.NamesLive op)
    (howned : ∀ h, op.target = some h → (s.window h.slot).owner = some l)
    (hdenied : ∃ h, op.source = some h ∧ (s.window h.slot).owner ≠ some l ∧ (s.window h.slot).grants.get l = false) :
    s.windowRefusal l op = some .denied := by
  rw [State.windowRefusal_of_namesLive hlive, if_neg fun ⟨h, htarget, howner⟩ => howner (howned h htarget),
    if_pos hdenied]

theorem State.WindowsPass.namesLive (hpass : s.WindowsPass l op) : s.NamesLive op := by
  obtain ⟨htargets, hsources⟩ := hpass
  rintro h (htarget | hsource)
  · obtain ⟨hcurrent, hopen, -⟩ := htargets h htarget
    exact ⟨hcurrent, hopen⟩
  · obtain ⟨hcurrent, hopen, -⟩ := hsources h hsource
    exact ⟨hcurrent, hopen⟩

theorem State.windowRefusal_eq_none (hpass : s.WindowsPass l op) : s.windowRefusal l op = none := by
  rw [State.windowRefusal_of_namesLive hpass.namesLive, if_neg ?target, if_neg ?source]
  case target =>
    rintro ⟨h, htarget, howner⟩
    obtain ⟨-, -, hmine⟩ := hpass.1 h htarget
    exact howner hmine
  case source =>
    rintro ⟨h, hsource, howner, hgrant⟩
    obtain ⟨-, -, hmine | hgranted⟩ := hpass.2 h hsource
    · exact howner hmine
    · exact Bool.false_ne_true (hgrant.symm.trans hgranted)

end

/-! ### The stamp a job names (tests 6 to 9) -/

/-- A stamp handle is stale when its slot is FREE or has another generation (R115). -/
theorem State.stampCurrent_eq_false_iff {s : State} {h : StampHandle} :
    s.stampCurrent h = false ↔ (s.stamp h.slot).state = .free ∨ (s.stamp h.slot).gen ≠ h.gen := by
  simp only [State.stampCurrent, Bool.and_eq_false_iff, decide_eq_false_iff_not, not_not]

/-- Tests 6 to 9 of R76 on the record of the stamp the job names. -/
theorem State.stampRefusal_of_stamp {op : JobOp} {h : StampHandle} (hstamp : op.stamp = some h) (s : State) (l : Link) :
    s.stampRefusal l op =
      if (s.stamp h.slot).state = .free ∨ (s.stamp h.slot).gen ≠ h.gen then some .staleHandle
      else if (s.stamp h.slot).state = .retiring then some .stampRetiring
      else if (s.stamp h.slot).kind ≠ op.stampKind then some .badParam
      else if (s.stamp h.slot).visibility = .priv ∧ (s.stamp h.slot).owner ≠ some l then some .denied
      else none := by
  simp only [State.stampRefusal, hstamp, State.stampCurrent_eq_false_iff]

/-- Tests 6 to 9 of R76 pass. -/
def State.StampPasses (s : State) (l : Link) (op : JobOp) : Prop :=
  ∀ h, op.stamp = some h → (s.stamp h.slot).state = .loaded ∧ (s.stamp h.slot).gen = h.gen ∧
    (s.stamp h.slot).kind = op.stampKind ∧ ((s.stamp h.slot).visibility = .pub ∨ (s.stamp h.slot).owner = some l)

theorem State.stampRefusal_eq_none {s : State} {l : Link} {op : JobOp} (hpass : s.StampPasses l op) :
    s.stampRefusal l op = none := by
  cases hstamp : op.stamp with
  | none => simp only [State.stampRefusal, hstamp]
  | some h =>
    obtain ⟨hloaded, hgen, hkind, hpub | howner⟩ := hpass h hstamp
    · simp [State.stampRefusal_of_stamp hstamp, hloaded, hgen, hkind, hpub]
    · simp [State.stampRefusal_of_stamp hstamp, hloaded, hgen, hkind, howner]

/-! ### Bounds and room (tests 10 to 13) -/

/-- The rectangle does not lie wholly inside the window (R76, test 10). -/
def State.Outside (s : State) (r : Rect) (h : Handle) : Prop :=
  (s.window h.slot).width < r.x + r.w ∨ (s.window h.slot).height < r.y + r.h

theorem State.inside_eq_false_iff {s : State} {r : Rect} {h : Handle} :
    r.inside (s.window h.slot) = false ↔ s.Outside r h := by
  simp only [Rect.inside, State.Outside, Bool.and_eq_false_iff, decide_eq_false_iff_not, Nat.not_le]

/-- A rectangle of the job lies outside its window: the job's rectangle in the target, or in the source where there is no
target, or the rectangle a COPY reads in its source. -/
def State.SomeOutside (s : State) (op : JobOp) : Prop :=
  (∃ h r, op.target = some h ∧ op.rect = some r ∧ s.Outside r h) ∨
  (∃ h r, op.target = none ∧ op.source = some h ∧ op.rect = some r ∧ s.Outside r h) ∨
  (∃ t r h sel sx sy c k, op = .copy t r h sel sx sy c k ∧ s.Outside ⟨sx, sy, r.w, r.h⟩ h)

/-- Test 10 of R76. -/
theorem State.jobInside_eq_false_iff {s : State} {op : JobOp} : s.jobInside op = false ↔ s.SomeOutside op := by
  cases op with
  | copy t r src sel sx sy c k =>
    simp [State.jobInside, Bool.and_eq_false_iff, -Bool.and_eq_false_imp, State.inside_eq_false_iff, State.SomeOutside,
      JobOp.target, JobOp.rect]
  | _ => simp [State.jobInside, State.inside_eq_false_iff, State.SomeOutside, JobOp.target, JobOp.source, JobOp.rect]

theorem State.roomRefusal_of_outside {s : State} {op : JobOp} (houtside : s.SomeOutside op) (l : Link) :
    s.roomRefusal l op = some .outOfBounds := by
  simp only [State.roomRefusal, State.jobInside_eq_false_iff.2 houtside, if_true]

/-- Tests 11 to 13 of R76 on the job queue and the event queue. -/
theorem State.roomRefusal_of_inside {s : State} {op : JobOp} (hinside : ¬ s.SomeOutside op) (l : Link) :
    s.roomRefusal l op =
      if 16 ≤ (s.queue l).entries.length then some .queueFull
      else if 16384 < (s.queue l).staging + op.staging then some .stagingFull
      else if 64 ≤ (s.eventsOf l).records.length + (s.eventsOf l).reserved then some .eventsFull
      else none := by
  rw [State.roomRefusal, if_neg (mt State.jobInside_eq_false_iff.1 hinside)]
  simp only [EventQueue.hasRoom_eq_false_iff, Config.queueLimit, Config.stagingLimit]

/-! ### The tests in their order -/

section
variable {s : State} {l : Link} {op : JobOp} {status : Status}

theorem State.submitRefusal_of_windowRefusal (h : s.windowRefusal l op = some status) :
    s.submitRefusal l op = some status := by
  simp only [State.submitRefusal, h]

theorem State.submitRefusal_of_stampRefusal (hwindows : s.WindowsPass l op) (h : s.stampRefusal l op = some status) :
    s.submitRefusal l op = some status := by
  simp only [State.submitRefusal, State.windowRefusal_eq_none hwindows, h]

theorem State.submitRefusal_eq_roomRefusal (hwindows : s.WindowsPass l op) (hstamp : s.StampPasses l op) :
    s.submitRefusal l op = s.roomRefusal l op := by
  simp only [State.submitRefusal, State.windowRefusal_eq_none hwindows, State.stampRefusal_eq_none hstamp]

end

/-! ### SUBMIT -/

@[simp] theorem State.renewedLease_submitRefusal (s : State) (l k : Link) (op : JobOp) :
    (s.renewedLease l).submitRefusal k op = s.submitRefusal k op := rfl

theorem exec_submit (l : Link) (seq : Byte) (p : List Byte) (s : State) :
    exec (.submit l seq p) s = .next (s.commandAll l seq 0x20#8 (submitReply l p)) := rfl

/-- Test 1 of R76. -/
theorem submitReply_badParam {l : Link} {p : List Byte} (hp : jobRequest p = none) (t : State) :
    submitReply l p t = .refuse t .badParam := by
  simp only [submitReply, hp]

/-- The first of tests 2 to 13 of R76 that holds decides the answer. -/
theorem submitReply_of_submitRefusal {l : Link} {p : List Byte} {j : Job} {t : State} {status : Status}
    (hp : jobRequest p = some j) (ht : t.submitRefusal l j.op = some status) :
    submitReply l p t = .refuse t status := by
  simp only [submitReply, hp, ht]

/-- A SUBMIT of a well-formed job that a test refuses leaves only its answer. -/
theorem exec_submit_refused {l : Link} {seq : Byte} {p : List Byte} {s : State} {j : Job} {status : Status}
    (hready : s.ready l seq) (hsettled : TransmitterLaw s) (hp : jobRequest p = some j)
    (htests : s.submitRefusal l j.op = some status) :
    ∃ t, exec (.submit l seq p) s = .next t ∧ Answers s t l seq 0x20#8 status .none :=
  ⟨_, exec_submit l seq p s, State.commandAll_refuses hready hsettled
    (submitReply_of_submitRefusal hp ((s.renewedLease_submitRefusal l l j.op).trans htests))⟩

/-- Only PRESENT and MARK are not for the draw engine (5.1). -/
theorem JobOp.forEngine_eq (op : JobOp) : op.forEngine = decide (op.kind ≠ .present ∧ op.kind ≠ .mark) := by
  cases op <;> rfl

/-- Settles O36: tests 2 to 5 are `State.windowRefusal_eq`, tests 6 to 9 `State.stampRefusal_of_stamp`, test 10
`State.jobInside_eq_false_iff` and tests 11 to 13 `State.roomRefusal_of_inside`; what each kind carries is read off the model's
definitions. -/
theorem submitRefusals : Obligations.SubmitRefusals := by
  refine ⟨fun l seq p s hready hsettled => ⟨fun hp => ?_, ?_⟩, ?_⟩
  · exact ⟨_, exec_submit l seq p s, State.commandAll_refuses hready hsettled (submitReply_badParam hp _)⟩
  · intro j status hp stale closing outside refused windowsPass stampPasses someOutside named
    have refusal {st : Status} (h : s.submitRefusal l j.op = some st) : refused st :=
      ⟨h, exec_submit_refused hready hsettled hp h⟩
    have byWindows {st : Status} (h : s.windowRefusal l j.op = some st) : refused st :=
      refusal (State.submitRefusal_of_windowRefusal h)
    have room (hwindows : windowsPass) (hstamp : stampPasses) : s.submitRefusal l j.op = s.roomRefusal l j.op :=
      State.submitRefusal_eq_roomRefusal hwindows hstamp
    refine ⟨?stale, ?closing, ?owner, ?source, ?stamp, ?bounds, ?full, ?admitted⟩
    case stale => exact fun hstale => byWindows (State.windowRefusal_of_stale hstale)
    case closing => exact fun hcurrent hclosing => byWindows (State.windowRefusal_of_closing hcurrent hclosing)
    case owner => exact fun hlive howner => byWindows (State.windowRefusal_of_notOwner hlive howner)
    case source =>
      exact fun hlive howned hdenied => byWindows (State.windowRefusal_of_denied hlive howned hdenied)
    case stamp =>
      intro hwindows h hstamp
      have byStamp {st : Status} (hst : s.stampRefusal l j.op = some st) : refused st :=
        refusal (State.submitRefusal_of_stampRefusal hwindows hst)
      have tests := State.stampRefusal_of_stamp hstamp s l
      refine ⟨fun hstale => byStamp ?_, fun hgen hretiring => byStamp ?_, fun hgen hloaded hkind => byStamp ?_,
        fun hgen hloaded hkind hpriv howner => byStamp ?_⟩
      · rw [tests, if_pos hstale]
      · simp [tests, hgen, hretiring]
      · simp [tests, hgen, hloaded, hkind]
      · simp [tests, hgen, hloaded, hkind, hpriv, howner]
    case bounds =>
      exact fun hwindows hstamp houtside =>
        refusal ((room hwindows hstamp).trans (State.roomRefusal_of_outside houtside l))
    case full =>
      intro hwindows hstamp hinside htests
      have hroom := (room hwindows hstamp).trans (State.roomRefusal_of_inside hinside l)
      exact refusal (hroom.trans htests)
    case admitted =>
      intro hwindows hstamp hinside hentries hstaging hevents
      have hroom := (room hwindows hstamp).trans (State.roomRefusal_of_inside hinside l)
      rw [hroom, if_neg (Nat.not_le.2 hentries), if_neg (Nat.not_lt.2 hstaging), if_neg (Nat.not_le.2 hevents)]
  · intro t src st r sel sx sy colour fg bg skip combine mask pixels carries
    refine ⟨?fill, ?copy, ?tile, ?stampExpand, ?maskExpand, ?write, ?read, ?present, ?mark, rfl, rfl, rfl, rfl⟩ <;>
      exact ⟨rfl, rfl, rfl, rfl, rfl, rfl, JobOp.forEngine_eq _⟩

end Sys2Proof.Machine
end

section
/-! Drawing operations: the written value of each combine of S and D (R97). -/

namespace Sys2Proof.Machine

open Sys2Proof

/-- BLEND alone takes account of the colour fields: it is the blend of R49 with S on top and D below. -/
@[simp] theorem combined_blend (s d : Pixel) (w : Nat) : combined s d (.blend w) = blend s d w := rfl

/-- At the greatest weight BLEND is REPLACE. -/
theorem combined_blend_sixteen (s d : Pixel) : combined s d (.blend 16) = s := by
  rw [combined_blend, blend_sixteen]

/-- A weight-0 BLEND changes no pixel value. -/
theorem combined_blend_zero (s d : Pixel) : combined s d (.blend 0) = d := by
  rw [combined_blend, blend_zero]

/-- Settles O11: the seven combines that act on all sixteen bits at once are the rows of R97's table as the model gives them; the
two ends of BLEND are those of the blend of two colours. -/
theorem combineFunctions : Obligations.CombineFunctions := by
  intro s d
  refine ⟨?replace, ?and, ?or, ?xor, ?invertDest, ?sourceInvert, ?andInverted, ?blend, ?sixteen, ?zero⟩
  case blend => exact combined_blend s d
  case sixteen => exact combined_blend_sixteen s d
  case zero => exact combined_blend_zero s d
  all_goals rfl

end Sys2Proof.Machine
end

section
/-! The stamp store: the tests of LOAD_STAMP (R118) and RELOAD_STAMP (R120), and the stamp each leaves when it passes them. -/

namespace Sys2Proof.Machine

open Sys2Proof

/-! ### The tests read nothing of the lease timer -/

@[simp] theorem State.renewedLease_freeStampSlot (s : State) (l : Link) :
    (s.renewedLease l).freeStampSlot = s.freeStampSlot := rfl

@[simp] theorem State.renewedLease_loadRefusal (s : State) (l k : Link) :
    (s.renewedLease l).loadRefusal k = s.loadRefusal k := rfl

/-! ### Stamp slots -/

theorem State.freeStampSlot_eq_none_iff {s : State} :
    s.freeStampSlot = none ↔ ∀ i : StampSlot, (s.stamp i).state ≠ .free := by
  simp only [State.freeStampSlot, List.find?_eq_none, mem_finRange, forall_const, decide_eq_true_eq]

/-- The slot found is FREE and no lower one is. -/
theorem State.freeStampSlot_eq_some_iff {s : State} {i : StampSlot} :
    s.freeStampSlot = some i ↔ (s.stamp i).state = .free ∧ ∀ j, j < i → (s.stamp j).state ≠ .free := by
  rw [State.freeStampSlot, ← Fin.find?_eq_find?_finRange, Fin.find?_eq_some_iff]
  simp only [decide_eq_true_eq, decide_eq_false_iff_not]

/-! ### Fields coded 0 or 1 -/

theorem binaryField_of_eq_zero {p : List Byte} {i : Nat} (h : p.getD i 0 = 0) : binaryField p i = some false := by
  rw [binaryField, field8, h]
  rfl

theorem binaryField_of_eq_one {p : List Byte} {i : Nat} (h : p.getD i 0 = 1) : binaryField p i = some true := by
  rw [binaryField, field8, h]
  rfl

theorem binaryField_of_one_lt {p : List Byte} {i : Nat} (h : 1 < (p.getD i 0).toNat) : binaryField p i = none := by
  rw [← field8] at h
  unfold binaryField
  split
  · omega
  · omega
  · rfl

theorem byte_coded_or_one_lt (b : Byte) : b = 0 ∨ b = 1 ∨ 1 < b.toNat := by
  bv_omega

/-! ### LOAD_STAMP -/

theorem exec_loadStamp (l : Link) (seq : Byte) (p : List Byte) (s : State) :
    exec (.loadStamp l seq p) s = .next (s.command l seq 0x30#8 (loadReply l p)) := rfl

/-- Test 1 of R118 holds: an undefined encoding, or data of another length than the kind takes. -/
theorem loadRequest_eq_none {p : List Byte}
    (h : p.length < 2 ∨ 1 < (p.getD 0 0).toNat ∨ 1 < (p.getD 1 0).toNat ∨
      (p.drop 2).length ≠ (if p.getD 0 0 = 0 then 32 else 128)) : loadRequest p = none := by
  rw [loadRequest, atLeast]
  rcases h with hshort | hkind | hvisibility | hlength
  · rw [if_neg (Nat.not_le.2 hshort)]
  · simp [binaryField_of_one_lt hkind]
  · simp [binaryField_of_one_lt hvisibility]
  · rcases byte_coded_or_one_lt (p.getD 0 0) with hkind | hkind | hkind
    · rw [if_pos hkind, List.length_drop] at hlength
      simp [binaryField_of_eq_zero hkind, stampBytes, hlength]
    · rw [hkind, if_neg (by decide), List.length_drop] at hlength
      simp [binaryField_of_eq_one hkind, stampBytes, hlength]
    · simp [binaryField_of_one_lt hkind]

/-- Test 1 of R118 does not hold: the request has the kind and visibility coded and the data as they stand. -/
theorem loadRequest_eq_some {kind visibility : Byte} {data : List Byte} (hkind : kind = 0 ∨ kind = 1)
    (hvisibility : visibility = 0 ∨ visibility = 1) (hlength : data.length = if kind = 0 then 32 else 128) :
    loadRequest (kind :: visibility :: data) =
      some ⟨if kind = 0 then .mask16 else .pattern8, if visibility = 0 then .priv else .pub, data⟩ := by
  rcases hkind with rfl | rfl <;> rcases hvisibility with rfl | rfl <;>
    simpa [loadRequest, atLeast, binaryField, field8, stampBytes] using hlength

/-- Tests 2 and 3 of R118 on the stamp store, the pool's pin and the owned-stamp count. -/
theorem State.loadRefusal_eq (s : State) (l : Link) :
    s.loadRefusal l =
      if ∀ i : StampSlot, (s.stamp i).state ≠ .free then some .stampFull
      else if s.pins.pool = false ∧ 48 ≤ s.ownedStamps.get l then some .quota
      else none := by
  simp only [State.loadRefusal, State.freeStampSlot_eq_none_iff]

/-- Test 1 of R118 decides the answer. -/
theorem loadReply_badParam {l : Link} {p : List Byte} (hp : loadRequest p = none) (t : State) :
    loadReply l p t = .refuse t .badParam := by
  simp only [loadReply, hp]

/-- The first of tests 2 and 3 of R118 that holds decides the answer. -/
theorem loadReply_of_loadRefusal {l : Link} {p : List Byte} {r : LoadRequest} {t : State} {status : Status}
    (hp : loadRequest p = some r) (ht : t.loadRefusal l = some status) : loadReply l p t = .refuse t status := by
  simp only [loadReply, hp, ht]

/-- A LOAD_STAMP that passes its tests loads the lowest-numbered FREE slot and answers its handle (R119). -/
theorem loadReply_loads {l : Link} {p : List Byte} {r : LoadRequest} {t : State} {i : StampSlot}
    (hp : loadRequest p = some r) (ht : t.loadRefusal l = none) (hi : t.freeStampSlot = some i) :
    loadReply l p t = ⟨t.loadIn l r i, .ok, .stamp ⟨i, (t.stamp i).gen⟩⟩ := by
  simp only [loadReply, hp, ht, hi]

/-- A LOAD_STAMP with sound fields that test 2 or 3 of R118 refuses leaves only its answer. -/
theorem exec_loadStamp_refused {l : Link} {seq : Byte} {p : List Byte} {s : State} {r : LoadRequest} {status : Status}
    (hready : s.ready l seq) (hp : loadRequest p = some r) (htests : s.loadRefusal l = some status) :
    ∃ t, exec (.loadStamp l seq p) s = .next t ∧ Answers s t l seq 0x30#8 status .none :=
  ⟨_, exec_loadStamp l seq p s, State.command_refuses hready
    (loadReply_of_loadRefusal hp ((s.renewedLease_loadRefusal l l).trans htests))⟩

/-- Settles O44: test 1 is `loadRequest_eq_none`, tests 2 and 3 `State.loadRefusal_eq`, the load `loadReply_loads`. -/
theorem loadStampResult : Obligations.LoadStampResult := by
  intro l seq p s hready
  refine ⟨fun hbad => ?badParam, ?_⟩
  case badParam =>
    exact ⟨_, exec_loadStamp l seq p s, State.command_refuses hready (loadReply_badParam (loadRequest_eq_none hbad) _)⟩
  rintro kind visibility data rfl hkind hvisibility hlength
  have hp := loadRequest_eq_some hkind hvisibility hlength
  have tests := s.loadRefusal_eq l
  refine ⟨fun hfull => ?full, fun i hfree hlowest => ?_⟩
  case full => exact exec_loadStamp_refused hready hp (tests.trans (if_pos hfull))
  rw [if_neg fun hfull => hfull i hfree] at tests
  refine ⟨fun heven hquota => ?quota, fun hroom => ?loaded⟩
  case quota => exact exec_loadStamp_refused hready hp (tests.trans (if_pos ⟨heven, hquota⟩))
  case loaded =>
    have hpasses : (s.renewedLease l).loadRefusal l = none := by
      rw [State.renewedLease_loadRefusal, tests, if_neg]
      rintro ⟨heven, hquota⟩
      rcases hroom with hopen | hroom
      · exact Bool.false_ne_true (heven.symm.trans hopen)
      · exact Nat.not_le.2 hroom hquota
    have hslot : (s.renewedLease l).freeStampSlot = some i :=
      (s.renewedLease_freeStampSlot l).trans (State.freeStampSlot_eq_some_iff.2 ⟨hfree, hlowest⟩)
    exact ⟨_, exec_loadStamp l seq _ s, State.command_answers hready (loadReply_loads hp hpasses hslot) rfl⟩

/-! ### RELOAD_STAMP -/

theorem exec_reloadStamp (l : Link) (seq : Byte) (p : List Byte) (s : State) :
    exec (.reloadStamp l seq p) s = .next (s.command l seq 0x31#8 (reloadReply l p)) := rfl

theorem stampHandle_eq_none {p : List Byte} {i : Nat} (h : 191 < (p.getD i 0).toNat) : stampHandle p i = none :=
  dif_neg (Nat.not_lt.2 h)

/-- Test 1 of R120 holds: a slot above 191, or data of neither length. -/
theorem reloadRequest_eq_none {p : List Byte}
    (h : p.length < 2 ∨ 191 < (p.getD 0 0).toNat ∨ ((p.drop 2).length ≠ 32 ∧ (p.drop 2).length ≠ 128)) :
    reloadRequest p = none := by
  rw [reloadRequest, atLeast]
  rcases h with hshort | hslot | hlength
  · rw [if_neg (Nat.not_le.2 hshort)]
  · simp [stampHandle_eq_none hslot]
  · simp only [if_neg (not_or.2 hlength), Option.bind_eq_bind, Option.bind_fun_none, ite_self]

/-- Test 1 of R120 does not hold: the request names the handle and has the data as they stand. -/
theorem reloadRequest_eq_some {slot gen : Byte} {data : List Byte} (hs : slot.toNat < 192)
    (hlength : data.length = 32 ∨ data.length = 128) :
    reloadRequest (slot :: gen :: data) = some (⟨⟨slot.toNat, hs⟩, gen⟩, data) := by
  simp [reloadRequest, atLeast, stampHandle, field8, hs, hlength]

/-- Tests 2 to 4 of R120 and of R121 on the stamp's record. -/
theorem State.stampChangeRefusal_eq (s : State) (l : Link) (h : StampHandle) :
    s.stampChangeRefusal l h =
      if (s.stamp h.slot).state = .free ∨ (s.stamp h.slot).gen ≠ h.gen then some .staleHandle
      else if (s.stamp h.slot).state = .retiring then some .stampRetiring
      else if (s.stamp h.slot).owner ≠ some l then some .notOwner
      else none := by
  simp only [State.stampChangeRefusal, State.stampCurrent_eq_false_iff]

/-- Tests 2 to 6 of R120 on the stamp's record: the status of the first that holds. -/
def State.reloadRefusal (s : State) (l : Link) (h : StampHandle) (data : List Byte) : Option Status :=
  if (s.stamp h.slot).state = .free ∨ (s.stamp h.slot).gen ≠ h.gen then some .staleHandle
  else if (s.stamp h.slot).state = .retiring then some .stampRetiring
  else if (s.stamp h.slot).owner ≠ some l then some .notOwner
  else if data.length ≠ stampBytes (s.stamp h.slot).kind then some .badParam
  else if 0 < (s.stamp h.slot).references then some .stampInUse
  else none

@[simp] theorem State.renewedLease_reloadRefusal (s : State) (l k : Link) (h : StampHandle) (data : List Byte) :
    (s.renewedLease l).reloadRefusal k h data = s.reloadRefusal k h data := rfl

/-- Tests 5 and 6 of R120 come after the tests that R120 and R121 share. -/
theorem State.reloadRefusal_eq (s : State) (l : Link) (h : StampHandle) (data : List Byte) :
    s.reloadRefusal l h data = (s.stampChangeRefusal l h).or
      (if data.length ≠ stampBytes (s.stamp h.slot).kind then some .badParam
      else if 0 < (s.stamp h.slot).references then some .stampInUse
      else none) := by
  rw [State.stampChangeRefusal_eq, State.reloadRefusal]
  split_ifs <;> rfl

theorem State.reloadRefusal_eq_none {s : State} {l : Link} {h : StampHandle} {data : List Byte}
    (hloaded : (s.stamp h.slot).state = .loaded) (hgen : (s.stamp h.slot).gen = h.gen)
    (howner : (s.stamp h.slot).owner = some l) (hlength : data.length = stampBytes (s.stamp h.slot).kind)
    (hunused : (s.stamp h.slot).references = 0) : s.reloadRefusal l h data = none := by
  simp [State.reloadRefusal, hloaded, hgen, howner, hlength, hunused]

/-- Test 1 of R120 decides the answer. -/
theorem reloadReply_badParam {l : Link} {p : List Byte} (hp : reloadRequest p = none) (t : State) :
    reloadReply l p t = .refuse t .badParam := by
  simp only [reloadReply, hp]

/-- The first of tests 2 to 6 of R120 that holds decides the answer; a RELOAD_STAMP that passes them replaces the contents. -/
theorem reloadReply_eq {p : List Byte} {h : StampHandle} {data : List Byte} (hp : reloadRequest p = some (h, data))
    (l : Link) (t : State) :
    reloadReply l p t = (t.reloadRefusal l h data).elim
      (.answer (t.setStamp h.slot { t.stamp h.slot with contents := data }) .ok) (.refuse t) := by
  rw [State.reloadRefusal_eq]
  simp only [reloadReply, hp]
  cases t.stampChangeRefusal l h with
  | some status => rfl
  | none => simp only [Option.none_or]; split_ifs <;> rfl

/-- Settles O45: test 1 is `reloadRequest_eq_none`, and `reloadReply_eq` gives the answer by tests 2 to 6. -/
theorem reloadStampResult : Obligations.ReloadStampResult := by
  intro l seq p s hready
  refine ⟨fun hbad => ?badParam, ?_⟩
  case badParam =>
    exact ⟨_, exec_reloadStamp l seq p s,
      State.command_refuses hready (reloadReply_badParam (reloadRequest_eq_none hbad) _)⟩
  rintro slot gen data hs rfl hlength i st
  have reply := reloadReply_eq (reloadRequest_eq_some (gen := gen) hs hlength) l (s.renewedLease l)
  rw [State.renewedLease_reloadRefusal] at reply
  refine ⟨fun status htests => ?refused, fun hloaded hgen howner hkind hunused => ?reloaded⟩
  case refused =>
    have hrefused : s.reloadRefusal l ⟨i, gen⟩ data = some status := htests
    rw [hrefused] at reply
    exact ⟨_, exec_reloadStamp l seq _ s, State.command_refuses hready reply⟩
  case reloaded =>
    have hpasses : s.reloadRefusal l ⟨i, gen⟩ data = none :=
      State.reloadRefusal_eq_none hloaded hgen howner hkind hunused
    rw [hpasses] at reply
    exact ⟨_, exec_reloadStamp l seq _ s, State.command_answers hready reply rfl⟩

end Sys2Proof.Machine
end

section
/-! Host links: the figures STATUS reports (R165). -/

namespace Sys2Proof.Machine

open Sys2Proof

/-! ### STATUS -/

/-- STATUS reports the pool, the scanout unit, the pins, the stamp count and the link's queues, and nothing of a link
controller: the renewed lease timer does not show in it. -/
@[simp] theorem State.renewedLease_statusReport (s : State) (l k : Link) :
    (s.renewedLease l).statusReport k = s.statusReport k := rfl

/-- What a STATUS command answers, which changes no state (R165). -/
def statusReply (l : Link) (t : State) : Reply := ⟨t, .ok, .status (t.statusReport l)⟩

theorem exec_status (l : Link) (seq : Byte) (s : State) :
    exec (.status l seq) s = .next (s.command l seq 0x05#8 (statusReply l)) := rfl

/-- The figures are read after the lease is renewed, and are those of the state before it. -/
theorem statusReply_renewedLease (s : State) (l : Link) :
    statusReply l (s.renewedLease l) = ⟨s.renewedLease l, .ok, .status (s.statusReport l)⟩ := by
  rw [statusReply, State.renewedLease_statusReport]

/-- Settles O22: the reply leaves the state and carries the figures from before the command (`statusReply_renewedLease`). -/
theorem statusResult : Obligations.StatusResult := by
  intro l seq s hready
  exact ⟨_, exec_status l seq s, State.command_answers hready (statusReply_renewedLease s l) rfl⟩

end Sys2Proof.Machine
end

section
/-! The commands of the block by their parts: what a sound frame can lead to, what each command's own block can leave, and the
principle by which a law is kept by every step. -/

namespace Sys2Proof.Machine

open Sys2Proof

/-! ### What a sound frame can lead to -/

/-- What a sound frame can make of a state (R154's table, R155 to R159, R162): it is discarded; it is answered outside the
sequence on a link that is not UP; it finds 4 responses waiting on an UP link, which is a protocol fault; it is answered from the
cache or with SEQUENCE_ERROR after it has renewed the lease; or its command is executed. -/
inductive FrameTaken (s : State) (l : Link) (seq code : Byte) (body : State → Reply) : State → Prop where
  | discarded : FrameTaken s l seq code body s
  | outside (r : Response) (hroom : (s.link l).backlog.length < 4) :
      FrameTaken s l seq code body (s.setLink l ((s.link l).answer r))
  | fault (hup : (s.link l).state = .up) : FrameTaken s l seq code body (s.endSession l .fault).transmitAll
  | again (r : Response) (hup : (s.link l).state = .up) (hroom : (s.link l).backlog.length < 4) :
      FrameTaken s l seq code body ((s.renewedLease l).setLink l (((s.renewedLease l).link l).answer r))
  | executed (hup : (s.link l).state = .up) (hgoodbye : (s.link l).goodbye = false)
      (hroom : (s.link l).backlog.length < 4) (hseq : seq = (s.link l).expected) :
      FrameTaken s l seq code body ((body (s.renewedLease l)).deliver l seq code)

theorem LinkCtl.backlogFull_eq_false_iff {c : LinkCtl} : c.backlogFull = false ↔ c.backlog.length < 4 := by
  simp [LinkCtl.backlogFull, Config.backlogLimit]

theorem State.answerOutside_taken (s : State) (l : Link) (code seq : Byte) (status : Status) (body : State → Reply)
    (n k : Byte) : FrameTaken s l n k body (s.answerOutside l code seq status) := by
  unfold State.answerOutside
  split
  · exact .discarded
  · rename_i hfull
    exact .outside _ (LinkCtl.backlogFull_eq_false_iff.1 (Bool.eq_false_iff.2 hfull))

@[simp] theorem State.renewedLease_link_self (s : State) (l : Link) : (s.renewedLease l).link l = (s.link l).renewed :=
  PerLink.get_set_self s.links l _

theorem State.takeUp_taken (s : State) (l : Link) (seq code : Byte) (body : State → Reply)
    (hup : (s.link l).state = .up) : FrameTaken s l seq code body (s.takeUp l seq code body) := by
  unfold State.takeUp
  dsimp only
  split
  · exact .discarded
  · rename_i hgoodbye
    split
    · exact .fault hup
    · rename_i hfull
      have hroom := LinkCtl.backlogFull_eq_false_iff.1 (Bool.eq_false_iff.2 hfull)
      change FrameTaken s l seq code body ((s.renewedLease l).takeSequenced l seq code body)
      unfold State.takeSequenced
      dsimp only
      split
      · rename_i hseq
        refine .executed hup (Bool.eq_false_iff.2 hgoodbye) hroom ?_
        simpa [LinkCtl.renewed] using hseq
      · split
        · exact .again _ hup hroom
        · exact .again _ hup hroom

theorem State.takeFrame_taken (s : State) (l : Link) (seq code : Byte) (body : State → Reply) :
    FrameTaken s l seq code body (s.takeFrame l seq code body) := by
  unfold State.takeFrame
  split
  · exact s.answerOutside_taken l code seq .notAttached body seq code
  · exact s.answerOutside_taken l code seq .notAttached body seq code
  · rename_i hup
    exact s.takeUp_taken l seq code body hup

theorem helloLease_eq_some {p : List Byte} {lease : Nat} (h : helloLease p = some lease) : 10 ≤ lease ∧ lease ≤ 2000 := by
  unfold helloLease atLeast ranged at h
  split at h
  · split at h
    · rename_i hrange
      cases h
      exact hrange
    · cases h
  · cases h

/-- What a HELLO can make of a state: what every sound frame can, or the beginning of a session (R161). -/
theorem State.takeHello_taken (s : State) (l : Link) (seq : Byte) (p : List Byte) :
    FrameTaken s l seq 0x01#8 (fun t => .refuse t .wrongState) (s.takeHello l seq p) ∨
      ∃ lease, (s.link l).state = .down ∧ (s.link l).backlog.length < 4 ∧ 10 ≤ lease ∧ lease ≤ 2000 ∧
        s.takeHello l seq p = s.beginSession l seq lease := by
  unfold State.takeHello
  split
  · rename_i hdown
    unfold State.helloDown
    split
    · exact .inl .discarded
    · rename_i hfull
      split
      · exact .inl (s.answerOutside_taken l _ seq .badParam _ _ _)
      · rename_i lease hlease
        obtain ⟨hlo, hhi⟩ := helloLease_eq_some hlease
        exact .inr ⟨lease, hdown, LinkCtl.backlogFull_eq_false_iff.1 (Bool.eq_false_iff.2 hfull), hlo, hhi, rfl⟩
  · exact .inl (s.answerOutside_taken l _ seq .retryLater _ _ _)
  · rename_i hup
    exact .inl (s.takeUp_taken l seq _ _ hup)

/-! ### What each command's own block can leave -/

@[simp] theorem Reply.refuse_state (s : State) (status : Status) : (Reply.refuse s status).state = s := rfl

@[simp] theorem Reply.answer_state (s : State) (status : Status) : (Reply.answer s status).state = s := rfl

theorem State.changeWindow_state (s : State) (l : Link) (h : Handle) (change : State → State) :
    (s.changeWindow l h change).state = s ∨
      s.changeRefusal l h = none ∧ (s.changeWindow l h change).state = change s := by
  unfold State.changeWindow
  split
  · exact .inl rfl
  · rename_i hpasses
    exact .inr ⟨hpasses, rfl⟩

theorem openReply_state (l : Link) (p : List Byte) (t : State) :
    (openReply l p t).state = t ∨ ∃ r i, t.openRefusal l r = none ∧ t.freeSlot = some i ∧
      (openReply l p t).state = t.openIn l r i := by
  unfold openReply
  split
  · exact .inl rfl
  · split
    · rename_i hpasses hslot
      exact .inr ⟨_, _, hpasses, hslot, rfl⟩
    · exact .inl rfl
    · exact .inl rfl

theorem closeReply_state (l : Link) (p : List Byte) (t : State) :
    (closeReply l p t).state = t ∨ ∃ h, t.changeRefusal l h = none ∧
      (closeReply l p t).state = (t.enterClosing h.slot .owner).scheduleAll := by
  unfold closeReply
  split
  · exact .inl rfl
  · rename_i h hp
    exact (t.changeWindow_state l h _).imp_right fun hs => ⟨h, hs⟩

/-- The records that MOVE_WINDOW, SET_LOOK, SET_TOUCH and GRANT leave differ in the fields they name alone (R15 to R18). -/
def Window.Restyled (w v : Window) : Prop :=
  { v with x := w.x, y := w.y, weight := w.weight, key := w.key, touch := w.touch, grants := w.grants } = w

theorem restyleReply_state (l : Link) (p : List Byte) (t : State) (body : State → Reply)
    (hbody : body = moveReply l p ∨ body = lookReply l p ∨ body = touchReply l p ∨ body = grantReply l p) :
    (body t).state = t ∨ ∃ (h : Handle) (w : Window), t.changeRefusal l h = none ∧ (t.window h.slot).Restyled w ∧
      (body t).state = t.setWindow h.slot w := by
  rcases hbody with rfl | rfl | rfl | rfl
  · unfold moveReply
    split
    · exact .inl rfl
    · rename_i h x y hp
      exact (t.changeWindow_state l h _).imp_right fun hs =>
        ⟨h, { t.window h.slot with x := x, y := y }, hs.1, rfl, hs.2⟩
  · unfold lookReply
    split
    · exact .inl rfl
    · rename_i h weight key hp
      exact (t.changeWindow_state l h _).imp_right fun hs =>
        ⟨h, { t.window h.slot with weight := weight, key := key }, hs.1, rfl, hs.2⟩
  · unfold touchReply
    split
    · exact .inl rfl
    · rename_i h on hp
      exact (t.changeWindow_state l h _).imp_right fun hs => ⟨h, { t.window h.slot with touch := on }, hs.1, rfl, hs.2⟩
  · unfold grantReply
    split
    · exact .inl rfl
    · rename_i h links hp
      split
      · exact .inl rfl
      · rename_i hpasses
        split
        · exact .inl rfl
        · exact .inr ⟨h, { t.window h.slot with grants := links }, hpasses, rfl, rfl⟩

theorem showReply_state (l : Link) (p : List Byte) (t : State) :
    (showReply l p t).state = t ∨ ∃ h place, t.changeRefusal l h = none ∧ t.placementRefusal h place = none ∧
      (showReply l p t).state = t.shownAt h place := by
  unfold showReply
  split
  · exact .inl rfl
  · split
    · exact .inl rfl
    · exact .inl rfl
    · rename_i hpasses hplace
      exact .inr ⟨_, _, hpasses, hplace, rfl⟩

theorem hideReply_state (l : Link) (p : List Byte) (t : State) :
    (hideReply l p t).state = t ∨ ∃ h, t.changeRefusal l h = none ∧ (hideReply l p t).state = t.hidden h := by
  unfold hideReply
  split
  · exact .inl rfl
  · rename_i h hp
    exact (t.changeWindow_state l h _).imp_right fun hs => ⟨h, hs⟩

theorem submitReply_state (l : Link) (p : List Byte) (t : State) :
    (submitReply l p t).state = t ∨ ∃ j, t.submitRefusal l j.op = none ∧
      (submitReply l p t).state = (t.admitJob l j).schedule l := by
  unfold submitReply
  split
  · exact .inl rfl
  · split
    · exact .inl rfl
    · rename_i hpasses
      exact .inr ⟨_, hpasses, rfl⟩

theorem ackReply_state (l : Link) (p : List Byte) (t : State) :
    (ackReply l p t).state = t ∨ ∃ seq gone rest, splitAcked seq (t.eventsOf l).records = some (gone, rest) ∧
      (ackReply l p t).state = t.retire l gone rest := by
  unfold ackReply
  split
  · exact .inl rfl
  · split
    · exact .inl rfl
    · rename_i hsplit
      exact .inr ⟨_, _, _, hsplit, rfl⟩

theorem notifyReply_state (l : Link) (p : List Byte) (t : State) :
    (notifyReply l p t).state = t ∨ ∃ on, (notifyReply l p t).state = t.setLink l { t.link l with notify := on } := by
  unfold notifyReply
  split
  · exact .inl rfl
  · exact .inr ⟨_, rfl⟩

theorem infoReply_state (p : List Byte) (t : State) : (infoReply p t).state = t := by
  unfold infoReply
  repeat' split
  all_goals rfl

theorem loadReply_state (l : Link) (p : List Byte) (t : State) :
    (loadReply l p t).state = t ∨ ∃ r i, t.loadRefusal l = none ∧ t.freeStampSlot = some i ∧
      (loadReply l p t).state = t.loadIn l r i := by
  unfold loadReply
  split
  · exact .inl rfl
  · split
    · rename_i hpasses hslot
      exact .inr ⟨_, _, hpasses, hslot, rfl⟩
    · exact .inl rfl
    · exact .inl rfl

theorem reloadReply_state (l : Link) (p : List Byte) (t : State) :
    (reloadReply l p t).state = t ∨ ∃ (h : StampHandle) (data : List Byte), t.stampChangeRefusal l h = none ∧
      (reloadReply l p t).state = t.setStamp h.slot { t.stamp h.slot with contents := data } := by
  unfold reloadReply
  split
  · exact .inl rfl
  · split
    · exact .inl rfl
    · rename_i hpasses
      repeat' split
      · exact .inl rfl
      · exact .inl rfl
      · exact .inr ⟨_, _, hpasses, rfl⟩

theorem freeReply_state (l : Link) (p : List Byte) (t : State) :
    (freeReply l p t).state = t ∨ ∃ h, t.stampChangeRefusal l h = none ∧
      (freeReply l p t).state = (t.freeOrRetire l h).state := by
  unfold freeReply
  split
  · exact .inl rfl
  · split
    · exact .inl rfl
    · rename_i hpasses
      exact .inr ⟨_, hpasses, rfl⟩

end Sys2Proof.Machine
end

section
/-! The principle by which a law is kept by every step: it is kept by the parts of which every meaning is composed. -/

namespace Sys2Proof.Machine

open Sys2Proof

/-! ### Folds -/

/-- A property that every step of a fold keeps is kept by the fold. -/
theorem foldl_keeps {σ α : Type} (P : σ → Prop) (f : σ → α → σ) (h : ∀ t x, P t → P (f t x)) (xs : List α) {s : σ}
    (hs : P s) : P (xs.foldl f s) := by
  induction xs generalizing s with
  | nil => exact hs
  | cons x xs ih => exact ih (h s x hs)

/-! ### What the window table's reports leave of a controller -/

/-- The controllers differ at most in the link state and the teardown record (R169, R171). -/
def LinkCtl.SameSession (c d : LinkCtl) : Prop :=
  { d with state := c.state, toRelease := c.toRelease, jobPending := c.jobPending } = c

theorem LinkCtl.SameSession.refl (c : LinkCtl) : c.SameSession c := rfl

theorem LinkCtl.SameSession.trans {c d e : LinkCtl} (h : c.SameSession d) (h' : d.SameSession e) : c.SameSession e := by
  unfold LinkCtl.SameSession at *
  rw [← h, ← h']

theorem LinkCtl.SameSession.backlog {c d : LinkCtl} (h : c.SameSession d) : d.backlog = c.backlog :=
  (congrArg LinkCtl.backlog h :)

theorem State.endTest_sameSession (s : State) (l k : Link) : (s.link k).SameSession ((s.endTest l).link k) := by
  unfold State.endTest
  dsimp only
  split
  · rw [State.link_setLink]
    split
    · rename_i hk
      subst hk
      rfl
    · rfl
  · rfl

theorem State.reportRelease_sameSession (s : State) (l k : Link) :
    (s.link k).SameSession ((s.reportRelease l).link k) := by
  refine .trans ?_ (State.endTest_sameSession _ l k)
  rw [State.link_setLink]
  split
  · rename_i hk
    subst hk
    rfl
  · rfl

theorem State.handReserved_link (s : State) (l : Link) (e : Event) (k : Link) :
    (s.handReserved l e).link k = s.link k := by
  unfold State.handReserved
  split <;> rfl

theorem State.release_sameSession (s : State) (i : Slot) (k : Link) : (s.link k).SameSession ((s.release i).link k) := by
  unfold State.release
  dsimp only
  generalize hfreed : (s.setWindow i _).setPool _ = freed
  have hlink : freed.link k = s.link k := by rw [← hfreed]; rfl
  rw [← hlink]
  split
  · rw [State.handReserved_link]
    exact LinkCtl.SameSession.refl _
  · exact freed.reportRelease_sameSession _ k
  · exact LinkCtl.SameSession.refl _

theorem State.releaseTest_sameSession (s : State) (i : Slot) (k : Link) :
    (s.link k).SameSession ((s.releaseTest i).link k) := by
  rw [State.releaseTest_eq]
  split
  · exact s.release_sameSession i k
  · exact .refl _

theorem State.enterClosing_sameSession (s : State) (i : Slot) (reason : CloseReason) (k : Link) :
    (s.link k).SameSession ((s.enterClosing i reason).link k) := by
  unfold State.enterClosing
  dsimp only
  refine .trans ?_ (State.releaseTest_sameSession _ i k)
  simp only [State.link_setEngine, State.cancelCaptures_frame, State.cancelPresent_frame, State.link_setWindow,
    State.link_setStack]
  exact .refl _

/-! ### Link states -/

theorem State.isUp_iff {s : State} {l : Link} : s.isUp l = true ↔ (s.link l).state = .up := by
  simp [State.isUp]

theorem State.isUp_eq_of_state {s t : State} {l : Link} (h : (t.link l).state = (s.link l).state) :
    t.isUp l = s.isUp l := by
  simp only [State.isUp, h]

theorem State.isUp_eq_of_links {s t : State} (h : t.links = s.links) (l : Link) : t.isUp l = s.isUp l :=
  State.isUp_eq_of_state (by rw [State.link, State.link, h])

theorem State.isUp_setLink (s : State) (l k : Link) (c : LinkCtl) (h : c.state = (s.link l).state) :
    (s.setLink l c).isUp k = s.isUp k := by
  apply State.isUp_eq_of_state
  rw [State.link_setLink]
  split
  · rename_i hk
    rw [h, hk]
  · rfl

/-- The end test brings a link in TEARDOWN to DOWN, and no other link anywhere. -/
@[simp] theorem State.endTest_isUp (s : State) (l k : Link) : (s.endTest l).isUp k = s.isUp k := by
  unfold State.endTest
  dsimp only
  split
  · rename_i htest
    by_cases hk : k = l
    · subst hk
      simp [State.isUp, htest.1]
    · exact State.isUp_setLink_ne s l k _ hk
  · rfl

@[simp] theorem State.reportRelease_isUp (s : State) (l k : Link) : (s.reportRelease l).isUp k = s.isUp k :=
  (State.endTest_isUp _ l k).trans (State.isUp_setLink s l k _ rfl)

@[simp] theorem State.reportJobEnd_isUp (s : State) (l k : Link) : (s.reportJobEnd l).isUp k = s.isUp k :=
  (State.endTest_isUp _ l k).trans (State.isUp_setLink s l k _ rfl)

theorem State.handReserved_isUp (s : State) (l : Link) (e : Event) (k : Link) :
    (s.handReserved l e).isUp k = s.isUp k := by
  unfold State.handReserved
  split <;> rfl

@[simp] theorem State.release_isUp (s : State) (i : Slot) (k : Link) : (s.release i).isUp k = s.isUp k := by
  unfold State.release
  dsimp only
  generalize hfreed : (s.setWindow i _).setPool _ = freed
  have hup : freed.isUp k = s.isUp k := by rw [← hfreed]; rfl
  rw [← hup]
  split
  · exact State.handReserved_isUp _ _ _ k
  · exact State.reportRelease_isUp _ _ k
  · rfl

@[simp] theorem State.releaseTest_isUp (s : State) (i : Slot) (k : Link) : (s.releaseTest i).isUp k = s.isUp k := by
  rw [State.releaseTest_eq]
  split
  · exact s.release_isUp i k
  · rfl

@[simp] theorem State.foldl_releaseTest_isUp (s : State) (is : List Slot) (k : Link) :
    (is.foldl State.releaseTest s).isUp k = s.isUp k :=
  foldl_keeps (fun t => t.isUp k = s.isUp k) State.releaseTest (fun t i h => (t.releaseTest_isUp i k).trans h) is rfl

@[simp] theorem State.enterClosing_isUp (s : State) (i : Slot) (reason : CloseReason) (k : Link) :
    (s.enterClosing i reason).isUp k = s.isUp k := by
  unfold State.enterClosing
  dsimp only
  rw [State.releaseTest_isUp]
  simp only [State.isUp_setEngine, State.cancelCaptures_frame, State.cancelPresent_frame, State.isUp_setWindow,
    State.isUp_setStack]

@[simp] theorem State.teardownWindow_isUp (l : Link) (s : State) (i : Slot) (k : Link) :
    (State.teardownWindow l s i).isUp k = s.isUp k := by
  unfold State.teardownWindow
  dsimp only
  (repeat' split) <;> simp

@[simp] theorem State.teardownWindows_isUp (s : State) (l k : Link) : (s.teardownWindows l).isUp k = s.isUp k := by
  unfold State.teardownWindows
  refine foldl_keeps (fun t => t.isUp k = s.isUp k) (State.teardownWindow l)
    (fun t i h => (State.teardownWindow_isUp l t i k).trans h) _ ?_
  apply State.isUp_eq_of_links
  rfl

@[simp] theorem State.completeInFlight_isUp (s : State) (f : InFlight) (e : Ending) (k : Link) :
    (s.completeInFlight f e).isUp k = s.isUp k := by
  unfold State.completeInFlight
  dsimp only
  split <;> simp

@[simp] theorem State.endRow_isUp (s : State) (f : InFlight) (k : Link) : (s.endRow f).isUp k = s.isUp k := by
  unfold State.endRow
  dsimp only
  have hdrawn : (s.drawRow f).isUp k = s.isUp k := rfl
  rw [← hdrawn]
  generalize s.drawRow f = d
  (repeat' split) <;> simp

theorem State.markGlass_links (s : State) : s.markGlass.links = s.links := by
  simp only [State.markGlass]

@[simp] theorem State.updateMarks_isUp (s : State) (k : Link) : s.updateMarks.isUp k = s.isUp k := by
  unfold State.updateMarks
  rw [State.foldl_releaseTest_isUp]
  exact State.isUp_eq_of_links s.markGlass_links k

@[simp] theorem State.frameParts_isUp (s : State) (k : Link) : s.frameParts.isUp k = s.isUp k := by
  unfold State.frameParts
  dsimp only
  have hcounted : (s.setScanout s.scanout.counted).isUp k = s.isUp k := rfl
  rw [← hcounted]
  generalize s.setScanout s.scanout.counted = c
  have hlatched : ((List.finRange 32).foldl State.takeFlip c).latch.isUp k = c.isUp k := by
    rw [State.latch, State.isUp_setScanout]
    simp
  simp only [State.foldl_noticeFrame_frame, State.updateMarks_isUp, hlatched]

@[simp] theorem State.startFrame_isUp (s : State) (k : Link) : s.startFrame.isUp k = s.isUp k := by
  unfold State.startFrame
  simp

/-- The start of its teardown takes a link out of UP, and no other link's state out of UP or into it. -/
theorem State.startTeardown_isUp (s : State) (l : Link) (reason : EndReason) (k : Link) :
    (s.startTeardown l reason).isUp k = if k = l then false else s.isUp k := by
  unfold State.startTeardown
  dsimp only
  rw [State.endTest_isUp, State.teardownWindows_isUp]
  simp only [State.orphanStamps_frame, State.dropJobs_frame, State.dropEvents_frame]
  split
  · rename_i hk
    subst hk
    simp [LinkCtl.torn]
  · rename_i hk
    exact State.isUp_setLink_ne s l k _ hk

/-! ### The principle -/

/-- The law is kept by the parts of which the meaning of every sound frame is composed. -/
structure KeptByFrames (I : State → Prop) : Prop where
  answers : ∀ s l r, I s → (s.link l).backlog.length < 4 → I (s.setLink l ((s.link l).answer r))
  renews : ∀ s l, I s → I (s.renewedLease l)
  executes : ∀ s l seq code status result, I s → (s.link l).backlog.length < 4 → (s.link l).state = .up →
    I (s.setLink l ((s.link l).executed seq code status result))
  transmits : ∀ s l, I s → I (s.transmit l)
  ends : ∀ s l reason, s.resetN = true → I s → I (s.endSession l reason)

/-- What the block of a command executed on link l leaves of a state u that meets the law: the law, the link's backlog, and the
link UP. -/
def BodyKeeps (I : State → Prop) (l : Link) (u t : State) : Prop :=
  I t ∧ (t.link l).backlog = (u.link l).backlog ∧ (t.link l).state = .up

section
variable {I : State → Prop} (kept : KeptByFrames I)
include kept

theorem KeptByFrames.transmitAll {s : State} (hs : I s) : I s.transmitAll :=
  foldl_keeps I State.transmit kept.transmits allLinks hs

/-- What a sound frame leads to keeps the law where the command's own block does, and leaves the link's backlog alone. -/
theorem KeptByFrames.taken {s t : State} {l : Link} {seq code : Byte} {body : State → Reply}
    (ht : FrameTaken s l seq code body t) (hreset : s.resetN = true) (hs : I s)
    (hbody : ∀ u : State, u.resetN = true → (u.link l).state = .up → I u →
      BodyKeeps I l u (body u).state) : I t := by
  cases ht with
  | discarded => exact hs
  | outside r hroom => exact kept.answers s l r hs hroom
  | fault hup => exact kept.transmitAll (kept.ends s l .fault hreset hs)
  | again r hup hroom => exact kept.answers _ l r (kept.renews s l hs) (by simpa [LinkCtl.renewed] using hroom)
  | executed hup hgoodbye hroom hseq =>
    obtain ⟨hI, hbacklog, hup'⟩ :=
      hbody (s.renewedLease l) hreset (by simpa [LinkCtl.renewed] using hup) (kept.renews s l hs)
    exact kept.executes _ l seq code _ _ hI (by simpa [hbacklog, LinkCtl.renewed] using hroom) hup'

theorem KeptByFrames.command {s : State} {l : Link} {seq code : Byte} {body : State → Reply} (hs : I s)
    (hbody : ∀ u : State, u.resetN = true → (u.link l).state = .up → I u →
      BodyKeeps I l u (body u).state) : I (s.command l seq code body) := by
  unfold State.command
  split
  · rename_i hreset
    exact kept.transmits _ l (kept.taken (s.takeFrame_taken l seq code body) hreset hs hbody)
  · exact hs

theorem KeptByFrames.commandAll {s : State} {l : Link} {seq code : Byte} {body : State → Reply} (hs : I s)
    (hbody : ∀ u : State, u.resetN = true → (u.link l).state = .up → I u →
      BodyKeeps I l u (body u).state) : I (s.commandAll l seq code body) := by
  unfold State.commandAll
  split
  · rename_i hreset
    exact kept.transmitAll (kept.taken (s.takeFrame_taken l seq code body) hreset hs hbody)
  · exact hs

end

/-- The part as PIN_RESET leaves it (R152). -/
def State.afterPinReset (s : State) (pins : Pins) : State :=
  { State.heldInReset pins with pending := s.pending, mem := s.mem,
                                scanout := { (State.heldInReset pins).scanout with choice := s.scanout.choice } }

/-- The law is kept by the parts of which the meaning of every command is composed. -/
structure KeptByParts (I : State → Prop) : Prop extends KeptByFrames I where
  pinReset : ∀ s pins, I s → I (s.afterPinReset pins)
  resetRelease : ∀ s, s.resetN = false → I s → I { s with resetN := true, pool := s.pool.startScrub }
  scrubs : ∀ s page rest, s.resetN = true → s.pool.busy = true → s.pool.scrub = page :: rest → I s →
    I { s with mem := clearPage s.mem page, pool := s.pool.scrubDone }
  begins : ∀ s l seq lease, I s → (s.link l).state = .down → (s.link l).backlog.length < 4 → 10 ≤ lease → lease ≤ 2000 →
    I (s.beginSession l seq lease)
  goodbye : ∀ s l, I s → (s.link l).state = .up → I (s.setLink l { s.link l with goodbye := true, timer := none })
  notify : ∀ s l on, I s → I (s.setLink l { s.link l with notify := on })
  idles : ∀ s l, I s → I (s.setLink l { s.link l with tx := .idle })
  ticks : ∀ s l, I s → (s.link l).leaseReached = false →
    I (s.setLink l { s.link l with timer := (s.link l).timer.map fun n => n + 1 })
  retires : ∀ s l seq gone rest, I s → splitAcked seq (s.eventsOf l).records = some (gone, rest) → I (s.retire l gone rest)
  resends : ∀ s l, I s → (s.link l).state = .up → I (s.setEvents l (s.eventsOf l).resend)
  opens : ∀ s l r i, s.resetN = true → I s → (s.link l).state = .up → s.openRefusal l r = none → s.freeSlot = some i →
    I (s.openIn l r i)
  closes : ∀ s l h, s.resetN = true → I s → (s.link l).state = .up → s.changeRefusal l h = none →
    I (s.enterClosing h.slot .owner).scheduleAll
  restyles : ∀ s l (h : Handle) w, I s → s.changeRefusal l h = none → (s.window h.slot).Restyled w →
    I (s.setWindow h.slot w)
  shows : ∀ s l h place, I s → s.changeRefusal l h = none → s.placementRefusal h place = none → I (s.shownAt h place)
  hides : ∀ s l h, I s → s.changeRefusal l h = none → I (s.hidden h)
  submits : ∀ s l j, I s → (s.link l).state = .up → s.submitRefusal l j.op = none → I ((s.admitJob l j).schedule l)
  loads : ∀ s l r i, I s → (s.link l).state = .up → s.loadRefusal l = none → s.freeStampSlot = some i → I (s.loadIn l r i)
  reloads : ∀ s l (h : StampHandle) data, I s → s.stampChangeRefusal l h = none →
    I (s.setStamp h.slot { s.stamp h.slot with contents := data })
  frees : ∀ s l h, I s → s.stampChangeRefusal l h = none → I (s.freeOrRetire l h).state
  rowEnds : ∀ s f, s.resetN = true → I s → s.engine = some f → I (s.endRow f)
  frameStarts : ∀ s, s.resetN = true → I s → I s.startFrame
  reports : ∀ s es, I s → I (s.applyReport es)

theorem State.tickLink_resetN (s : State) (l : Link) : (s.tickLink l).resetN = s.resetN := by
  unfold State.tickLink State.expireLease
  split <;> simp

/-- The command's own block keeps the law where it leaves the state or changes it in a way that keeps the law. -/
theorem body_keeps {I : State → Prop} {l : Link} {u t : State} (hup : (u.link l).state = .up) (hu : I u)
    (hstate : t = u ∨ BodyKeeps I l u t) : BodyKeeps I l u t := by
  rcases hstate with rfl | h
  · exact ⟨hu, rfl, hup⟩
  · exact h

section
variable {I : State → Prop} (kept : KeptByParts I)
include kept

theorem KeptByParts.restyle {s : State} {l : Link} {seq code : Byte} {p : List Byte} {body : State → Reply} (hs : I s)
    (hbody : body = moveReply l p ∨ body = lookReply l p ∨ body = touchReply l p ∨ body = grantReply l p) :
    I (s.command l seq code body) := by
  refine kept.command hs fun u _ hup hu => body_keeps hup hu ?_
  refine (restyleReply_state l p u body hbody).imp_right fun ⟨h, w, hpasses, hw, heq⟩ => ?_
  rw [heq]
  exact ⟨kept.restyles u l h w hu hpasses hw, rfl, hup⟩

theorem KeptByParts.hello {s : State} (hs : I s) (hreset : s.resetN = true) (l : Link) (seq : Byte) (p : List Byte) :
    I (s.takeHello l seq p) := by
  rcases s.takeHello_taken l seq p with ht | ⟨lease, hdown, hroom, hlo, hhi, heq⟩
  · exact kept.taken ht hreset hs fun u _ hup hu => ⟨hu, rfl, hup⟩
  · rw [heq]
    exact kept.begins s l seq lease hs hdown hroom hlo hhi

theorem KeptByParts.tickLink {s : State} (hreset : s.resetN = true) (hs : I s) (l : Link) : I (s.tickLink l) := by
  cases hreached : (s.link l).leaseReached with
  | true =>
    rw [s.tickLink_of_reached l hreached]
    exact kept.ends s l .lease hreset hs
  | false =>
    rw [s.tickLink_of_not_reached l hreached]
    exact kept.ticks s l hs hreached

theorem KeptByParts.idleTick {s : State} (hs : I s) : I s.idleTick := by
  unfold State.idleTick
  split
  · rename_i hreset
    have hticked := foldl_keeps (fun t => t.resetN = true ∧ I t) State.tickLink
      (fun t l h => ⟨(t.tickLink_resetN l).trans h.1, kept.tickLink h.1 h.2 l⟩) allLinks ⟨hreset, hs⟩
    exact kept.transmitAll hticked.2
  · exact hs

/-- A law that the parts keep is kept by every command. -/
theorem KeptByParts.exec {s t : State} {c : Instr} (hs : I s) (ht : exec c s = .next t) : I t := by
  cases c with
  | pinReset pins => cases ht; exact kept.pinReset s pins hs
  | resetRelease =>
    cases ht
    split
    · exact hs
    · rename_i hreset
      exact kept.resetRelease s (Bool.eq_false_iff.2 hreset) hs
  | scrubCompletion =>
    cases ht
    split
    · rename_i hreset
      obtain ⟨hreset, hbusy⟩ := Bool.and_eq_true_iff.1 hreset
      split
      · rename_i page rest hscrub
        exact kept.scrubs s page rest hreset hbusy hscrub hs
      · exact hs
    · exact hs
  | checkFailed l =>
    cases ht
    split
    · rename_i hreset
      exact kept.transmits _ l (kept.taken (s.answerOutside_taken l _ _ .checkFailed (fun t => .refuse t .ok) 0 0) hreset hs
        fun u _ hup hu => ⟨hu, rfl, hup⟩)
    · exact hs
  | badCommand l seq code => cases ht; exact kept.command hs fun u _ hup hu => ⟨hu, rfl, hup⟩
  | hello l seq p =>
    cases ht
    split
    · rename_i hreset
      exact kept.transmits _ l (kept.hello hs hreset l seq p)
    · exact hs
  | goodbye l seq =>
    cases ht
    exact kept.command hs fun u _ hup hu => ⟨kept.goodbye u l hu hup, by simp, by simpa using hup⟩
  | ping l seq => cases ht; exact kept.command hs fun u _ hup hu => ⟨hu, rfl, hup⟩
  | setNotify l seq p =>
    cases ht
    refine kept.command hs fun u _ hup hu => body_keeps hup hu ((notifyReply_state l p u).imp_right fun ⟨on, heq⟩ => ?_)
    rw [heq]
    exact ⟨kept.notify u l on hu, by simp, by simpa using hup⟩
  | status l seq => cases ht; exact kept.command hs fun u _ hup hu => ⟨hu, rfl, hup⟩
  | ackEvents l seq p =>
    cases ht
    refine kept.command hs fun u _ hup hu => body_keeps hup hu ((ackReply_state l p u).imp_right fun ⟨n, gone, rest, hsplit, heq⟩ => ?_)
    rw [heq]
    exact ⟨kept.retires u l n gone rest hu hsplit, rfl, hup⟩
  | resendEvents l seq => cases ht; exact kept.command hs fun u _ hup hu => ⟨kept.resends u l hu hup, rfl, hup⟩
  | openWindow l seq p =>
    cases ht
    refine kept.command hs fun u hreset hup hu => body_keeps hup hu
      ((openReply_state l p u).imp_right fun ⟨r, i, hpasses, hslot, heq⟩ => ?_)
    rw [heq]
    exact ⟨kept.opens u l r i hreset hu hup hpasses hslot, rfl, hup⟩
  | closeWindow l seq p =>
    cases ht
    refine kept.commandAll hs fun u hreset hup hu => body_keeps hup hu
      ((closeReply_state l p u).imp_right fun ⟨h, hpasses, heq⟩ => ?_)
    rw [heq]
    have hlinks := (u.enterClosing h.slot .owner).scheduleAll_frame
    refine ⟨kept.closes u l h hreset hu hup hpasses, ?_, ?_⟩
    · simp only [hlinks, (u.enterClosing_sameSession h.slot .owner l).backlog]
    · rw [← State.isUp_iff] at hup ⊢
      simp [hup]
  | moveWindow l seq p => cases ht; exact kept.restyle hs (.inl rfl)
  | setLook l seq p => cases ht; exact kept.restyle hs (.inr (.inl rfl))
  | setTouch l seq p => cases ht; exact kept.restyle hs (.inr (.inr (.inl rfl)))
  | grant l seq p => cases ht; exact kept.restyle hs (.inr (.inr (.inr rfl)))
  | windowInfo l seq p =>
    cases ht
    exact kept.command hs fun u _ hup hu => body_keeps hup hu (.inl (infoReply_state p u))
  | showWindow l seq p =>
    cases ht
    refine kept.command hs fun u _ hup hu => body_keeps hup hu
      ((showReply_state l p u).imp_right fun ⟨h, place, hpasses, hplace, heq⟩ => ?_)
    rw [heq]
    exact ⟨kept.shows u l h place hu hpasses hplace, rfl, hup⟩
  | hide l seq p =>
    cases ht
    refine kept.command hs fun u _ hup hu => body_keeps hup hu ((hideReply_state l p u).imp_right fun ⟨h, hpasses, heq⟩ => ?_)
    rw [heq]
    refine ⟨kept.hides u l h hu hpasses, ?_, ?_⟩
    · unfold State.hidden
      split <;> simp
    · unfold State.hidden
      split <;> simpa using hup
  | submit l seq p =>
    cases ht
    refine kept.commandAll hs fun u _ hup hu => body_keeps hup hu
      ((submitReply_state l p u).imp_right fun ⟨j, hpasses, heq⟩ => ?_)
    rw [heq]
    have hlinks : ((u.admitJob l j).schedule l).link l = u.link l := by
      have hschedule := (u.admitJob l j).schedule_frame l
      simp only [hschedule]
      unfold State.admitJob State.referStamp
      split <;> simp
    exact ⟨kept.submits u l j hu hup hpasses, congrArg LinkCtl.backlog hlinks, (congrArg LinkCtl.state hlinks).trans hup⟩
  | rowEnd =>
    cases ht
    split
    · rename_i hreset
      split
      · rename_i f hf
        exact kept.transmitAll (kept.rowEnds s f hreset hs hf)
      · exact hs
    · exact hs
  | loadStamp l seq p =>
    cases ht
    refine kept.command hs fun u _ hup hu => body_keeps hup hu
      ((loadReply_state l p u).imp_right fun ⟨r, i, hpasses, hslot, heq⟩ => ?_)
    rw [heq]
    exact ⟨kept.loads u l r i hu hup hpasses hslot, rfl, hup⟩
  | reloadStamp l seq p =>
    cases ht
    refine kept.command hs fun u _ hup hu => body_keeps hup hu
      ((reloadReply_state l p u).imp_right fun ⟨h, data, hpasses, heq⟩ => ?_)
    rw [heq]
    exact ⟨kept.reloads u l h data hu hpasses, rfl, hup⟩
  | freeStamp l seq p =>
    cases ht
    refine kept.command hs fun u _ hup hu => body_keeps hup hu ((freeReply_state l p u).imp_right fun ⟨h, hpasses, heq⟩ => ?_)
    rw [heq]
    have hlinks : (u.freeOrRetire l h).state.link l = u.link l := by
      unfold State.freeOrRetire
      split <;> rfl
    exact ⟨kept.frees u l h hu hpasses, congrArg LinkCtl.backlog hlinks, (congrArg LinkCtl.state hlinks).trans hup⟩
  | frameStart =>
    cases ht
    split
    · rename_i hreset
      exact kept.transmitAll (kept.frameStarts s hreset hs)
    · exact hs
  | contactReport bytes =>
    cases ht
    split
    · split
      · exact kept.transmitAll (kept.reports s _ hs)
      · exact hs
    · exact hs
  | leaseExpiry l =>
    cases ht
    split
    · rename_i hreset
      obtain ⟨hreset, -⟩ := Bool.and_eq_true_iff.1 hreset
      exact kept.transmitAll (kept.ends s l .lease hreset hs)
    · exact hs
  | transmitCompletion l =>
    cases ht
    split
    · rename_i hreset
      dsimp only
      split
      · exact kept.transmitAll (kept.ends _ l .goodbye hreset.1 (kept.idles s l hs))
      · exact kept.transmits _ l (kept.idles s l hs)
    · exact hs

/-- A law that the parts keep, and that does not read the queue of commands, is kept by every step. -/
theorem KeptByParts.step (takes : ∀ s cs, I s → I { s with pending := cs }) {s t : State} (hs : I s) (ht : step s = .next t) : I t := by
  unfold Machine.step at ht
  split at ht
  · cases ht
    exact kept.idleTick hs
  · exact kept.exec (takes s _ hs) ht

end

end Sys2Proof.Machine
end

section
/-! The machine as a whole: every command answers a next state, nothing moves in reset, what reset leaves, and the state after
reset meets every law. -/

namespace Sys2Proof.Machine

open Sys2Proof

/-! ### Every command -/

/-- Settles O1: the queue's front decides the step. -/
theorem frontCommandIsExecuted : Obligations.FrontCommandIsExecuted := by
  intro c rest s hpending
  simp only [step, hpending]

/-- No meaning ends in a fault or a refusal. -/
theorem exec_answers_next (c : Instr) (s : State) : ∃ t, exec c s = .next t := by
  cases c <;> exact ⟨_, rfl⟩

theorem State.freeOrRetire_pending (s : State) (l : Link) (h : StampHandle) :
    (s.freeOrRetire l h).state.pending = s.pending := by
  unfold State.freeOrRetire
  split <;> rfl

theorem State.admitJob_pending (s : State) (l : Link) (j : Job) : (s.admitJob l j).pending = s.pending := by
  unfold State.admitJob State.referStamp
  split <;> simp

theorem State.hidden_pending (s : State) (h : Handle) : (s.hidden h).pending = s.pending := by
  unfold State.hidden
  split <;> simp

/-- Every part of every command's meaning leaves the commands that wait. -/
theorem pending_kept (cs : List Instr) : KeptByParts fun s => s.pending = cs where
  answers _ _ _ h _ := h
  renews _ _ h := h
  executes _ _ _ _ _ _ h _ _ := h
  transmits s l h := by simpa using h
  ends s l reason _ h := by simpa using h
  pinReset _ _ h := h
  resetRelease _ _ h := h
  scrubs _ _ _ _ _ _ h := h
  begins _ _ _ _ h _ _ _ _ := h
  goodbye _ _ h _ := h
  notify _ _ _ h := h
  idles _ _ h := h
  ticks _ _ h _ := h
  retires _ _ _ _ _ h _ := h
  resends _ _ h _ := h
  opens s l r i _ h _ _ _ := by simpa [State.openIn] using h
  closes s l h' _ h _ _ := by simpa using h
  restyles _ _ _ _ h _ _ := h
  shows _ _ _ _ h _ _ := h
  hides s _ g h _ := (s.hidden_pending g).trans h
  submits s l j h _ _ := by
    have hframe := (s.admitJob l j).schedule_frame l
    exact hframe.1.trans ((s.admitJob_pending l j).trans h)
  loads _ _ _ _ h _ _ _ := h
  reloads _ _ _ _ h _ := h
  frees s l g h _ := (s.freeOrRetire_pending l g).trans h
  rowEnds s f _ h _ := by simpa using h
  frameStarts s _ h := by simpa using h
  reports s es h := by simpa using h

/-- Settles O2: no arm of `exec` stops (`exec_answers_next`), and every part leaves the queue (`pending_kept`). -/
theorem everyCommandAnswersNext : Obligations.EveryCommandAnswersNext := by
  intro c s
  obtain ⟨t, ht⟩ := exec_answers_next c s
  exact ⟨t, ht, (pending_kept s.pending).exec rfl ht⟩

/-! ### Reset -/

theorem State.command_in_reset {s : State} (h : s.resetN = false) (l : Link) (seq code : Byte) (body : State → Reply) :
    s.command l seq code body = s := by
  simp [State.command, h]

theorem State.commandAll_in_reset {s : State} (h : s.resetN = false) (l : Link) (seq code : Byte) (body : State → Reply) :
    s.commandAll l seq code body = s := by
  simp [State.commandAll, h]

/-- Settles O3: every command but the two of the reset pin tests RESET_N first. -/
theorem nothingMovesInReset : Obligations.NothingMovesInReset := by
  intro c s hreset hpin hrelease
  cases c with
  | pinReset pins => exact absurd rfl (hpin pins)
  | resetRelease => exact absurd rfl hrelease
  | scrubCompletion => simp [exec, execScrubCompletion, hreset]
  | checkFailed l => simp [exec, execCheckFailed, hreset]
  | hello l seq p => simp [exec, execHello, hreset]
  | rowEnd => simp [exec, execRowEnd, hreset]
  | frameStart => simp [exec, execFrameStart, hreset]
  | contactReport bytes => simp [exec, execContactReport, hreset]
  | leaseExpiry l => simp [exec, execLeaseExpiry, hreset]
  | transmitCompletion l => simp [exec, execTransmitCompletion, hreset]
  | closeWindow l seq p => exact congrArg _ (State.commandAll_in_reset hreset l seq _ _)
  | submit l seq p => exact congrArg _ (State.commandAll_in_reset hreset l seq _ _)
  | _ => exact congrArg _ (State.command_in_reset hreset _ _ _ _)

section
variable (pins : Pins)

@[simp] theorem State.heldInReset_window (i : Slot) : (State.heldInReset pins).window i = Window.atReset :=
  Vector.getElem_replicate i.isLt

@[simp] theorem State.heldInReset_stamp (i : StampSlot) : (State.heldInReset pins).stamp i = Stamp.atReset :=
  Vector.getElem_replicate i.isLt

@[simp] theorem State.heldInReset_contact (k : ContactNumber) : (State.heldInReset pins).contact k = Contact.atReset :=
  Vector.getElem_replicate k.isLt

@[simp] theorem State.heldInReset_queue (l : Link) : (State.heldInReset pins).queue l = JobQueue.atReset :=
  PerLink.get_all _ l

@[simp] theorem State.heldInReset_eventsOf (l : Link) : (State.heldInReset pins).eventsOf l = EventQueue.atReset :=
  PerLink.get_all _ l

@[simp] theorem State.heldInReset_link (l : Link) : (State.heldInReset pins).link l = LinkCtl.atReset :=
  PerLink.get_all _ l

theorem Stamp.atReset_contents : ∀ b ∈ Stamp.atReset.contents, b = 0 := fun _ hb => (List.mem_replicate.1 hb).2

end

/-- The scrub unit is started exactly where the scrub queue holds a page. -/
theorem Pool.startScrub_eq (p : Pool) : p.startScrub = { p with busy := decide (p.scrub ≠ []) } := by
  unfold Pool.startScrub
  cases p.scrub <;> rfl

/-- Settles O5: PIN_RESET leaves the values of `State.heldInReset`, RESET_RELEASE starts the scrub unit. -/
theorem pinResetAndRelease : Obligations.PinResetAndRelease := by
  refine ⟨fun pins s => ⟨s.afterPinReset pins, rfl, rfl, rfl, fun i => ?window, rfl, rfl, rfl, rfl, fun l => ?queue, rfl, rfl,
    fun i => ?stamp, fun l => ?owned, fun k => ?contact, fun l => ?events, fun l => ?link⟩, fun s hreset => ?release⟩
  case window =>
    have h : (s.afterPinReset pins).window i = Window.atReset := State.heldInReset_window pins i
    rw [h]
    exact ⟨rfl, rfl, rfl, rfl, rfl, rfl, rfl, rfl⟩
  case queue => exact State.heldInReset_queue pins l
  case stamp =>
    have h : (s.afterPinReset pins).stamp i = Stamp.atReset := State.heldInReset_stamp pins i
    rw [h]
    exact ⟨rfl, rfl, rfl, rfl, Stamp.atReset_contents⟩
  case owned => exact PerLink.get_all 0 l
  case contact => exact State.heldInReset_contact pins k
  case events => exact State.heldInReset_eventsOf pins l
  case link => exact State.heldInReset_link pins l
  case release =>
    simp only [exec, execResetRelease, hreset, Pool.startScrub_eq]
    rfl

/-! ### The laws while RESET_N is low, and after reset -/

/-- The parts of the state that PIN_RESET and reset leave alike: every law but those of memory and pages reads these alone. -/
structure State.AtReset (s : State) : Prop where
  windows : ∀ i, s.window i = Window.atReset
  stamps : ∀ i, s.stamp i = Stamp.atReset
  contacts : ∀ k, s.contact k = Contact.atReset
  queues : ∀ l, s.queue l = JobQueue.atReset
  events : ∀ l, s.eventsOf l = EventQueue.atReset
  links : ∀ l, s.link l = LinkCtl.atReset
  owned : ∀ l, s.ownedStamps.get l = 0
  stack : s.stack = []
  engine : s.engine = none
  free : s.pool.free = []
  scrub : s.pool.scrub = List.range 4096
  busy : s.pool.busy = s.resetN
  held : ∀ l, s.pool.held.get l = 0

theorem State.atReset_afterPinReset (s : State) (pins : Pins) : (s.afterPinReset pins).AtReset where
  windows := State.heldInReset_window pins
  stamps := State.heldInReset_stamp pins
  contacts := State.heldInReset_contact pins
  queues := State.heldInReset_queue pins
  events := State.heldInReset_eventsOf pins
  links := State.heldInReset_link pins
  owned := PerLink.get_all 0
  stack := rfl
  engine := rfl
  free := rfl
  scrub := by simp only [State.afterPinReset, State.heldInReset, Pool.atReset]
  busy := rfl
  held := PerLink.get_all 0

theorem State.atReset_reset : State.reset.AtReset where
  windows := State.heldInReset_window Pins.low
  stamps := State.heldInReset_stamp Pins.low
  contacts := State.heldInReset_contact Pins.low
  queues := State.heldInReset_queue Pins.low
  events := State.heldInReset_eventsOf Pins.low
  links := State.heldInReset_link Pins.low
  owned := PerLink.get_all 0
  stack := rfl
  engine := rfl
  free := rfl
  scrub := by simp only [State.reset, State.heldInReset, Pool.atReset]
  busy := rfl
  held := PerLink.get_all 0

section
variable {s : State} (h : s.AtReset)
include h

theorem State.AtReset.liveOwned : LiveOwned s := fun i hi => by simp [h.windows i, Window.atReset, Window.live] at hi

theorem State.AtReset.stackLaw : StackLaw s where
  once := by simp [h.stack]
  holdsShown i := by simp [h.stack, h.windows i, Window.atReset]
  tiersRise := by simp [h.stack]

theorem State.AtReset.eventLaw : EventLaw s := fun l => by
  rw [h.events l]
  exact EventQueue.sound_empty 0

theorem State.AtReset.linkLaw : LinkLaw s := fun l => by
  rw [h.links l]
  constructor <;> simp [LinkCtl.atReset]

theorem State.AtReset.touchLaw : TouchLaw s where
  liveOwned := h.liveOwned
  captured k g hk := by simp [h.contacts k, Contact.atReset] at hk

theorem State.AtReset.jobLaw : JobLaw s where
  entriesBounded l := by simp [h.queues l, JobQueue.atReset]
  stagingBounded l := by simp [h.queues l, JobQueue.atReset]
  emptyHead l := by simp [h.queues l, JobQueue.atReset]
  flightHead l := by simp [h.queues l, h.engine, JobQueue.atReset]
  flightJob f hf := by simp [h.engine] at hf
  eligibleJob l hl := by simp [h.queues l, JobQueue.atReset] at hl
  engineBusy _ l := by simp [h.queues l, JobQueue.atReset]

theorem State.AtReset.stampLaw : StampLaw s where
  counted i := by simp [h.stamps i, State.naming, h.queues, JobQueue.atReset, Stamp.atReset]
  named l j hj := by simp [h.queues l, JobQueue.atReset] at hj
  freeStamps i _ := by
    rw [h.stamps i]
    exact ⟨rfl, rfl, Stamp.atReset_contents⟩
  unowned i _ := by simp [h.stamps i, Stamp.atReset]
  retiringUsed i hi := by simp [h.stamps i, Stamp.atReset] at hi
  owned l := by simp [h.owned l, State.stampsOwned, h.stamps, Stamp.atReset]
  even _ l := by simp [h.owned l]

theorem State.AtReset.sessionLaw : SessionLaw s where
  liveOwned := h.liveOwned
  freeOwnerless i := by simp [h.windows i, Window.atReset]
  closingInUp i l hi := by simp [h.windows i, Window.atReset] at hi
  closingInTeardown i l hi := by simp [h.windows i, Window.atReset] at hi
  eventsInUp l _ := by simp [h.events l, EventQueue.atReset]
  stampsInUp l _ i := by simp [h.stamps i, Stamp.atReset]
  jobsInUp l _ hl := by simp [h.queues l, JobQueue.atReset] at hl
  awaited l hl := by simp [h.links l, LinkCtl.atReset] at hl
  nothingInDown l _ := ⟨fun i => by simp [h.windows i, Window.atReset], by simp [h.queues l, JobQueue.atReset]⟩

theorem State.AtReset.transmitterLaw : TransmitterLaw s := fun l _ => by
  simp [h.links l, h.events l, LinkCtl.atReset, EventQueue.atReset]

theorem State.AtReset.heldPages : s.heldPages = [] := by
  simp [State.heldPages, Window.heldPages, h.windows, Window.atReset]

theorem State.AtReset.pageLaw : PageLaw s where
  partition := by rw [h.free, h.scrub, h.heldPages, List.nil_append, List.append_nil]
  ascending := by simp [h.free]
  scrubbing := by simp [h.busy, h.scrub]
  freeWindows i _ := by simp [h.windows i, Window.atReset]
  usedWindows i hi := by simp [h.windows i, Window.atReset] at hi
  counted l := by simp [h.held l, State.pagesOwned, h.windows, Window.atReset]
  even _ l := by simp [h.held l]
  zeroed p hp := by simp [h.free] at hp
  drawnInTarget f g hf := by simp [h.engine] at hf

end

/-- Settles O50: `State.AtReset` gives every law but that of memory, which nothing has written. -/
theorem resetMeetsTheLaws : Obligations.ResetMeetsTheLaws := by
  have h := State.atReset_reset
  refine ⟨?release, Memory.wf_reset, h.stackLaw, h.eventLaw, h.linkLaw, h.touchLaw, h.pageLaw, h.jobLaw, h.stampLaw,
    h.sessionLaw, h.transmitterLaw⟩
  case release =>
    have hstarted : Pool.atReset.startScrub = { Pool.atReset with busy := true } := by
      simp [Pool.startScrub_eq, Pool.atReset]
    simp only [exec, execResetRelease, State.reset, State.heldInReset, hstarted]
    rfl

end Sys2Proof.Machine
end

section
/-! Surface memory and the live stack: every step keeps their laws (O51, O52). -/

namespace Sys2Proof.Machine

open Sys2Proof

/-! ### Surface memory -/

/-- Working a row keeps the canonical form. -/
theorem State.drawRow_wf {s : State} (h : Memory.wf s.mem) (f : InFlight) : Memory.wf (s.drawRow f).mem :=
  drawPixels_wf _ _ _ _ _ _ h

/-- A row end leaves in surface memory what working the row leaves. -/
theorem State.endRow_mem (s : State) (f : InFlight) : (s.endRow f).mem = (s.drawRow f).mem := by
  unfold State.endRow
  dsimp only
  generalize s.drawRow f = d
  (repeat' split) <;> simp

theorem State.hidden_mem (s : State) (h : Handle) : (s.hidden h).mem = s.mem := by
  unfold State.hidden
  split <;> simp

theorem State.admitJob_mem (s : State) (l : Link) (j : Job) : (s.admitJob l j).mem = s.mem := by
  unfold State.admitJob State.referStamp
  split <;> simp

theorem State.freeOrRetire_mem (s : State) (l : Link) (h : StampHandle) : (s.freeOrRetire l h).state.mem = s.mem := by
  unfold State.freeOrRetire
  split <;> rfl

/-- The law of surface memory reads surface memory alone. -/
theorem memoryLaw_of_mem {s t : State} (hmem : t.mem = s.mem) (h : MemoryLaw s) : MemoryLaw t := by
  rw [MemoryLaw, hmem]
  exact h

/-- Only a row and a scrub write surface memory, and both keep its canonical form. -/
theorem memoryLaw_kept : KeptByParts MemoryLaw where
  answers _ _ _ h _ := h
  renews _ _ h := h
  executes _ _ _ _ _ _ h _ _ := h
  transmits s l h := memoryLaw_of_mem (by simp) h
  ends s l reason _ h := memoryLaw_of_mem (by simp) h
  pinReset _ _ h := h
  resetRelease _ _ h := h
  scrubs s page _ _ _ _ h := Memory.wf_clearPage s.mem page h
  begins _ _ _ _ h _ _ _ _ := h
  goodbye _ _ h _ := h
  notify _ _ _ h := h
  idles _ _ h := h
  ticks _ _ h _ := h
  retires _ _ _ _ _ h _ := h
  resends _ _ h _ := h
  opens s l r i _ h _ _ _ := h
  closes s l g _ h _ _ := memoryLaw_of_mem (by simp) h
  restyles _ _ _ _ h _ _ := h
  shows _ _ _ _ h _ _ := h
  hides s _ g h _ := memoryLaw_of_mem (s.hidden_mem g) h
  submits s l j h _ _ := memoryLaw_of_mem (by rw [← s.admitJob_mem l j]; simp) h
  loads _ _ _ _ h _ _ _ := h
  reloads _ _ _ _ h _ := h
  frees s l g h _ := memoryLaw_of_mem (s.freeOrRetire_mem l g) h
  rowEnds s f _ h _ := by
    rw [MemoryLaw, State.endRow_mem]
    exact State.drawRow_wf h f
  frameStarts s _ h := memoryLaw_of_mem (by simp) h
  reports s es h := memoryLaw_of_mem (by simp) h

/-- Settles O51: `memoryLaw_kept`. -/
theorem memoryLawKept : Obligations.MemoryLawKept := fun _ _ hs ht => memoryLaw_kept.step (fun _ _ h => h) hs ht

end Sys2Proof.Machine
end

section
/-! What the examination of heads, the arbiter, row ends and frame starts make of the window records. -/

namespace Sys2Proof.Machine

open Sys2Proof

/-! ### Window records -/

/-- The records differ at most in flip pending, front index and on-glass mark. -/
def Window.Refreshed (w v : Window) : Prop :=
  { v with flipPending := w.flipPending, front := w.front, onGlass := w.onGlass } = w

/-- What becomes of a window record that no command names: it is refreshed, or it was CLOSING and is FREE. -/
def Window.Ages (w v : Window) : Prop := w.Refreshed v ∨ (w.state = .closing ∧ v.state = .free)

section
variable {w v u : Window}

theorem Window.Refreshed.refl (w : Window) : w.Refreshed w := rfl

theorem Window.Refreshed.state (h : w.Refreshed v) : v.state = w.state := (congrArg Window.state h :)

theorem Window.Refreshed.tier (h : w.Refreshed v) : v.tier = w.tier := (congrArg Window.tier h :)

theorem Window.Refreshed.gen (h : w.Refreshed v) : v.gen = w.gen := (congrArg Window.gen h :)

theorem Window.Refreshed.owner (h : w.Refreshed v) : v.owner = w.owner := (congrArg Window.owner h :)

theorem Window.Refreshed.trans (h : w.Refreshed v) (h' : v.Refreshed u) : w.Refreshed u := by
  unfold Window.Refreshed at *
  rw [← h, ← h']

theorem Window.Ages.refl (w : Window) : w.Ages w := .inl rfl

theorem Window.Ages.trans (h : w.Ages v) (h' : v.Ages u) : w.Ages u := by
  rcases h with h | ⟨hw, hv⟩ <;> rcases h' with h' | ⟨hv', hu⟩
  · exact .inl (h.trans h')
  · exact .inr ⟨h.state.symm.trans hv', hu⟩
  · exact .inr ⟨hw, h'.state.trans hv⟩
  · exact absurd (hv.symm.trans hv') nofun

/-- A window that is not CLOSING is refreshed only. -/
theorem Window.Ages.refreshed (h : w.Ages v) (hw : w.state ≠ .closing) : w.Refreshed v :=
  h.resolve_right fun hc => hw hc.1

/-- No window becomes or ceases to be SHOWN, HIDDEN or live by ageing. -/
theorem Window.Ages.shown_iff (h : w.Ages v) : v.state = .shown ↔ w.state = .shown := by
  rcases h with h | ⟨hw, hv⟩
  · rw [h.state]
  · simp [hw, hv]

theorem Window.Ages.live_eq (h : w.Ages v) : v.live = w.live := by
  rcases h with h | ⟨hw, hv⟩
  · simp only [Window.live, h.state]
  · simp [Window.live, hw, hv]

theorem Window.live_iff : w.live = true ↔ w.state = .hidden ∨ w.state = .shown := by
  simp [Window.live]

theorem Window.not_closing_of_live (h : w.live = true) : w.state ≠ .closing := by
  rcases Window.live_iff.1 h with h | h <;> simp [h]

end

/-- Every window record ages. -/
def State.WindowsAge (s t : State) : Prop := ∀ i, (s.window i).Ages (t.window i)

section
variable {s t u : State}

theorem State.WindowsAge.refl (s : State) : s.WindowsAge s := fun _ => .refl _

theorem State.WindowsAge.trans (h : s.WindowsAge t) (h' : t.WindowsAge u) : s.WindowsAge u := fun i => (h i).trans (h' i)

theorem State.WindowsAge.of_eq (h : t.windows = s.windows) : s.WindowsAge t := fun i => by
  rw [State.window, State.window, h]
  exact .refl _

/-- A fold whose steps age the windows ages them. -/
theorem State.WindowsAge.foldl {α : Type} {f : State → α → State} (h : ∀ (t : State) x, t.WindowsAge (f t x)) (xs : List α)
    (s : State) : s.WindowsAge (xs.foldl f s) :=
  foldl_keeps (fun t => s.WindowsAge t) f (fun t x ht => ht.trans (h t x)) xs (.refl s)

theorem State.windowsAge_setWindow {i : Slot} {w : Window} (h : (s.window i).Ages w) : s.WindowsAge (s.setWindow i w) := by
  intro j
  rw [State.window_setWindow]
  split
  · rename_i hj
    subst hj
    exact h
  · exact .refl _

end

theorem State.releaseTest_ages (s : State) (i : Slot) : s.WindowsAge (s.releaseTest i) := by
  rw [State.releaseTest_eq]
  split
  · rename_i hclosing
    intro j
    rw [State.release_window]
    split
    · rename_i hj
      subst hj
      exact .inr ⟨hclosing.1, rfl⟩
    · exact .refl _
  · exact .refl s

/-! ### Jobs -/

theorem State.takePresent_ages (s : State) (l : Link) (j : Job) (h : Handle) : s.WindowsAge (s.takePresent l j h) := by
  unfold State.takePresent
  split
  · exact .trans (.of_eq (by simp)) (State.windowsAge_setWindow (.inl rfl))
  · exact .of_eq (by simp)

theorem State.examine_ages (s : State) (l : Link) (js : List Job) : s.WindowsAge (s.examine l js) := by
  induction js generalizing s with
  | nil => exact .of_eq rfl
  | cons j js ih =>
    unfold State.examine
    split
    · exact .of_eq rfl
    · split
      · exact .trans (.of_eq (by simp)) (ih _)
      · exact .trans (s.takePresent_ages l j _) (ih _)
      · exact .of_eq rfl

theorem State.examineHead_ages (s : State) (l : Link) : s.WindowsAge (s.examineHead l) := by
  unfold State.examineHead
  split
  · exact .refl s
  · exact .refl s
  · exact s.examine_ages l _
  · exact s.examine_ages l _

theorem State.grants_ages (n : Nat) (s : State) : s.WindowsAge (State.grants n s) := by
  induction n generalizing s with
  | zero => exact .refl s
  | succ n ih =>
    unfold State.grants
    split
    · split
      · exact .refl s
      · dsimp only
        split
        · exact .trans (.of_eq (by simp)) (.trans (State.examineHead_ages _ _) (ih _))
        · exact .of_eq rfl
    · exact .refl s

theorem State.arbitrate_ages (s : State) : s.WindowsAge s.arbitrate := s.grants_ages _

theorem State.schedule_ages (s : State) (l : Link) : s.WindowsAge (s.schedule l) :=
  (s.examineHead_ages l).trans (State.arbitrate_ages _)

theorem State.scheduleAll_ages (s : State) : s.WindowsAge s.scheduleAll :=
  (State.WindowsAge.foldl State.examineHead_ages allLinks s).trans (State.arbitrate_ages _)

theorem State.completeInFlight_ages (s : State) (f : InFlight) (e : Ending) : s.WindowsAge (s.completeInFlight f e) := by
  unfold State.completeInFlight
  dsimp only
  have htested : s.WindowsAge (f.slots.foldl State.releaseTest ((s.completeHead f.link f.job e f.result).setEngine none)) :=
    .trans (.of_eq (by simp)) (State.WindowsAge.foldl State.releaseTest_ages _ _)
  split
  · exact htested.trans (.of_eq (by simp))
  · exact htested

theorem State.endRow_ages (s : State) (f : InFlight) : s.WindowsAge (s.endRow f) := by
  unfold State.endRow
  dsimp only
  have hdrawn : s.WindowsAge (s.drawRow f) := .of_eq rfl
  refine hdrawn.trans ?_
  generalize s.drawRow f = d
  (repeat' split)
  · exact (d.completeInFlight_ages _ _).trans (State.schedule_ages _ _)
  · exact (d.completeInFlight_ages _ _).trans (State.schedule_ages _ _)
  · exact .of_eq rfl

/-! ### Frames -/

theorem State.takeFlip_ages (s : State) (i : Slot) : s.WindowsAge (s.takeFlip i) := by
  unfold State.takeFlip
  split
  · rename_i f hf
    exact (State.windowsAge_setWindow (w := (s.window i).flipped) (.inl rfl)).trans
      (.of_eq (State.handPresented_frame _ _ _).2.2.2.2.2.1)
  · exact .refl s

theorem State.markGlass_window (s : State) (i : Slot) :
    s.markGlass.window i = { s.window i with onGlass := s.inRecord i } := by
  simp [State.markGlass, State.window]

theorem State.updateMarks_ages (s : State) : s.WindowsAge s.updateMarks := by
  have hmarked : s.WindowsAge s.markGlass := fun i => by
    rw [s.markGlass_window i]
    exact .inl rfl
  exact hmarked.trans (State.WindowsAge.foldl State.releaseTest_ages _ _)

theorem State.frameParts_ages (s : State) : s.WindowsAge s.frameParts := by
  unfold State.frameParts
  dsimp only
  have hflipped := State.WindowsAge.foldl State.takeFlip_ages (List.finRange 32) (s.setScanout s.scanout.counted)
  generalize (List.finRange 32).foldl State.takeFlip (s.setScanout s.scanout.counted) = d at hflipped ⊢
  have hmarks := d.latch.updateMarks_ages
  exact .trans (.trans hflipped hmarks) (.of_eq (by simp))

theorem State.startFrame_ages (s : State) : s.WindowsAge s.startFrame :=
  s.frameParts_ages.trans (State.scheduleAll_ages _)

end Sys2Proof.Machine
end

section
/-! The live stack: every step keeps its law (O52). -/

namespace Sys2Proof.Machine

open Sys2Proof

/-! ### Changes that the law does not see, or sees as a window leaving the stack -/

/-- The law reads the stack, and of the windows which are SHOWN and the tiers of those. -/
theorem StackLaw.congr {s t : State} (h : StackLaw s) (hstack : t.stack = s.stack)
    (hshown : ∀ i, (t.window i).state = .shown ↔ (s.window i).state = .shown)
    (htier : ∀ i, (s.window i).state = .shown → (t.window i).tier = (s.window i).tier) : StackLaw t where
  once := by rw [hstack]; exact h.once
  holdsShown i := by rw [hstack, hshown, h.holdsShown]
  tiersRise := by
    rw [hstack]
    refine h.tiersRise.imp_of_mem fun {i j} hi hj hij => ?_
    rwa [htier i ((h.holdsShown i).1 hi), htier j ((h.holdsShown j).1 hj)]

theorem StackLaw.of_ages {s t : State} (h : StackLaw s) (hstack : t.stack = s.stack) (hages : s.WindowsAge t) :
    StackLaw t :=
  h.congr hstack (fun i => (hages i).shown_iff) fun i hi =>
    ((hages i).refreshed (by simp [hi])).tier

theorem StackLaw.of_windows {s t : State} (h : StackLaw s) (hstack : t.stack = s.stack) (hwindows : t.windows = s.windows) :
    StackLaw t :=
  h.of_ages hstack (.of_eq hwindows)

/-- A window record replaced by one that is SHOWN or not as before, in the same tier. -/
theorem StackLaw.setWindow {s : State} (h : StackLaw s) {i : Slot} {w : Window}
    (hshown : w.state = .shown ↔ (s.window i).state = .shown)
    (htier : (s.window i).state = .shown → w.tier = (s.window i).tier) : StackLaw (s.setWindow i w) := by
  refine h.congr rfl (fun j => ?_) (fun j hj => ?_)
  · rw [State.window_setWindow]
    split
    · rename_i hj
      rw [hj, hshown]
    · rfl
  · rw [State.window_setWindow]
    split
    · rename_i hji
      subst hji
      exact htier hj
    · rfl

/-- A window that leaves the stack and is no longer SHOWN. -/
theorem StackLaw.leaves {s t : State} (h : StackLaw s) (i : Slot)
    (hstack : t.stack = s.stack.filter fun j => decide (j ≠ i)) (hi : (t.window i).state ≠ .shown)
    (hothers : ∀ j, j ≠ i → t.window j = s.window j) : StackLaw t where
  once := by rw [hstack]; exact h.once.filter _
  holdsShown j := by
    rw [hstack]
    by_cases hj : j = i
    · subst hj
      simp [hi]
    · simp [hj, h.holdsShown, hothers j hj]
  tiersRise := by
    rw [hstack]
    refine (h.tiersRise.filter _).imp_of_mem fun {a b} ha hb hab => ?_
    have hai : a ≠ i := by simpa using (List.mem_filter.1 ha).2
    have hbi : b ≠ i := by simpa using (List.mem_filter.1 hb).2
    rwa [hothers a hai, hothers b hbi]

/-! ### Closing -/

/-- A closed window's record is CLOSING, or FREE where it has been released. -/
theorem State.enterClosing_window_state (s : State) (i : Slot) (reason : CloseReason) :
    ((s.enterClosing i reason).window i).state = .closing ∨ ((s.enterClosing i reason).window i).state = .free := by
  unfold State.enterClosing
  dsimp only
  rw [State.releaseTest_eq]
  split
  · right
    rw [State.release_window, if_pos rfl]
    rfl
  · left
    simp [Window.closed]

theorem StackLaw.enterClosing {s : State} (h : StackLaw s) (i : Slot) (reason : CloseReason) :
    StackLaw (s.enterClosing i reason) := by
  refine h.leaves i (s.enterClosing_stack i reason) ?_ fun j hj => s.enterClosing_window_ne reason hj
  rcases s.enterClosing_window_state i reason with hi | hi <;> simp [hi]

theorem StackLaw.teardownWindow (l : Link) {s : State} (h : StackLaw s) (i : Slot) :
    StackLaw (State.teardownWindow l s i) := by
  unfold State.teardownWindow
  dsimp only
  (repeat' split)
  · exact h.enterClosing i _
  · exact h.setWindow Iff.rfl fun _ => rfl
  · exact h
  · exact h

theorem State.window_withoutGrants (s : State) (l : Link) (i : Slot) :
    ({ s with windows := s.windows.map fun w => w.withoutGrant l } : State).window i = (s.window i).withoutGrant l := by
  simp [State.window]

theorem Window.withoutGrant_eq (w : Window) (l : Link) :
    w.withoutGrant l = { w with grants := if w.owner = some l then w.grants else w.grants.set l false } := by
  unfold Window.withoutGrant
  split <;> rfl

theorem StackLaw.teardownWindows {s : State} (h : StackLaw s) (l : Link) : StackLaw (s.teardownWindows l) := by
  unfold State.teardownWindows
  refine foldl_keeps StackLaw (State.teardownWindow l) (fun t i ht => ht.teardownWindow l i) _ ?_
  refine h.congr rfl (fun i => ?_) (fun i _ => ?_)
  · rw [State.window_withoutGrants, Window.withoutGrant_eq]
  · rw [State.window_withoutGrants, Window.withoutGrant_eq]

theorem StackLaw.startTeardown {s : State} (h : StackLaw s) (l : Link) (reason : EndReason) :
    StackLaw (s.startTeardown l reason) := by
  unfold State.startTeardown
  dsimp only
  generalize (s.link l).torn reason (s.ownedWindows l) (s.ownsEngine l) = torn
  have hdropped : StackLaw ((((s.setLink l torn).dropEvents l).dropJobs l).orphanStamps l) :=
    h.of_windows (by simp) (by simp)
  generalize (((s.setLink l torn).dropEvents l).dropJobs l).orphanStamps l = dropped at hdropped ⊢
  exact (hdropped.teardownWindows l).of_windows (by simp) (by simp)

/-! ### Showing and hiding -/

theorem State.changeRefusal_eq_none {s : State} {l : Link} {h : Handle} (hpasses : s.changeRefusal l h = none) :
    s.mayChange l h := by
  rw [State.changeRefusal_eq] at hpasses
  split_ifs at hpasses with hstale hclosing howner
  obtain ⟨hfree, hgen⟩ := not_or.1 hstale
  exact ⟨hfree, not_not.1 hgen, hclosing, not_not.1 howner⟩

/-- A reference that passes tests 5 to 8 of R42 is another SHOWN window of the same tier. -/
theorem State.referenceRefusal_eq_none {s : State} {h ref : Handle} (hpasses : s.referenceRefusal h ref = none) :
    ref.slot ≠ h.slot ∧ (s.window ref.slot).state = .shown ∧ (s.window ref.slot).tier = (s.window h.slot).tier := by
  unfold State.referenceRefusal at hpasses
  split_ifs at hpasses with hstale hself hshown htier
  exact ⟨hself, not_not.1 hshown, not_not.1 htier⟩

/-- A list cut where an element of a rank fits: all below it have at most the rank, all above at least. -/
theorem pairwise_insert {rank : Slot → Nat} {lower upper : List Slot} {x : Slot} {n : Nat}
    (hsorted : (lower ++ upper).Pairwise fun i j => rank i ≤ rank j) (hx : rank x = n)
    (hlower : ∀ y, lower.getLast? = some y → rank y ≤ n) (hupper : ∀ y, upper.head? = some y → n ≤ rank y) :
    (lower ++ x :: upper).Pairwise fun i j => rank i ≤ rank j := by
  obtain ⟨hl, hu, hlu⟩ := List.pairwise_append.1 hsorted
  have hbelow : ∀ y ∈ lower, rank y ≤ n := by
    intro y hy
    obtain ⟨init, z, rfl⟩ : ∃ init z, lower = init ++ [z] :=
      (List.eq_nil_or_concat' lower).resolve_left (List.ne_nil_of_mem hy)
    have hz : rank z ≤ n := hlower z (by simp)
    rcases List.mem_append.1 hy with hy | hy
    · exact Nat.le_trans ((List.pairwise_append.1 hl).2.2 y hy z (by simp)) hz
    · rw [List.mem_singleton.1 hy]
      exact hz
  have habove : ∀ y ∈ upper, n ≤ rank y := by
    intro y hy
    cases upper with
    | nil => cases hy
    | cons z zs =>
      have hz : n ≤ rank z := hupper z rfl
      rcases List.mem_cons.1 hy with rfl | hy
      · exact hz
      · exact Nat.le_trans hz ((List.pairwise_cons.1 hu).1 y hy)
  subst hx
  refine List.pairwise_append.2 ⟨hl, List.pairwise_cons.2 ⟨habove, hu⟩, fun a ha b hb => ?_⟩
  rcases List.mem_cons.1 hb with rfl | hb
  · exact hbelow a ha
  · exact hlu a ha b hb

/-- The window is placed where the ranks of its tier allow (R41): the rest of the stack is cut, and the window stands between. -/
theorem State.placed_eq {s : State} (h : StackLaw s) {g : Handle} {place : Placement}
    (hplace : s.placementRefusal g place = none) :
    ∃ lower upper, s.stack.filter (fun j => decide (j ≠ g.slot)) = lower ++ upper ∧
      s.placed g.slot place.placed = lower ++ g.slot :: upper ∧
      (∀ y, lower.getLast? = some y → (s.window y).tier ≤ (s.window g.slot).tier) ∧
      (∀ y, upper.head? = some y → (s.window g.slot).tier ≤ (s.window y).tier) := by
  generalize hrest : s.stack.filter (fun j => decide (j ≠ g.slot)) = rest
  have hsorted : rest.Pairwise fun i j => (s.window i).tier ≤ (s.window j).tier := hrest ▸ h.tiersRise.filter _
  have hmem : ∀ ref : Handle, s.referenceRefusal g ref = none →
      ref.slot ∈ rest ∧ (s.window ref.slot).tier = (s.window g.slot).tier := by
    intro ref href
    obtain ⟨hself, hshown, htier⟩ := State.referenceRefusal_eq_none href
    exact ⟨hrest ▸ List.mem_filter.2 ⟨(h.holdsShown _).2 hshown, by simpa using hself⟩, htier⟩
  cases place with
  | topOfTier =>
    obtain ⟨lower, upper, hcut, hins, hup, hlow⟩ :=
      insertAbove_eq g.slot (fun j => decide ((s.window j).tier ≤ (s.window g.slot).tier)) rest
    refine ⟨lower, upper, hcut, by simp only [State.placed, Placement.placed, hrest, hins], fun y hy => ?_, fun y hy => ?_⟩
    · simpa using hlow y hy
    · have := hup y (List.mem_of_head? hy)
      simp at this
      omega
  | bottomOfTier =>
    obtain ⟨lower, upper, hcut, hins, hup, hlow⟩ :=
      insertAbove_eq g.slot (fun j => decide ((s.window j).tier < (s.window g.slot).tier)) rest
    refine ⟨lower, upper, hcut, by simp only [State.placed, Placement.placed, hrest, hins], fun y hy => ?_, fun y hy => ?_⟩
    · have := hlow y hy
      simp at this
      omega
    · have := hup y (List.mem_of_head? hy)
      simpa using this
  | above ref =>
    obtain ⟨hin, htier⟩ := hmem ref hplace
    obtain ⟨lower, upper, hcut, hins, hup, hlow⟩ := insertAbove_eq g.slot (fun j => decide (j = ref.slot)) rest
    refine ⟨lower, upper, hcut, by simp only [State.placed, Placement.placed, hrest, hins], fun y hy => ?_, fun y hy => ?_⟩
    · have : y = ref.slot := by simpa using hlow y hy
      rw [this, htier]
    · have hlower : ref.slot ∈ lower := by
        rcases List.mem_append.1 (hcut ▸ hin) with hl | hu
        · exact hl
        · simpa using hup _ hu
      rw [hcut] at hsorted
      rw [← htier]
      exact (List.pairwise_append.1 hsorted).2.2 _ hlower _ (List.mem_of_head? hy)
  | below ref =>
    obtain ⟨hin, htier⟩ := hmem ref hplace
    obtain ⟨lower, upper, hcut, hins, -, hhead⟩ := insertBelow_eq g.slot ref.slot rest
    have hfirst := hhead hin
    refine ⟨lower, upper, hcut, by simp only [State.placed, Placement.placed, hrest, hins], fun y hy => ?_, fun y hy => ?_⟩
    · rw [hcut] at hsorted
      rw [← htier]
      exact (List.pairwise_append.1 hsorted).2.2 _ (List.mem_of_getLast? hy) _ (List.mem_of_head? hfirst)
    · rw [hfirst] at hy
      cases hy
      rw [htier]

theorem StackLaw.shownAt {s : State} (h : StackLaw s) {g : Handle} {place : Placement}
    (hplace : s.placementRefusal g place = none) : StackLaw (s.shownAt g place) := by
  obtain ⟨lower, upper, hcut, hins, hlow, hup⟩ := State.placed_eq h hplace
  have hmem : ∀ j, j ∈ lower ++ upper ↔ j ∈ s.stack ∧ j ≠ g.slot := fun j => by rw [← hcut]; simp
  have hstack : (s.shownAt g place).stack = lower ++ g.slot :: upper := hins
  have htier : ∀ j, ((s.shownAt g place).window j).tier = (s.window j).tier := fun j => by
    rw [State.shownAt, State.window_setWindow]
    split
    · rename_i hj
      rw [hj]
    · rfl
  refine ⟨?_, fun j => ?_, ?_⟩
  · rw [hstack, List.nodup_middle, List.nodup_cons]
    exact ⟨fun hin => ((hmem _).1 hin).2 rfl, hcut ▸ h.once.filter _⟩
  · rw [hstack, List.perm_middle.mem_iff, List.mem_cons, hmem, State.shownAt, State.window_setWindow]
    split
    · rename_i hj
      simp [hj]
    · rename_i hj
      simp [hj, h.holdsShown]
  · rw [hstack]
    simp only [htier]
    exact pairwise_insert (hcut ▸ h.tiersRise.filter _) rfl hlow hup

theorem StackLaw.hidden {s : State} (h : StackLaw s) (g : Handle) : StackLaw (s.hidden g) := by
  unfold State.hidden
  split
  · refine h.leaves g.slot (by simp) (by simp) fun j hj => by simp [hj]
  · exact h

/-! ### Every step -/

theorem State.freeSlot_eq_some {s : State} {i : Slot} (h : s.freeSlot = some i) : (s.window i).state = .free := by
  simpa using List.find?_some h

theorem State.freeOrRetire_windows (s : State) (l : Link) (h : StampHandle) :
    (s.freeOrRetire l h).state.windows = s.windows := by
  unfold State.freeOrRetire
  split <;> rfl

theorem State.freeOrRetire_stack (s : State) (l : Link) (h : StampHandle) :
    (s.freeOrRetire l h).state.stack = s.stack := by
  unfold State.freeOrRetire
  split <;> rfl

theorem State.admitJob_windows (s : State) (l : Link) (j : Job) : (s.admitJob l j).windows = s.windows := by
  unfold State.admitJob State.referStamp
  split <;> simp

theorem State.admitJob_stack (s : State) (l : Link) (j : Job) : (s.admitJob l j).stack = s.stack := by
  unfold State.admitJob State.referStamp
  split <;> simp

theorem stackLaw_kept : KeptByParts StackLaw where
  answers _ _ _ h _ := h.of_windows rfl rfl
  renews _ _ h := h.of_windows rfl rfl
  executes _ _ _ _ _ _ h _ _ := h.of_windows rfl rfl
  transmits s l h := h.of_windows (by simp) (by simp)
  ends s l reason _ h :=
    (h.startTeardown l reason).of_ages (by unfold State.endSession; simp) (State.scheduleAll_ages _)
  pinReset s pins _ := (s.atReset_afterPinReset pins).stackLaw
  resetRelease _ _ h := h.of_windows rfl rfl
  scrubs _ _ _ _ _ _ h := h.of_windows rfl rfl
  begins _ _ _ _ h _ _ _ _ := h.of_windows rfl rfl
  goodbye _ _ h _ := h.of_windows rfl rfl
  notify _ _ _ h := h.of_windows rfl rfl
  idles _ _ h := h.of_windows rfl rfl
  ticks _ _ h _ := h.of_windows rfl rfl
  retires _ _ _ _ _ h _ := h.of_windows rfl rfl
  resends _ _ h _ := h.of_windows rfl rfl
  opens s l r i _ h _ _ hslot := by
    have hfree := State.freeSlot_eq_some hslot
    have hopened : StackLaw (s.setWindow i ((s.window i).opened l r s.pool.free)) :=
      h.setWindow (by simp [Window.opened, hfree]) (by simp [hfree])
    exact hopened.of_windows rfl rfl
  closes s l g _ h _ _ := (h.enterClosing g.slot .owner).of_ages (by simp) (State.scheduleAll_ages _)
  restyles s l g w h _ hw :=
    h.setWindow (by rw [← (congrArg Window.state hw :)]) fun _ => (congrArg Window.tier hw :)
  shows s l g place h _ hplace := h.shownAt hplace
  hides s l g h _ := h.hidden g
  submits s l j h _ _ :=
    (h.of_windows (s.admitJob_stack l j) (s.admitJob_windows l j)).of_ages (by simp) (State.schedule_ages _ l)
  loads _ _ _ _ h _ _ _ := h.of_windows rfl rfl
  reloads _ _ _ _ h _ := h.of_windows rfl rfl
  frees s l g h _ := h.of_windows (s.freeOrRetire_stack l g) (s.freeOrRetire_windows l g)
  rowEnds s f _ h _ := h.of_ages (by simp) (s.endRow_ages f)
  frameStarts s _ h := h.of_ages (by simp) s.startFrame_ages
  reports s es h := h.of_windows (by simp) (by simp)

/-- Settles O52: `stackLaw_kept`. -/
theorem stackLawKept : Obligations.StackLawKept := fun _ _ hs ht =>
  stackLaw_kept.step (fun _ _ h => h.of_windows rfl rfl) hs ht

end Sys2Proof.Machine
end

section
/-! The contacts: what closing windows leave of windows, captures and links, and that every step keeps the law of the contacts
(O55). -/

namespace Sys2Proof.Machine

open Sys2Proof

/-! ### The names of the job in flight -/

/-- An abandon request changes no name of the job in flight. -/
theorem State.namedInFlight_map {s t : State} {g : InFlight → InFlight} (h : t.engine = s.engine.map g)
    (hg : ∀ f, (g f).job = f.job) (n : Handle) : t.namedInFlight n = s.namedInFlight n := by
  unfold State.namedInFlight
  rw [h]
  cases s.engine with
  | none => rfl
  | some f => simp [InFlight.names, hg]

@[simp] theorem InFlight.windowCloses_job (f : InFlight) (h : Handle) : (f.windowCloses h).job = f.job := by
  unfold InFlight.windowCloses
  (repeat' split) <;> rfl

@[simp] theorem InFlight.linkEnds_job (f : InFlight) (l : Link) : (f.linkEnds l).job = f.job := by
  unfold InFlight.linkEnds
  split <;> rfl

theorem State.enterClosing_engine (s : State) (i : Slot) (reason : CloseReason) :
    (s.enterClosing i reason).engine = s.engine.map fun f => f.windowCloses ⟨i, (s.window i).gen⟩ := by
  unfold State.enterClosing
  simp

theorem State.enterClosing_namedInFlight (s : State) (i : Slot) (reason : CloseReason) (n : Handle) :
    (s.enterClosing i reason).namedInFlight n = s.namedInFlight n :=
  State.namedInFlight_map (s.enterClosing_engine i reason) (fun _ => InFlight.windowCloses_job _ _) n

theorem State.dropJobs_engine (s : State) (l : Link) :
    (s.dropJobs l).engine = s.engine.map fun f => f.linkEnds l := by
  unfold State.dropJobs
  simp

theorem State.dropJobs_namedInFlight (s : State) (l : Link) (n : Handle) :
    (s.dropJobs l).namedInFlight n = s.namedInFlight n :=
  State.namedInFlight_map (s.dropJobs_engine l) (fun _ => InFlight.linkEnds_job _ _) n

theorem State.namedInFlight_congr {s t : State} (h : t.engine = s.engine) (n : Handle) :
    t.namedInFlight n = s.namedInFlight n := by
  unfold State.namedInFlight
  rw [h]

/-! ### Closed windows -/

/-- A window that closes waits if it is on the glass or named in flight (`named`), and is released at once otherwise. -/
def Window.closes (w : Window) (reason : CloseReason) (named : Bool) : Window :=
  if w.onGlass || named then w.closed reason else (w.closed reason).released

theorem State.enterClosing_window_self (s : State) (i : Slot) (reason : CloseReason) :
    (s.enterClosing i reason).window i = (s.window i).closes reason (s.namedInFlight ⟨i, (s.window i).gen⟩) := by
  unfold State.enterClosing
  dsimp only
  generalize htold : ((((s.setStack _).setWindow i _).cancelPresent (s.window i)).cancelCaptures _ _) = told
  have hwindow : told.window i = (s.window i).closed reason := by
    rw [← htold]
    simp
  have hengine : told.engine = s.engine := by
    rw [← htold]
    simp
  have hnamed : (told.setEngine (told.engine.map fun f => f.windowCloses ⟨i, (s.window i).gen⟩)).namedInFlight
      ⟨i, (s.window i).gen⟩ = s.namedInFlight ⟨i, (s.window i).gen⟩ :=
    State.namedInFlight_map (by rw [State.setEngine_engine, hengine]) (fun _ => InFlight.windowCloses_job _ _) _
  have hgen : ((s.window i).closed reason).gen = (s.window i).gen := rfl
  have hglass : ((s.window i).closed reason).onGlass = (s.window i).onGlass := rfl
  have hstate : ((s.window i).closed reason).state = .closing := rfl
  rw [State.releaseTest_eq, State.window_setEngine, hwindow, hgen, hnamed, hglass, hstate, Window.closes]
  cases (s.window i).onGlass <;> cases s.namedInFlight ⟨i, (s.window i).gen⟩ <;>
    simp [State.release_window, hwindow]

/-! ### The windows at the start of a teardown -/

/-- What the start of link l's teardown makes of a window record, its grant of l apart (R9, R21). -/
def Window.tornDown (w : Window) (l : Link) (named : Bool) : Window :=
  if w.owner = some l then
    if w.live then w.closes .teardown named
    else if w.state = .closing then { w with closeReason := some .teardown }
    else w
  else w

theorem State.teardownWindow_window_self (l : Link) (s : State) (i : Slot) :
    (State.teardownWindow l s i).window i = (s.window i).tornDown l (s.namedInFlight ⟨i, (s.window i).gen⟩) := by
  unfold State.teardownWindow Window.tornDown
  dsimp only
  (repeat' split)
  · exact s.enterClosing_window_self i .teardown
  · simp
  · rfl
  · rfl

theorem State.teardownWindow_window_ne (l : Link) (s : State) {i j : Slot} (h : j ≠ i) :
    (State.teardownWindow l s i).window j = s.window j := by
  unfold State.teardownWindow
  dsimp only
  (repeat' split)
  · exact s.enterClosing_window_ne .teardown h
  · simp [h]
  · rfl
  · rfl

theorem State.teardownWindow_namedInFlight (l : Link) (s : State) (i : Slot) (n : Handle) :
    (State.teardownWindow l s i).namedInFlight n = s.namedInFlight n := by
  unfold State.teardownWindow
  dsimp only
  (repeat' split)
  · exact s.enterClosing_namedInFlight i .teardown n
  · rfl
  · rfl
  · rfl

theorem State.teardownWindows_window (s : State) (l : Link) (i : Slot) :
    (s.teardownWindows l).window i =
      ((s.window i).withoutGrant l).tornDown l (s.namedInFlight ⟨i, (s.window i).gen⟩) := by
  have hgen : ((s.window i).withoutGrant l).gen = (s.window i).gen := by rw [Window.withoutGrant_eq]
  have := foldl_places State.window (State.teardownWindow l)
    (fun i w => w.tornDown l (s.namedInFlight ⟨i, w.gen⟩)) (fun t => ∀ n, t.namedInFlight n = s.namedInFlight n)
    (fun t i h n => (State.teardownWindow_namedInFlight l t i n).trans (h n))
    (fun t i h => by rw [State.teardownWindow_window_self, h])
    (fun t i j _ hj => State.teardownWindow_window_ne l t hj) (List.finRange 32) (nodup_finRange 32)
    { s with windows := s.windows.map fun w => w.withoutGrant l } (fun _ => rfl) i
  rw [if_pos (mem_finRange i), State.window_withoutGrants, hgen] at this
  exact this

theorem State.startTeardown_window (s : State) (l : Link) (reason : EndReason) (i : Slot) :
    (s.startTeardown l reason).window i =
      ((s.window i).withoutGrant l).tornDown l (s.namedInFlight ⟨i, (s.window i).gen⟩) := by
  unfold State.startTeardown
  dsimp only
  generalize (s.link l).torn reason (s.ownedWindows l) (s.ownsEngine l) = torn
  have hnamed : ∀ n, ((((s.setLink l torn).dropEvents l).dropJobs l).orphanStamps l).namedInFlight n =
      s.namedInFlight n := fun n => by
    rw [State.namedInFlight_congr (s := ((s.setLink l torn).dropEvents l).dropJobs l) (by simp),
      State.dropJobs_namedInFlight]
    exact State.namedInFlight_congr (by simp) n
  have hwindow : ((((s.setLink l torn).dropEvents l).dropJobs l).orphanStamps l).window i = s.window i := by simp
  generalize (((s.setLink l torn).dropEvents l).dropJobs l).orphanStamps l = dropped at hnamed hwindow ⊢
  simp only [State.endTest_frame, State.teardownWindows_window, hnamed, hwindow]

theorem Window.closes_not_live (w : Window) (reason : CloseReason) (named : Bool) :
    (w.closes reason named).live = false := by
  unfold Window.closes
  split <;> rfl

/-- A window that is live after the start of a teardown is another link's, and has lost at most a grant. -/
theorem Window.tornDown_live {w : Window} {l : Link} {named : Bool}
    (h : ((w.withoutGrant l).tornDown l named).live = true) :
    w.owner ≠ some l ∧ (w.withoutGrant l).tornDown l named = { w with grants := w.grants.set l false } := by
  by_cases howner : w.owner = some l
  · have hsame : w.withoutGrant l = w := by simp [Window.withoutGrant, howner]
    rw [hsame, Window.tornDown, if_pos howner] at h
    split at h
    · rw [Window.closes_not_live] at h
      cases h
    · rename_i hlive
      split at h <;> exact absurd h hlive
  · refine ⟨howner, ?_⟩
    simp [Window.withoutGrant, Window.tornDown, howner]

/-! ### Live windows and their owners -/

theorem LiveOwned.of_ages {s t : State} (h : LiveOwned s) (hages : s.WindowsAge t) (hup : ∀ k, t.isUp k = s.isUp k) :
    LiveOwned t := by
  intro i hlive
  rw [(hages i).live_eq] at hlive
  obtain ⟨l, howner, hl⟩ := h i hlive
  exact ⟨l, ((hages i).refreshed (Window.not_closing_of_live hlive)).owner.trans howner, (hup l).trans hl⟩

/-- A record replaced by one that is live only if the old one was, of the same owner. -/
theorem LiveOwned.setWindow {s : State} (h : LiveOwned s) {i : Slot} {w : Window}
    (hw : w.live = true → (s.window i).live = true ∧ w.owner = (s.window i).owner) : LiveOwned (s.setWindow i w) := by
  intro j hlive
  rw [State.window_setWindow] at hlive ⊢
  split
  · rename_i hj
    rw [if_pos hj] at hlive
    obtain ⟨hold, howner⟩ := hw hlive
    rw [howner]
    exact h i hold
  · rename_i hj
    rw [if_neg hj] at hlive
    exact h j hlive

theorem LiveOwned.enterClosing {s : State} (h : LiveOwned s) (i : Slot) (reason : CloseReason) :
    LiveOwned (s.enterClosing i reason) := by
  intro j hlive
  by_cases hj : j = i
  · subst hj
    rw [State.enterClosing_window_self, Window.closes_not_live] at hlive
    cases hlive
  · rw [State.enterClosing_window_ne _ _ hj] at hlive ⊢
    simpa using h j hlive

theorem LiveOwned.startTeardown {s : State} (h : LiveOwned s) (l : Link) (reason : EndReason) :
    LiveOwned (s.startTeardown l reason) := by
  intro i hlive
  rw [State.startTeardown_window] at hlive ⊢
  obtain ⟨hother, heq⟩ := Window.tornDown_live hlive
  rw [heq] at hlive ⊢
  obtain ⟨k, howner, hup⟩ := h i hlive
  refine ⟨k, howner, ?_⟩
  rw [State.startTeardown_isUp, if_neg, hup]
  rintro rfl
  exact hother howner

/-! ### Captures -/

/-- Every capture is held by a HELD contact and names a SHOWN window. -/
def CapturesShown (s : State) : Prop :=
  ∀ k h, (s.contact k).capture = some h →
    (s.contact k).state = .held ∧ s.current h = true ∧ (s.window h.slot).state = .shown

theorem touchLaw_iff {s : State} : TouchLaw s ↔ LiveOwned s ∧ CapturesShown s := by
  constructor
  · intro h
    refine ⟨h.liveOwned, fun k g hk => ?_⟩
    obtain ⟨hheld, hcurrent, hshown, -⟩ := h.captured k g hk
    exact ⟨hheld, hcurrent, hshown⟩
  · rintro ⟨howned, hcaptures⟩
    refine ⟨howned, fun k g hk => ?_⟩
    obtain ⟨hheld, hcurrent, hshown⟩ := hcaptures k g hk
    exact ⟨hheld, hcurrent, hshown, howned g.slot (by simp [Window.live, hshown])⟩

theorem CapturesShown.of_ages {s t : State} (h : CapturesShown s) (hages : s.WindowsAge t)
    (hcontacts : t.contacts = s.contacts) : CapturesShown t := by
  intro k g hk
  have hcontact : t.contact k = s.contact k := by rw [State.contact, State.contact, hcontacts]
  rw [hcontact] at hk ⊢
  obtain ⟨hheld, hcurrent, hshown⟩ := h k g hk
  have hwindow := (hages g.slot).refreshed (by simp [hshown])
  rw [State.current_eq_true_iff] at hcurrent ⊢
  rw [hwindow.state, hwindow.gen]
  exact ⟨hheld, hcurrent, hshown⟩

/-- A record replaced by one of the same generation, SHOWN if the old one was. -/
theorem CapturesShown.setWindow {s : State} (h : CapturesShown s) {i : Slot} {w : Window}
    (hgen : w.gen = (s.window i).gen) (hw : (s.window i).state = .shown → w.state = .shown) :
    CapturesShown (s.setWindow i w) := by
  intro k g hk
  obtain ⟨hheld, hcurrent, hshown⟩ := h k g hk
  refine ⟨hheld, ?_⟩
  rw [State.current_eq_true_iff] at hcurrent ⊢
  rw [State.window_setWindow]
  split
  · rename_i hi
    rw [hi] at hshown hcurrent
    simp [hw hshown, hgen, hcurrent.2]
  · exact ⟨hcurrent, hshown⟩

/-- Captures on one window cleared, the other windows staying as they are. -/
theorem CapturesShown.clears {s t : State} (h : CapturesShown s) (i : Slot)
    (hwindows : ∀ j, j ≠ i → t.window j = s.window j)
    (hcontacts : ∀ k, t.contact k =
      if (s.contact k).capture = some ⟨i, (s.window i).gen⟩ then { s.contact k with capture := none, lastSent := none }
      else s.contact k) : CapturesShown t := by
  intro k g hk
  rw [hcontacts k] at hk ⊢
  split at hk
  · cases hk
  · rename_i hne
    rw [if_neg hne]
    obtain ⟨hheld, hcurrent, hshown⟩ := h k g hk
    have hslot : g.slot ≠ i := by
      rintro rfl
      exact hne (hk.trans (congrArg some (Handle.mk.injEq .. ▸ ⟨rfl, (State.current_eq_true_iff.1 hcurrent).2.symm⟩)))
    rw [State.current_eq_true_iff] at hcurrent ⊢
    rw [hwindows _ hslot]
    exact ⟨hheld, hcurrent, hshown⟩

theorem CapturesShown.enterClosing {s : State} (h : CapturesShown s) (i : Slot) (reason : CloseReason) :
    CapturesShown (s.enterClosing i reason) :=
  h.clears i (fun _ hj => s.enterClosing_window_ne reason hj) (s.enterClosing_contact i reason)

theorem CapturesShown.hidden {s : State} (h : CapturesShown s) {g : Handle} (hgen : (s.window g.slot).gen = g.gen) :
    CapturesShown (s.hidden g) := by
  unfold State.hidden
  split
  · refine h.clears g.slot (fun j hj => by simp [hj]) fun k => ?_
    rw [State.cancelCaptures_contact, hgen]
    simp
  · exact h

theorem CapturesShown.teardownWindow (l : Link) {s : State} (h : CapturesShown s) (i : Slot) :
    CapturesShown (State.teardownWindow l s i) := by
  unfold State.teardownWindow
  dsimp only
  (repeat' split)
  · exact h.enterClosing i _
  · exact h.setWindow rfl id
  · exact h
  · exact h

theorem CapturesShown.teardownWindows {s : State} (h : CapturesShown s) (l : Link) :
    CapturesShown (s.teardownWindows l) := by
  unfold State.teardownWindows
  refine foldl_keeps CapturesShown (State.teardownWindow l) (fun t i ht => ht.teardownWindow l i) _ fun k g hk => ?_
  obtain ⟨hheld, hcurrent, hshown⟩ := h k g hk
  rw [State.current_eq_true_iff] at hcurrent ⊢
  rw [State.window_withoutGrants, Window.withoutGrant_eq]
  exact ⟨hheld, hcurrent, hshown⟩

theorem CapturesShown.startTeardown {s : State} (h : CapturesShown s) (l : Link) (reason : EndReason) :
    CapturesShown (s.startTeardown l reason) := by
  unfold State.startTeardown
  dsimp only
  generalize (s.link l).torn reason (s.ownedWindows l) (s.ownsEngine l) = torn
  have hdropped : CapturesShown ((((s.setLink l torn).dropEvents l).dropJobs l).orphanStamps l) :=
    h.of_ages (.of_eq (by simp)) (by simp)
  generalize (((s.setLink l torn).dropEvents l).dropJobs l).orphanStamps l = dropped at hdropped ⊢
  exact (hdropped.teardownWindows l).of_ages (.of_eq (by simp)) (by simp)

/-- What the hit test finds is current and SHOWN. -/
theorem State.hitTest_eq_some {s : State} {p : Pos} {h : Handle} (hhit : s.hitTest p = some h) :
    s.current h = true ∧ (s.window h.slot).state = .shown := by
  obtain ⟨e, hfind, rfl⟩ := Option.map_eq_some_iff.1 hhit
  have hhits := List.find?_some hfind
  simp only [State.hits, Bool.and_eq_true, decide_eq_true_eq] at hhits
  exact ⟨hhits.1.2, hhits.2⟩

/-- A contact that has a capture after a report kept it, or has found it by the hit test. -/
theorem Contact.reported_capture {c : Contact} {listed : Option Pos} {hit : Pos → Option Handle} {h : Handle}
    (hc : (c.reported listed hit).capture = some h) :
    (c.capture = some h ∧ ((c.reported listed hit).state = .held ∨ c.state ≠ .held)) ∨
      ((c.reported listed hit).state = .held ∧ ∃ p, hit p = some h) := by
  unfold Contact.reported at hc ⊢
  split at hc
  · exact .inl ⟨hc, .inr (by simp_all)⟩
  · exact .inl ⟨hc, .inr (by simp_all)⟩
  · exact .inr ⟨rfl, _, hc⟩
  · cases hc
  · exact .inl ⟨hc, .inl (by simp_all)⟩
  · cases hc

theorem CapturesShown.applyReport {s : State} (h : CapturesShown s) (es : List ReportEntry) :
    CapturesShown (s.applyReport es) := by
  intro k g hk
  rw [State.applyReport_contact] at hk ⊢
  rw [State.current_eq_true_iff]
  simp only [State.applyReport_frame]
  rw [← State.current_eq_true_iff]
  rcases Contact.reported_capture hk with ⟨hold, hstate⟩ | ⟨hstate, p, hhit⟩
  · obtain ⟨hheld, hcurrent⟩ := h k g hold
    exact ⟨hstate.resolve_right fun hne => hne hheld, hcurrent⟩
  · exact ⟨hstate, State.hitTest_eq_some hhit⟩

/-! ### Every step -/

theorem State.freeOrRetire_links (s : State) (l : Link) (h : StampHandle) :
    (s.freeOrRetire l h).state.links = s.links := by
  unfold State.freeOrRetire
  split <;> rfl

theorem State.freeOrRetire_contacts (s : State) (l : Link) (h : StampHandle) :
    (s.freeOrRetire l h).state.contacts = s.contacts := by
  unfold State.freeOrRetire
  split <;> rfl

theorem State.admitJob_links (s : State) (l : Link) (j : Job) : (s.admitJob l j).links = s.links := by
  unfold State.admitJob State.referStamp
  split <;> simp

theorem State.admitJob_contacts (s : State) (l : Link) (j : Job) : (s.admitJob l j).contacts = s.contacts := by
  unfold State.admitJob State.referStamp
  split <;> simp

theorem liveOwned_of_links {s t : State} (h : LiveOwned s) (hwindows : t.windows = s.windows) (hlinks : t.links = s.links) :
    LiveOwned t :=
  h.of_ages (.of_eq hwindows) (State.isUp_eq_of_links hlinks)

theorem Window.Restyled.live_eq {w v : Window} (h : w.Restyled v) : v.live = w.live := by
  unfold Window.Restyled at h
  rw [← h]
  rfl

theorem liveOwned_kept : KeptByParts LiveOwned where
  answers s l r h _ := h.of_ages (.of_eq rfl) fun k => s.isUp_setLink l k _ rfl
  renews s l h := h.of_ages (.of_eq rfl) fun k => s.isUp_setLink l k _ rfl
  executes s l _ _ _ _ h _ _ := h.of_ages (.of_eq rfl) fun k => s.isUp_setLink l k _ rfl
  transmits s l h := h.of_ages (.of_eq (by simp)) fun k => s.transmit_isUp l k
  ends s l reason _ h :=
    (h.startTeardown l reason).of_ages (State.scheduleAll_ages _) fun k => by unfold State.endSession; simp
  pinReset s pins _ := (s.atReset_afterPinReset pins).touchLaw.liveOwned
  resetRelease _ _ h := liveOwned_of_links h rfl rfl
  scrubs _ _ _ _ _ _ h := liveOwned_of_links h rfl rfl
  begins s l seq lease h hdown _ _ _ := by
    intro i hlive
    obtain ⟨k, howner, hup⟩ := h i hlive
    have hk : k ≠ l := by
      rintro rfl
      simp [State.isUp, hdown] at hup
    exact ⟨k, howner, by simpa [State.beginSession, State.isUp, hk] using hup⟩
  goodbye s l h _ := h.of_ages (.of_eq rfl) fun k => s.isUp_setLink l k _ rfl
  notify s l on h := h.of_ages (.of_eq rfl) fun k => s.isUp_setLink l k _ rfl
  idles s l h := h.of_ages (.of_eq rfl) fun k => s.isUp_setLink l k _ rfl
  ticks s l h _ := h.of_ages (.of_eq rfl) fun k => s.isUp_setLink l k _ rfl
  retires _ _ _ _ _ h _ := liveOwned_of_links h rfl rfl
  resends _ _ h _ := liveOwned_of_links h rfl rfl
  opens s l r i _ h hup _ _ := by
    intro j hlive
    have hj : (s.openIn l r i).window j = if j = i then (s.window i).opened l r s.pool.free else s.window j := by
      unfold State.openIn
      simp only [State.takeReservation_frame, State.window_setPool, State.window_setWindow]
    have hsame : ∀ k, (s.openIn l r i).isUp k = s.isUp k := fun k => by
      unfold State.openIn
      simp
    simp only [hj, hsame] at hlive ⊢
    split
    · exact ⟨l, rfl, by simp [State.isUp, hup]⟩
    · rename_i hne
      rw [if_neg hne] at hlive
      exact h j hlive
  closes s l g _ h _ _ := (h.enterClosing g.slot .owner).of_ages (State.scheduleAll_ages _) fun k => by simp
  restyles s l g w h _ hw := h.setWindow fun hlive => ⟨hw.live_eq ▸ hlive, by rw [← (congrArg Window.owner hw :)]⟩
  shows s l g place h hpasses _ := by
    have hmay := State.changeRefusal_eq_none hpasses
    refine LiveOwned.setWindow (s := s.setStack _) (liveOwned_of_links h rfl rfl) fun _ => ⟨?_, rfl⟩
    obtain ⟨hfree, -, hclosing, -⟩ := hmay
    rw [Window.live_iff]
    revert hfree hclosing
    cases hstate : ((s.setStack (s.placed g.slot place.placed)).window g.slot).state <;> simp_all
  hides s l g h _ := by
    unfold State.hidden
    split
    · rename_i hshown
      have hset : LiveOwned ((s.setStack (s.stack.filter fun j => decide (j ≠ g.slot))).setWindow g.slot
          { s.window g.slot with state := .hidden }) :=
        LiveOwned.setWindow (liveOwned_of_links h rfl rfl) fun _ => ⟨by simp [Window.live, hshown], rfl⟩
      generalize (s.setStack _).setWindow g.slot _ = d at hset ⊢
      exact hset.of_ages (.of_eq (by simp)) fun k => by simp
    · exact h
  submits s l j h _ _ :=
    (liveOwned_of_links h (s.admitJob_windows l j) (s.admitJob_links l j)).of_ages (State.schedule_ages _ l)
      fun k => by simp
  loads _ _ _ _ h _ _ _ := liveOwned_of_links h rfl rfl
  reloads _ _ _ _ h _ := liveOwned_of_links h rfl rfl
  frees s l g h _ := liveOwned_of_links h (s.freeOrRetire_windows l g) (s.freeOrRetire_links l g)
  rowEnds s f _ h _ := h.of_ages (s.endRow_ages f) fun k => by simp
  frameStarts s _ h := h.of_ages s.startFrame_ages fun k => by simp
  reports s es h := liveOwned_of_links h (by simp) (by simp)

theorem CapturesShown.of_same {s t : State} (h : CapturesShown s) (hwindows : t.windows = s.windows)
    (hcontacts : t.contacts = s.contacts) : CapturesShown t := h.of_ages (.of_eq hwindows) hcontacts

theorem capturesShown_kept : KeptByParts CapturesShown where
  answers _ _ _ h _ := h.of_same rfl rfl
  renews _ _ h := h.of_same rfl rfl
  executes _ _ _ _ _ _ h _ _ := h.of_same rfl rfl
  transmits s l h := h.of_same (by simp) (by simp)
  ends s l reason _ h :=
    (h.startTeardown l reason).of_ages (State.scheduleAll_ages _) (by unfold State.endSession; simp)
  pinReset s pins _ := (touchLaw_iff.1 (s.atReset_afterPinReset pins).touchLaw).2
  resetRelease _ _ h := h.of_same rfl rfl
  scrubs _ _ _ _ _ _ h := h.of_same rfl rfl
  begins _ _ _ _ h _ _ _ _ := h.of_same rfl rfl
  goodbye _ _ h _ := h.of_same rfl rfl
  notify _ _ _ h := h.of_same rfl rfl
  idles _ _ h := h.of_same rfl rfl
  ticks _ _ h _ := h.of_same rfl rfl
  retires _ _ _ _ _ h _ := h.of_same rfl rfl
  resends _ _ h _ := h.of_same rfl rfl
  opens s l r i _ h _ _ hslot := by
    have hfree := State.freeSlot_eq_some hslot
    have hopened : CapturesShown (s.setWindow i ((s.window i).opened l r s.pool.free)) :=
      h.setWindow rfl (by simp [hfree])
    exact hopened.of_same rfl rfl
  closes s l g _ h _ _ := (h.enterClosing g.slot .owner).of_ages (State.scheduleAll_ages _) (by simp)
  restyles s l g w h _ hw :=
    h.setWindow (by rw [← (congrArg Window.gen hw :)]) fun hshown => by rw [← hshown, ← (congrArg Window.state hw :)]
  shows s l g place h _ _ :=
    CapturesShown.setWindow (s := s.setStack _) (h.of_same rfl rfl) rfl fun _ => rfl
  hides s l g h hpasses := h.hidden (State.changeRefusal_eq_none hpasses).2.1
  submits s l j h _ _ :=
    (h.of_same (s.admitJob_windows l j) (s.admitJob_contacts l j)).of_ages (State.schedule_ages _ l) (by simp)
  loads _ _ _ _ h _ _ _ := h.of_same rfl rfl
  reloads _ _ _ _ h _ := h.of_same rfl rfl
  frees s l g h _ := h.of_same (s.freeOrRetire_windows l g) (s.freeOrRetire_contacts l g)
  rowEnds s f _ h _ := h.of_ages (s.endRow_ages f) (by simp)
  frameStarts s _ h := h.of_ages s.startFrame_ages (by simp)
  reports s es h := h.applyReport es

/-- Settles O55: the windows' owners and the captures, each kept by every step. -/
theorem touchLawKept : Obligations.TouchLawKept := by
  intro s t hs ht
  obtain ⟨howned, hcaptures⟩ := touchLaw_iff.1 hs
  exact touchLaw_iff.2 ⟨liveOwned_kept.step (fun _ _ h => liveOwned_of_links h rfl rfl) howned ht,
    capturesShown_kept.step (fun _ _ h => h.of_same rfl rfl) hcaptures ht⟩

end Sys2Proof.Machine
end

section
/-! The event queues: whatever a rule hands to the links are claims on the queues of links that are UP, and so every step keeps
the law of the event queues (O53). -/

namespace Sys2Proof.Machine

open Sys2Proof

/-! ### Claims -/

/-- What reserved events, silent releases and unreserved events make of a queue. -/
inductive EventQueue.Claimed (q : EventQueue) : EventQueue → Prop where
  | refl : q.Claimed q
  | reserved {r : EventQueue} (e : Event) : q.Claimed r → q.Claimed (r.queueReserved e)
  | silent {r : EventQueue} : q.Claimed r → q.Claimed r.silentRelease
  | unreserved {r : EventQueue} (e : Event) : q.Claimed r → q.Claimed (r.queueUnreserved e)

theorem EventQueue.Claimed.trans {p q r : EventQueue} (h : p.Claimed q) (h' : q.Claimed r) : p.Claimed r := by
  induction h' with
  | refl => exact h
  | reserved e _ ih => exact ih.reserved e
  | silent _ ih => exact ih.silent
  | unreserved e _ ih => exact ih.unreserved e

theorem EventQueue.Sound.claimed {q r : EventQueue} (h : q.Sound) (hr : q.Claimed r) : r.Sound := by
  induction hr with
  | refl => exact h
  | reserved e _ ih => exact ih.queueReserved e
  | silent _ ih => exact ih.silentRelease
  | unreserved e _ ih => exact ih.queueUnreserved e

/-- From s to t no link goes UP or ceases to be, the queues of links that are UP are claimed on, and no other queue changes. -/
structure State.Told (s t : State) : Prop where
  isUp : ∀ k, t.isUp k = s.isUp k
  claimed : ∀ k, (s.eventsOf k).Claimed (t.eventsOf k)
  quiet : ∀ k, s.isUp k = false → t.eventsOf k = s.eventsOf k

section
variable {s t u : State}

theorem State.Told.refl (s : State) : s.Told s := ⟨fun _ => rfl, fun _ => .refl, fun _ _ => rfl⟩

theorem State.Told.trans (h : s.Told t) (h' : t.Told u) : s.Told u where
  isUp k := (h'.isUp k).trans (h.isUp k)
  claimed k := (h.claimed k).trans (h'.claimed k)
  quiet k hk := (h'.quiet k ((h.isUp k).trans hk)).trans (h.quiet k hk)

theorem State.Told.of_events (hevents : t.events = s.events) (hup : ∀ k, t.isUp k = s.isUp k) : s.Told t := by
  have heq : ∀ k, t.eventsOf k = s.eventsOf k := fun k => by rw [State.eventsOf, State.eventsOf, hevents]
  exact ⟨hup, fun k => heq k ▸ .refl, fun k _ => heq k⟩

theorem State.Told.of_same (hevents : t.events = s.events) (hlinks : t.links = s.links) : s.Told t :=
  .of_events hevents (State.isUp_eq_of_links hlinks)

/-- What is told after changes outside the event queues and the link controllers. -/
theorem State.Told.after (h : t.Told u) (hevents : t.events = s.events) (hlinks : t.links = s.links) : s.Told u :=
  (State.Told.of_same hevents hlinks).trans h

theorem State.Told.foldl {α : Type} {f : State → α → State} (h : ∀ (t : State) x, t.Told (f t x)) (xs : List α)
    (s : State) : s.Told (xs.foldl f s) :=
  foldl_keeps (fun t => s.Told t) f (fun t x ht => ht.trans (h t x)) xs (.refl s)

/-- One claim on the queue of a link that is UP. -/
theorem State.told_setEvents (l : Link) {q : EventQueue} (hup : s.isUp l = true) (hq : (s.eventsOf l).Claimed q) :
    s.Told (s.setEvents l q) := by
  refine ⟨fun _ => rfl, fun k => ?_, fun k hk => ?_⟩
  · rw [State.eventsOf_setEvents]
    split
    · rename_i h
      rwa [h]
    · exact .refl
  · rw [State.eventsOf_setEvents_ne]
    rintro rfl
    simp [hup] at hk

end

theorem State.handReserved_told (s : State) (l : Link) (e : Event) : s.Told (s.handReserved l e) := by
  unfold State.handReserved
  split
  · rename_i hup
    exact State.told_setEvents l hup (.reserved e .refl)
  · exact .refl s

theorem State.handSilent_told (s : State) (l : Link) : s.Told (s.handSilent l) := by
  unfold State.handSilent
  split
  · rename_i hup
    exact State.told_setEvents l hup (.silent .refl)
  · exact .refl s

theorem State.handUnreserved_told (s : State) (l : Link) (e : Event) : s.Told (s.handUnreserved l e) := by
  unfold State.handUnreserved
  split
  · rename_i hup
    exact State.told_setEvents l hup (.unreserved e .refl)
  · exact .refl s

/-! ### Stamps, touches, windows -/

theorem State.endRetirement_told (s : State) (i : StampSlot) : s.Told (s.endRetirement i) := by
  unfold State.endRetirement
  dsimp only
  split
  · exact .of_same rfl rfl
  · exact .after (State.handUnreserved_told _ _ _) rfl rfl

theorem State.releaseReference_told (s : State) (h : StampHandle) : s.Told (s.releaseReference h) := by
  unfold State.releaseReference
  dsimp only
  split
  · exact .after (State.endRetirement_told _ _) rfl rfl
  · exact .of_same rfl rfl

theorem State.releaseStampOf_told (s : State) (j : Job) : s.Told (s.releaseStampOf j) := by
  unfold State.releaseStampOf
  split
  · exact s.releaseReference_told _
  · exact .refl s

theorem State.handTouch_told (s : State) (kind : TouchKind) (k : ContactNumber) (h : Handle) (p : Pos) :
    s.Told (s.handTouch kind k h p) := by
  unfold State.handTouch
  split
  · exact s.handUnreserved_told _ _
  · exact .refl s

theorem State.cancelCapture_told (s : State) (h : Handle) (send : Bool) (k : ContactNumber) :
    s.Told (s.cancelCapture h send k) := by
  unfold State.cancelCapture
  dsimp only
  split
  · split
    · exact .trans (s.handTouch_told _ k h _) (.of_same rfl rfl)
    · exact .of_same rfl rfl
  · exact .refl s

theorem State.cancelCaptures_told (s : State) (h : Handle) (send : Bool) : s.Told (s.cancelCaptures h send) :=
  .foldl (fun t k => t.cancelCapture_told h send k) _ s

theorem State.release_told (s : State) (i : Slot) : s.Told (s.release i) := by
  unfold State.release
  dsimp only
  have hfreed : s.Told ((s.setWindow i (s.window i).released).setPool
      (s.pool.release (s.window i).owner ((s.window i).buf0 ++ (s.window i).buf1) (s.window i).pages)) :=
    .of_same rfl rfl
  generalize (s.setWindow i _).setPool _ = freed at hfreed ⊢
  split
  · exact hfreed.trans (freed.handReserved_told _ _)
  · exact hfreed.trans (.of_events (by simp) fun k => by simp)
  · exact hfreed

theorem State.releaseTest_told (s : State) (i : Slot) : s.Told (s.releaseTest i) := by
  rw [State.releaseTest_eq]
  split
  · exact s.release_told i
  · exact .refl s

theorem State.cancelPresent_told (s : State) (w : Window) : s.Told (s.cancelPresent w) := by
  unfold State.cancelPresent
  split
  · exact s.handReserved_told _ _
  · exact .refl s

theorem State.enterClosing_told (s : State) (i : Slot) (reason : CloseReason) : s.Told (s.enterClosing i reason) := by
  unfold State.enterClosing
  dsimp only
  have hoff : s.Told ((s.setStack (s.stack.filter fun j => decide (j ≠ i))).setWindow i ((s.window i).closed reason)) :=
    .of_same rfl rfl
  generalize (s.setStack _).setWindow i _ = off at hoff ⊢
  have htold := (hoff.trans (off.cancelPresent_told (s.window i))).trans
    (State.cancelCaptures_told _ ⟨i, (s.window i).gen⟩ (decide (reason = .owner)))
  generalize (off.cancelPresent (s.window i)).cancelCaptures _ _ = told at htold ⊢
  exact htold.trans (.after (State.releaseTest_told _ i) rfl rfl)

theorem State.teardownWindow_told (l : Link) (s : State) (i : Slot) : s.Told (State.teardownWindow l s i) := by
  unfold State.teardownWindow
  dsimp only
  (repeat' split)
  · exact s.enterClosing_told i _
  · exact .of_same rfl rfl
  · exact .refl s
  · exact .refl s

theorem State.teardownWindows_told (s : State) (l : Link) : s.Told (s.teardownWindows l) := by
  unfold State.teardownWindows
  have htold := State.Told.foldl (State.teardownWindow_told l) (List.finRange 32)
    { s with windows := s.windows.map fun w => w.withoutGrant l }
  exact htold.after (by simp only) (by simp only)

/-! ### Jobs -/

theorem State.handOutcome_told (s : State) (l : Link) (j : Job) (e : Ending) (result : List Pixel) :
    s.Told (s.handOutcome l j e result) := by
  unfold State.handOutcome
  (repeat' split)
  all_goals first
    | exact s.handReserved_told _ _
    | exact s.handSilent_told _

theorem State.completeHead_told (s : State) (l : Link) (j : Job) (e : Ending) (result : List Pixel) :
    s.Told (s.completeHead l j e result) := by
  unfold State.completeHead
  dsimp only
  have hleft : s.Told (s.setQueue l { s.queue l with entries := (s.queue l).entries.tail, head := .empty }) :=
    .of_same rfl rfl
  generalize s.setQueue l _ = left at hleft ⊢
  have htold := hleft.trans (left.handOutcome_told l j e result)
  generalize left.handOutcome l j e result = told at htold ⊢
  exact htold.trans (.after (State.releaseStampOf_told _ j) rfl rfl)

theorem State.completeInFlight_told (s : State) (f : InFlight) (e : Ending) : s.Told (s.completeInFlight f e) := by
  unfold State.completeInFlight
  dsimp only
  have hcompleted := s.completeHead_told f.link f.job e f.result
  generalize s.completeHead f.link f.job e f.result = completed at hcompleted ⊢
  have htested := hcompleted.trans
    (.after (.foldl State.releaseTest_told f.slots (completed.setEngine none)) rfl rfl)
  generalize f.slots.foldl State.releaseTest _ = tested at htested ⊢
  split
  · exact htested.trans (.of_events (by simp) fun k => by simp)
  · exact htested

theorem State.takePresent_told (s : State) (l : Link) (j : Job) (h : Handle) : s.Told (s.takePresent l j h) := by
  unfold State.takePresent
  split
  · exact .of_same rfl rfl
  · exact s.completeHead_told l j _ _

theorem State.examine_told (s : State) (l : Link) (js : List Job) : s.Told (s.examine l js) := by
  induction js generalizing s with
  | nil => exact .of_same rfl rfl
  | cons j js ih =>
    unfold State.examine
    split
    · exact .of_same rfl rfl
    · split
      · exact (s.completeHead_told l j _ _).trans (ih _)
      · exact (s.takePresent_told l j _).trans (ih _)
      · exact .of_same rfl rfl

theorem State.examineHead_told (s : State) (l : Link) : s.Told (s.examineHead l) := by
  unfold State.examineHead
  split
  · exact .refl s
  · exact .refl s
  · exact s.examine_told l _
  · exact s.examine_told l _

/-- The state with the engine granted to a link: it is the last served, and its head counts as in flight (R84). -/
def State.granted (s : State) (l : Link) : State :=
  { s with lastServed := l }.setQueue l { s.queue l with head := .inFlight }

/-- What each grant of the arbiter keeps, whether its job starts or fails a start check, all its grants keep. -/
theorem State.grants_keeps {P : State → Prop}
    (hfails : ∀ s l j rest status, P s → s.engine = none → s.nextEligible = some l → (s.queue l).entries = j :: rest →
      (s.granted l).startFailure l j.op = some status →
      P (((s.granted l).completeHead l j (.failed status) []).examineHead l))
    (hstarts : ∀ s l j rest, P s → s.engine = none → s.nextEligible = some l → (s.queue l).entries = j :: rest →
      (s.granted l).startFailure l j.op = none → P ((s.granted l).setEngine (some ((s.granted l).startedJob l j))))
    (n : Nat) {s : State} (hs : P s) : P (State.grants n s) := by
  induction n generalizing s with
  | zero => exact hs
  | succ n ih =>
    unfold State.grants
    split
    · rename_i l hengine hnext
      split
      · exact hs
      · rename_i j rest hentries
        dsimp only
        split
        · rename_i status hfailure
          exact ih (hfails s l j rest status hs hengine hnext hentries hfailure)
        · rename_i hpasses
          exact hstarts s l j rest hs hengine hnext hentries hpasses
    · exact hs

theorem State.granted_told (s : State) (l : Link) : s.Told (s.granted l) := .of_same rfl rfl

theorem State.grants_told (n : Nat) (s : State) : s.Told (State.grants n s) := by
  refine State.grants_keeps (P := fun t => s.Told t) (fun t l j _ status ht _ _ _ _ => ?_) (fun t l j _ ht _ _ _ _ => ?_)
    n (.refl s)
  · have hgranted := ht.trans (t.granted_told l)
    generalize t.granted l = granted at hgranted ⊢
    exact hgranted.trans ((State.completeHead_told _ _ _ _ _).trans (State.examineHead_told _ _))
  · have hgranted := ht.trans (t.granted_told l)
    generalize t.granted l = granted at hgranted ⊢
    exact hgranted.trans (.of_same rfl rfl)

theorem State.arbitrate_told (s : State) : s.Told s.arbitrate := s.grants_told _

theorem State.schedule_told (s : State) (l : Link) : s.Told (s.schedule l) :=
  (s.examineHead_told l).trans (State.arbitrate_told _)

theorem State.scheduleAll_told (s : State) : s.Told s.scheduleAll :=
  (State.Told.foldl State.examineHead_told allLinks s).trans (State.arbitrate_told _)

theorem State.endRow_told (s : State) (f : InFlight) : s.Told (s.endRow f) := by
  unfold State.endRow
  dsimp only
  have hdrawn : s.Told (s.drawRow f) := .of_same rfl rfl
  refine hdrawn.trans ?_
  generalize s.drawRow f = d
  (repeat' split)
  · exact (d.completeInFlight_told _ _).trans (State.schedule_told _ _)
  · exact (d.completeInFlight_told _ _).trans (State.schedule_told _ _)
  · exact .of_same rfl rfl

theorem State.dropJobs_told (s : State) (l : Link) : s.Told (s.dropJobs l) := by
  unfold State.dropJobs
  dsimp only
  have htold := (State.Told.foldl State.releaseStampOf_told (s.droppedEntries l) (s.setQueue l
    { entries := s.keptEntries l, head := if s.keptEntries l = [] then .empty else .inFlight,
      staging := (s.queue l).staging - ((s.droppedEntries l).map fun j => j.op.staging).sum })).after (s := s) rfl rfl
  generalize (s.droppedEntries l).foldl State.releaseStampOf _ = released at htold ⊢
  exact htold.trans (.of_same rfl rfl)

/-! ### Frames and reports -/

theorem State.handPresented_told (s : State) (w : Window) (f : ArmedFlip) : s.Told (s.handPresented w f) := by
  unfold State.handPresented
  (repeat' split)
  · exact s.handReserved_told _ _
  · exact s.handSilent_told _
  · exact .refl s

theorem State.takeFlip_told (s : State) (i : Slot) : s.Told (s.takeFlip i) := by
  unfold State.takeFlip
  split
  · exact .after (State.handPresented_told _ _ _) rfl rfl
  · exact .refl s

theorem State.updateMarks_told (s : State) : s.Told s.updateMarks := by
  unfold State.updateMarks
  refine .trans (t := s.markGlass) (.of_same ?_ s.markGlass_links) (.foldl State.releaseTest_told _ _)
  simp only [State.markGlass]

theorem State.noticeFrame_told (s : State) (l : Link) : s.Told (s.noticeFrame l) := by
  unfold State.noticeFrame
  split
  · exact s.handUnreserved_told _ _
  · exact .refl s

theorem State.frameParts_told (s : State) : s.Told s.frameParts := by
  unfold State.frameParts
  dsimp only
  have hflipped : s.Told ((List.finRange 32).foldl State.takeFlip (s.setScanout s.scanout.counted)) :=
    .after (.foldl State.takeFlip_told (List.finRange 32) (s.setScanout s.scanout.counted)) rfl rfl
  generalize (List.finRange 32).foldl State.takeFlip _ = flipped at hflipped ⊢
  have hlatched : flipped.Told flipped.latch := .of_same rfl rfl
  exact ((hflipped.trans hlatched).trans (State.updateMarks_told _)).trans (.foldl State.noticeFrame_told _ _)

theorem State.startFrame_told (s : State) : s.Told s.startFrame := s.frameParts_told.trans (State.scheduleAll_told _)

theorem State.applyContact_told (s : State) (es : List ReportEntry) (k : ContactNumber) :
    s.Told (s.applyContact es k) := by
  unfold State.applyContact State.contactDown State.contactMove State.contactUp
  dsimp only
  (repeat' split)
  all_goals first
    | exact .refl s
    | exact .of_same rfl rfl
    | exact .after (State.handTouch_told _ _ _ _ _) rfl rfl

theorem State.applyReport_told (s : State) (es : List ReportEntry) : s.Told (s.applyReport es) :=
  .foldl (fun t k => t.applyContact_told es k) _ s

/-! ### The start of a teardown -/

theorem State.orphanStamps_told (s : State) (l : Link) : s.Told (s.orphanStamps l) := .of_same (by simp) (by simp)

theorem State.endTest_told (s : State) (l : Link) : s.Told (s.endTest l) := .of_events (by simp) fun k => by simp

/-- A teardown empties its link's event queue; every other queue is claimed on while its link is UP (R151). -/
theorem State.startTeardown_events (s : State) (l : Link) (reason : EndReason) :
    (s.startTeardown l reason).eventsOf l = (s.eventsOf l).emptied ∧
      ∀ k, k ≠ l → (s.eventsOf k).Claimed ((s.startTeardown l reason).eventsOf k) ∧
        (s.isUp k = false → (s.startTeardown l reason).eventsOf k = s.eventsOf k) := by
  unfold State.startTeardown
  dsimp only
  generalize htorn : (s.link l).torn reason (s.ownedWindows l) (s.ownsEngine l) = torn
  have hstate : torn.state = .teardown := by rw [← htorn]; rfl
  have hup : ∀ k, ((s.setLink l torn).dropEvents l).isUp k = if k = l then false else s.isUp k := fun k => by
    simp only [State.dropEvents_frame]
    split
    · rename_i hk
      subst hk
      simp [State.isUp, hstate]
    · rename_i hk
      exact State.isUp_setLink_ne s l k _ hk
  have hevents : ∀ k, ((s.setLink l torn).dropEvents l).eventsOf k =
      if k = l then (s.eventsOf l).emptied else s.eventsOf k := fun k => by
    simp [State.dropEvents, State.eventsOf_setEvents]
  generalize (s.setLink l torn).dropEvents l = dropped at hup hevents ⊢
  have htold : dropped.Told ((((dropped.dropJobs l).orphanStamps l).teardownWindows l).endTest l) :=
    ((dropped.dropJobs_told l).trans (State.orphanStamps_told _ l)).trans
      ((State.teardownWindows_told _ l).trans (State.endTest_told _ l))
  refine ⟨?_, fun k hk => ⟨?_, fun hdown => ?_⟩⟩
  · rw [htold.quiet l (by simp [hup]), hevents, if_pos rfl]
  · have hclaimed := htold.claimed k
    rwa [hevents, if_neg hk] at hclaimed
  · rw [htold.quiet k (by rw [hup, if_neg hk, hdown]), hevents, if_neg hk]

/-! ### Every step -/

theorem EventLaw.of_told {s t : State} (h : EventLaw s) (ht : s.Told t) : EventLaw t :=
  fun l => (h l).claimed (ht.claimed l)

theorem EventLaw.of_same {s t : State} (h : EventLaw s) (ht : t.events = s.events) : EventLaw t := fun l => by
  rw [State.eventsOf, ht]
  exact h l

theorem EventLaw.setEvents {s : State} (h : EventLaw s) (l : Link) {q : EventQueue} (hq : q.Sound) :
    EventLaw (s.setEvents l q) := fun k => by
  rw [State.eventsOf_setEvents]
  split
  · exact hq
  · exact h k

theorem EventLaw.startTeardown {s : State} (h : EventLaw s) (l : Link) (reason : EndReason) :
    EventLaw (s.startTeardown l reason) := fun k => by
  obtain ⟨hown, hothers⟩ := s.startTeardown_events l reason
  by_cases hk : k = l
  · subst hk
    rw [hown]
    exact EventQueue.sound_empty _
  · exact (h k).claimed (hothers k hk).1

/-- In a sound queue the sent records are counted, so the oldest unsent one stands right behind them. -/
theorem EventQueue.Sound.sentCount_eq {q : EventQueue} (h : q.Sound) {old new : List EventRecord} {r : EventRecord}
    (hq : q.records = old ++ r :: new) (hold : ∀ x ∈ old, x.sent = true) (hr : r.sent = false) :
    q.sentCount = old.length := by
  have hheld := h.sentHeld
  rw [hq, List.length_append, List.length_cons] at hheld
  rcases Nat.lt_trichotomy q.sentCount old.length with hlt | heq | hgt
  · have hmem : old[q.sentCount] ∈ q.records.drop q.sentCount := by
      rw [hq, List.drop_append_of_le_length hlt.le]
      exact List.mem_append_left _ (by rw [List.drop_eq_getElem_cons hlt]; exact List.mem_cons_self)
    have := h.unsentNewest _ hmem
    rw [hold _ (List.getElem_mem hlt)] at this
    cases this
  · exact heq
  · have hmem : r ∈ q.records.take q.sentCount := by
      rw [hq, List.take_append, List.mem_append]
      right
      obtain ⟨n, hn⟩ : ∃ n, q.sentCount - old.length = n + 1 := ⟨q.sentCount - old.length - 1, by omega⟩
      rw [hn, List.take_succ_cons]
      exact List.mem_cons_self
    rw [h.sentOldest r hmem] at hr
    cases hr

theorem EventQueue.getElem_seq_congr {rs rs' : List EventRecord}
    (h : rs'.map EventRecord.seq = rs.map EventRecord.seq) (k : Nat) (hk : k < rs'.length) (hk' : k < rs.length) :
    rs'[k].seq = rs[k].seq := by
  have := congrArg (fun xs => xs[k]?) h
  simpa [hk, hk'] using this

theorem getLast?_filter_append_cons (p : EventRecord → Bool) (old new : List EventRecord) (r : EventRecord) :
    ((old ++ r :: new).filter p).getLast? =
      ((new.filter p).getLast?).or ((if p r then some r else none).or ((old.filter p).getLast?)) := by
  rw [List.filter_append, List.filter_cons, List.getLast?_append]
  split
  · rw [List.getLast?_cons]
    cases (new.filter p).getLast? <;> rfl
  · cases (new.filter p).getLast? <;> rfl

/-- A sound queue stays sound when its oldest unsent record is sent (R146). -/
theorem EventQueue.Sound.takeUnsent {q : EventQueue} (h : q.Sound) {e : EventRecord} {rs : List EventRecord}
    (hroom : q.sentCount < 8) (ht : takeUnsent q.records = some (e, rs)) :
    ({ q with records := rs, sentCount := q.sentCount + 1 } : EventQueue).Sound := by
  obtain ⟨old, r, new, hq, hold, hr, he, rfl⟩ := takeUnsent_eq_some ht
  rw [← he]
  have hsent : e.sent = true := by rw [he]
  have hcount := h.sentCount_eq hq hold hr
  have hlength : (old ++ e :: new).length = q.records.length := by simp [hq]
  have hseqs : (old ++ e :: new).map EventRecord.seq = q.records.map EventRecord.seq := by simp [hq, he]
  have htake : (old ++ e :: new).take (q.sentCount + 1) = old ++ [e] := by
    rw [hcount, List.take_append]
    simp
  have hdrop : (old ++ e :: new).drop (q.sentCount + 1) = new := by
    rw [hcount, List.drop_append]
    simp
  constructor
  case bounded => exact (congrArg (· + q.reserved) hlength).trans_le h.bounded
  case sentBounded => exact hroom
  case sentHeld =>
    show q.sentCount + 1 ≤ (old ++ e :: new).length
    simp [hcount]
  case sentOldest =>
    intro x hx
    rw [htake, List.mem_append, List.mem_singleton] at hx
    rcases hx with hx | rfl
    · exact hold x hx
    · exact hsent
  case unsentNewest =>
    intro x hx
    rw [hdrop] at hx
    refine h.unsentNewest x ?_
    rw [hq, hcount, List.drop_append]
    simp [hx]
  case consecutive =>
    intro k hk
    have hk' : k < q.records.length := hlength ▸ hk
    rw [EventQueue.getElem_seq_congr hseqs k hk hk', h.consecutive k hk', hlength]
  case lostBounded => exact h.lostBounded
  case lostWaits =>
    intro hlost
    obtain ⟨hfull, hlast⟩ := h.lostWaits hlost
    refine ⟨(congrArg (· + q.reserved) hlength).trans hfull, fun x hx => ?_⟩
    rw [hq, getLast?_filter_append_cons] at hlast
    rw [getLast?_filter_append_cons] at hx
    cases hn : (new.filter EventRecord.isLost).getLast? with
    | some y =>
      rw [hn] at hx hlast
      cases hx
      exact hlast _ rfl
    | none =>
      rw [hn, Option.none_or] at hx
      split at hx
      · cases hx
        exact hsent
      · rw [Option.none_or] at hx
        exact hold x (List.mem_of_mem_filter (List.mem_of_getLast? hx))

end Sys2Proof.Machine
end

section
/-! The event queues, continued: sending, acknowledging and sending again, and every step keeps the law (O53). What an accepted
OPEN_WINDOW or SUBMIT has passed is said here too. -/

namespace Sys2Proof.Machine

open Sys2Proof

/-! ### What accepted commands have passed -/

/-- An OPEN_WINDOW that passes tests 2 to 7 of R4 finds room in the event queue, in its quota and in the free set. -/
theorem State.openRefusal_eq_none {s : State} {l : Link} {r : OpenRequest} (h : s.openRefusal l r = none) :
    (s.eventsOf l).records.length + (s.eventsOf l).reserved < 64 ∧
      (s.pins.pool = false → s.pool.held.get l + r.pages ≤ 1024) ∧ r.pages ≤ s.pool.free.length := by
  rw [State.openRefusal_eq] at h
  split_ifs at h with htier hslot hevents hquota hfull hbusy
  refine ⟨by omega, fun heven => ?_, by omega⟩
  have := mt (And.intro heven) hquota
  omega

theorem State.submitRefusal_eq_none {s : State} {l : Link} {op : JobOp} (h : s.submitRefusal l op = none) :
    s.windowRefusal l op = none ∧ s.stampRefusal l op = none ∧ s.roomRefusal l op = none := by
  unfold State.submitRefusal at h
  split at h
  · cases h
  · rename_i hwindow
    split at h
    · cases h
    · rename_i hstamp
      exact ⟨hwindow, hstamp, h⟩

/-- A SUBMIT that passes tests 10 to 13 of R76 finds room in the job queue, in the staging and in the event queue. -/
theorem State.roomRefusal_eq_none {s : State} {l : Link} {op : JobOp} (h : s.roomRefusal l op = none) :
    (s.queue l).entries.length < 16 ∧ (s.queue l).staging + op.staging ≤ 16384 ∧
      (s.eventsOf l).records.length + (s.eventsOf l).reserved < 64 := by
  unfold State.roomRefusal at h
  split_ifs at h with hinside hqueue hstaging hevents
  rw [EventQueue.hasRoom_eq_false_iff] at hevents
  simp only [Config.queueLimit, Config.stagingLimit] at hqueue hstaging
  omega

/-! ### Acknowledging and sending again -/

/-- A sent record of a sound queue is among the counted ones, and so are those before it. -/
theorem EventQueue.Sound.length_le_sentCount {q : EventQueue} (h : q.Sound) {old rest : List EventRecord}
    {r : EventRecord} (hq : q.records = old ++ r :: rest) (hr : r.sent = true) : old.length + 1 ≤ q.sentCount := by
  by_contra hlt
  have hmem : r ∈ q.records.drop q.sentCount := by
    rw [hq, List.drop_append_of_le_length (by omega)]
    simp
  rw [h.unsentNewest r hmem] at hr
  cases hr

theorem EventQueue.Sound.retired {q : EventQueue} (h : q.Sound) {seq : Half} {gone rest : List EventRecord}
    (hsplit : splitAcked seq q.records = some (gone, rest)) : (q.retired gone rest).Sound := by
  obtain ⟨hq, old, r, rfl, -, hsent, -⟩ := splitAcked_eq_some hsplit
  have hcount := h.length_le_sentCount (old := old) (rest := rest) (hq.trans (by simp)) hsent
  generalize hgone : old ++ [r] = gone at hq ⊢
  have hlength : gone.length = old.length + 1 := by simp [← hgone]
  refine EventQueue.Held.reportLost ⟨?_, ?_, ?_, fun x hx => ?_, fun x hx => ?_, fun k hk => ?_, h.lostBounded⟩
  · have := h.bounded
    rw [hq, List.length_append] at this
    simp only
    omega
  · exact (Nat.sub_le _ _).trans h.sentBounded
  · have := h.sentHeld
    rw [hq, List.length_append] at this
    simp only
    omega
  · refine h.sentOldest x ?_
    rw [hq, List.take_append]
    exact List.mem_append_right _ hx
  · refine h.unsentNewest x ?_
    rw [hq, List.drop_append]
    exact List.mem_append_right _ hx
  · have hseq := h.consecutive (gone.length + k) (by rw [hq, List.length_append]; exact Nat.add_lt_add_left hk _)
    simp only [hq, List.getElem_append_right (Nat.le_add_right _ _), Nat.add_sub_cancel_left, List.length_append,
      Nat.add_sub_add_left] at hseq
    exact hseq

theorem EventQueue.Sound.resend {q : EventQueue} (h : q.Sound) : q.resend.Sound := by
  refine EventQueue.Held.reportLost ⟨?_, Nat.zero_le _, Nat.zero_le _, by simp, fun x hx => ?_, fun k hk => ?_, h.lostBounded⟩
  · simpa using h.bounded
  · obtain ⟨y, -, rfl⟩ := List.mem_map.1 (List.mem_of_mem_drop hx)
    rfl
  · have hk' : k < q.records.length := by simpa using hk
    simpa [EventRecord.unsent] using h.consecutive k hk'

/-! ### Every step -/

theorem EventLaw.transmit {s : State} (h : EventLaw s) (l : Link) : EventLaw (s.transmit l) := by
  unfold State.transmit
  dsimp only
  split
  · split
    · exact h.of_same rfl
    · split
      · rename_i hroom
        split
        · rename_i e records htaken
          exact EventLaw.setEvents (h.of_same rfl) l ((h l).takeUnsent hroom.2 htaken)
        · exact h
      · exact h
  · exact h
  · exact h

theorem State.freeOrRetire_events (s : State) (l : Link) (h : StampHandle) :
    (s.freeOrRetire l h).state.events = s.events := by
  unfold State.freeOrRetire
  split <;> rfl

theorem State.admitJob_events (s : State) (l : Link) (j : Job) :
    (s.admitJob l j).events = s.events.set l (s.eventsOf l).reserve := by
  unfold State.admitJob State.referStamp State.takeReservation
  split <;> simp

theorem State.hidden_told (s : State) (h : Handle) : s.Told (s.hidden h) := by
  unfold State.hidden
  split
  · exact .after (State.cancelCaptures_told _ _ _) rfl rfl
  · exact .refl s

theorem eventLaw_kept : KeptByParts EventLaw where
  answers _ _ _ h _ := h.of_same rfl
  renews _ _ h := h.of_same rfl
  executes _ _ _ _ _ _ h _ _ := h.of_same rfl
  transmits s l h := h.transmit l
  ends s l reason _ h := (h.startTeardown l reason).of_told (State.scheduleAll_told _)
  pinReset s pins _ := (s.atReset_afterPinReset pins).eventLaw
  resetRelease _ _ h := h.of_same rfl
  scrubs _ _ _ _ _ _ h := h.of_same rfl
  begins s l seq lease h _ _ _ _ := by
    unfold State.beginSession
    exact EventLaw.setEvents (h.of_same rfl) l (EventQueue.sound_empty _)
  goodbye _ _ h _ := h.of_same rfl
  notify _ _ _ h := h.of_same rfl
  idles _ _ h := h.of_same rfl
  ticks _ _ h _ := h.of_same rfl
  retires s l seq gone rest h hsplit := by
    unfold State.retire
    exact EventLaw.setEvents (h.of_same rfl) l ((h l).retired hsplit)
  resends s l h _ := h.setEvents l (h l).resend
  opens s l r i _ h _ hpasses _ := by
    unfold State.openIn State.takeReservation
    exact EventLaw.setEvents (h.of_same rfl) l ((h l).reserve (State.openRefusal_eq_none hpasses).1)
  closes s l g _ h _ _ := h.of_told ((s.enterClosing_told g.slot .owner).trans (State.scheduleAll_told _))
  restyles _ _ _ _ h _ _ := h.of_same rfl
  shows _ _ _ _ h _ _ := h.of_same rfl
  hides s l g h _ := h.of_told (s.hidden_told g)
  submits s l j h _ hpasses := by
    obtain ⟨-, -, hroom⟩ := State.submitRefusal_eq_none hpasses
    obtain ⟨-, -, hevents⟩ := State.roomRefusal_eq_none hroom
    have hadmitted : EventLaw (s.admitJob l j) :=
      (h.setEvents l ((h l).reserve hevents)).of_same (s.admitJob_events l j)
    exact hadmitted.of_told (State.schedule_told _ l)
  loads _ _ _ _ h _ _ _ := h.of_same rfl
  reloads _ _ _ _ h _ := h.of_same rfl
  frees s l g h _ := h.of_same (s.freeOrRetire_events l g)
  rowEnds s f _ h _ := h.of_told (s.endRow_told f)
  frameStarts s _ h := h.of_told s.startFrame_told
  reports s es h := h.of_told (s.applyReport_told es)

/-- Settles O53: `eventLaw_kept`. -/
theorem eventLawKept : Obligations.EventLawKept := fun _ _ hs ht =>
  eventLaw_kept.step (fun _ _ h => h.of_same rfl) hs ht

end Sys2Proof.Machine
end

section
/-! The transmitters: a rule that reaches one link lets that link's transmitter choose, a rule that may reach any lets all choose,
and so every step keeps the law of the transmitters (O60). -/

namespace Sys2Proof.Machine

open Sys2Proof

/-! ### Rules that reach one link -/

/-- The states agree in the controllers and event queues of every link but l. -/
def State.SameElsewhere (l : Link) (s t : State) : Prop :=
  ∀ k, k ≠ l → t.link k = s.link k ∧ t.eventsOf k = s.eventsOf k

section
variable {s t u : State} {l : Link}

theorem State.SameElsewhere.refl (l : Link) (s : State) : s.SameElsewhere l s := fun _ _ => ⟨rfl, rfl⟩

theorem State.SameElsewhere.trans (h : s.SameElsewhere l t) (h' : t.SameElsewhere l u) : s.SameElsewhere l u :=
  fun k hk => ⟨(h' k hk).1.trans (h k hk).1, (h' k hk).2.trans (h k hk).2⟩

theorem State.SameElsewhere.of_same (hlinks : t.links = s.links) (hevents : t.events = s.events) :
    s.SameElsewhere l t := fun k _ =>
  ⟨by rw [State.link, State.link, hlinks], by rw [State.eventsOf, State.eventsOf, hevents]⟩

theorem State.sameElsewhere_setLink (s : State) (l : Link) (c : LinkCtl) : s.SameElsewhere l (s.setLink l c) :=
  fun k hk => ⟨by simp [hk], rfl⟩

theorem State.sameElsewhere_setEvents (s : State) (l : Link) (q : EventQueue) : s.SameElsewhere l (s.setEvents l q) :=
  fun k hk => ⟨rfl, by simp [hk]⟩

/-- Where a rule reaches one link, the choice of that link's transmitter is enough. -/
theorem TransmitterLaw.transmit (h : TransmitterLaw s) (helsewhere : s.SameElsewhere l t) :
    TransmitterLaw (t.transmit l) := fun k => by
  by_cases hk : k = l
  · subst hk
    exact t.settled_transmit k
  · obtain ⟨hlink, hevents⟩ := helsewhere k hk
    exact (t.settled_transmit_ne hk).2 ((State.settled_congr hlink hevents).2 (h k))

theorem transmitterLaw_transmitAll (s : State) : TransmitterLaw s.transmitAll := s.settled_transmitAll

/-- What a sound frame leads to, where the command's own block reaches its own link alone. -/
theorem TransmitterLaw.taken {seq code : Byte} {body : State → Reply} (h : TransmitterLaw s)
    (ht : FrameTaken s l seq code body t) (hbody : ∀ u : State, u.SameElsewhere l (body u).state) :
    TransmitterLaw (t.transmit l) := by
  cases ht with
  | discarded => exact h.transmit (.refl l s)
  | outside r _ => exact h.transmit (s.sameElsewhere_setLink l _)
  | fault _ => exact (transmitterLaw_transmitAll _).transmit (.refl l _)
  | again r _ _ => exact h.transmit ((s.sameElsewhere_setLink l _).trans (State.sameElsewhere_setLink _ l _))
  | executed _ _ _ _ =>
    exact h.transmit (((s.sameElsewhere_setLink l _).trans (hbody _)).trans (State.sameElsewhere_setLink _ l _))

theorem TransmitterLaw.command {seq code : Byte} {body : State → Reply} (h : TransmitterLaw s)
    (hbody : ∀ u : State, u.SameElsewhere l (body u).state) : TransmitterLaw (s.command l seq code body) := by
  unfold State.command
  split
  · exact h.taken (s.takeFrame_taken l seq code body) hbody
  · exact h

theorem TransmitterLaw.commandAll {seq code : Byte} {body : State → Reply} (h : TransmitterLaw s) :
    TransmitterLaw (s.commandAll l seq code body) := by
  unfold State.commandAll
  split
  · exact transmitterLaw_transmitAll _
  · exact h

end

/-! ### The commands that reach one link -/

theorem State.handTouch_sameElsewhere {s : State} {l : Link} {h : Handle} (howner : (s.window h.slot).owner = some l)
    (kind : TouchKind) (k : ContactNumber) (p : Pos) : s.SameElsewhere l (s.handTouch kind k h p) := by
  unfold State.handTouch State.handUnreserved
  rw [howner]
  dsimp only
  split
  · exact s.sameElsewhere_setEvents l _
  · exact .refl l s

theorem State.cancelCaptures_sameElsewhere {s : State} {l : Link} {h : Handle}
    (howner : (s.window h.slot).owner = some l) (send : Bool) : s.SameElsewhere l (s.cancelCaptures h send) := by
  refine (foldl_keeps (fun t => (t.window h.slot).owner = some l ∧ s.SameElsewhere l t)
    (fun t k => t.cancelCapture h send k) (fun t k ⟨ht, hsame⟩ => ⟨by simpa using ht, hsame.trans ?_⟩) _
    ⟨howner, .refl l s⟩).2
  unfold State.cancelCapture
  dsimp only
  split
  · split
    · exact (State.handTouch_sameElsewhere ht _ k _).trans (.of_same rfl rfl)
    · exact .of_same rfl rfl
  · exact .refl l t

theorem State.hidden_sameElsewhere {s : State} {l : Link} {h : Handle} (howner : (s.window h.slot).owner = some l) :
    s.SameElsewhere l (s.hidden h) := by
  unfold State.hidden
  split
  · have hset : s.SameElsewhere l ((s.setStack (s.stack.filter fun j => decide (j ≠ h.slot))).setWindow h.slot
        { s.window h.slot with state := .hidden }) := .of_same rfl rfl
    have howner' : (((s.setStack (s.stack.filter fun j => decide (j ≠ h.slot))).setWindow h.slot
        { s.window h.slot with state := .hidden }).window h.slot).owner = some l := by simp [howner]
    generalize (s.setStack _).setWindow h.slot _ = d at hset howner' ⊢
    exact hset.trans (State.cancelCaptures_sameElsewhere howner' true)
  · exact .refl l s

/-- A reply that leaves the state, or leaves it as a change of its own link's parts does. -/
theorem Reply.sameElsewhere {l : Link} {u : State} {r : Reply} {P : Prop} (h : r.state = u ∨ P)
    (hP : P → u.SameElsewhere l r.state) : u.SameElsewhere l r.state := by
  rcases h with h | h
  · rw [h]
    exact .refl l u
  · exact hP h

theorem TransmitterLaw.restyle {s : State} {l : Link} {seq code : Byte} {p : List Byte} {body : State → Reply}
    (h : TransmitterLaw s) (hbody : body = moveReply l p ∨ body = lookReply l p ∨ body = touchReply l p ∨ body = grantReply l p) :
    TransmitterLaw (s.command l seq code body) := by
  refine h.command fun u => Reply.sameElsewhere (restyleReply_state l p u body hbody) ?_
  rintro ⟨g, w, -, -, heq⟩
  rw [heq]
  exact .of_same rfl rfl

/-! ### Every step -/

theorem TransmitterLaw.of_same {s t : State} (h : TransmitterLaw s) (hlinks : t.links = s.links)
    (hevents : t.events = s.events) : TransmitterLaw t := fun l =>
  (State.settled_congr (by rw [State.link, State.link, hlinks]) (by rw [State.eventsOf, State.eventsOf, hevents])).2 (h l)

theorem TransmitterLaw.exec {s t : State} {c : Instr} (h : TransmitterLaw s) (ht : exec c s = .next t) :
    TransmitterLaw t := by
  cases c with
  | pinReset pins => cases ht; exact (s.atReset_afterPinReset pins).transmitterLaw
  | resetRelease =>
    cases ht
    split
    · exact h
    · exact h.of_same rfl rfl
  | scrubCompletion =>
    cases ht
    split
    · split
      · exact h.of_same rfl rfl
      · exact h
    · exact h
  | checkFailed l =>
    cases ht
    split
    · exact h.taken (s.answerOutside_taken l _ _ .checkFailed (fun t => .refuse t .ok) 0 0) fun u => .refl l u
    · exact h
  | badCommand l seq code => cases ht; exact h.command fun u => .refl l u
  | hello l seq p =>
    cases ht
    split
    · rcases s.takeHello_taken l seq p with htaken | ⟨lease, -, -, -, -, heq⟩
      · exact h.taken htaken fun u => .refl l u
      · rw [heq]
        unfold State.beginSession
        exact h.transmit ((s.sameElsewhere_setLink l _).trans (State.sameElsewhere_setEvents _ l _))
    · exact h
  | goodbye l seq => cases ht; exact h.command fun u => u.sameElsewhere_setLink l _
  | ping l seq => cases ht; exact h.command fun u => .refl l u
  | setNotify l seq p =>
    cases ht
    refine h.command fun u => Reply.sameElsewhere (notifyReply_state l p u) ?_
    rintro ⟨on, heq⟩
    rw [heq]
    exact u.sameElsewhere_setLink l _
  | status l seq => cases ht; exact h.command fun u => .refl l u
  | ackEvents l seq p =>
    cases ht
    refine h.command fun u => Reply.sameElsewhere (ackReply_state l p u) ?_
    rintro ⟨n, gone, rest, -, heq⟩
    rw [heq]
    unfold State.retire
    exact .trans (t := u.setQueue l _) (.of_same rfl rfl) (State.sameElsewhere_setEvents _ l _)
  | resendEvents l seq => cases ht; exact h.command fun u => u.sameElsewhere_setEvents l _
  | openWindow l seq p =>
    cases ht
    refine h.command fun u => Reply.sameElsewhere (openReply_state l p u) ?_
    rintro ⟨r, i, -, -, heq⟩
    rw [heq]
    unfold State.openIn State.takeReservation
    exact .trans (t := (u.setWindow i _).setPool _) (.of_same rfl rfl) (State.sameElsewhere_setEvents _ l _)
  | closeWindow l seq p => cases ht; exact h.commandAll
  | moveWindow l seq p => cases ht; exact h.restyle (.inl rfl)
  | setLook l seq p => cases ht; exact h.restyle (.inr (.inl rfl))
  | setTouch l seq p => cases ht; exact h.restyle (.inr (.inr (.inl rfl)))
  | grant l seq p => cases ht; exact h.restyle (.inr (.inr (.inr rfl)))
  | windowInfo l seq p => cases ht; exact h.command fun u => Reply.sameElsewhere (.inl (infoReply_state p u)) False.elim
  | showWindow l seq p =>
    cases ht
    refine h.command fun u => Reply.sameElsewhere (showReply_state l p u) ?_
    rintro ⟨g, place, -, -, heq⟩
    rw [heq]
    exact .of_same rfl rfl
  | hide l seq p =>
    cases ht
    refine h.command fun u => Reply.sameElsewhere (hideReply_state l p u) ?_
    rintro ⟨g, hpasses, heq⟩
    rw [heq]
    exact State.hidden_sameElsewhere (State.changeRefusal_eq_none hpasses).2.2.2
  | submit l seq p => cases ht; exact h.commandAll
  | rowEnd =>
    cases ht
    split
    · split
      · exact transmitterLaw_transmitAll _
      · exact h
    · exact h
  | loadStamp l seq p =>
    cases ht
    refine h.command fun u => Reply.sameElsewhere (loadReply_state l p u) ?_
    rintro ⟨r, i, -, -, heq⟩
    rw [heq]
    exact .of_same rfl rfl
  | reloadStamp l seq p =>
    cases ht
    refine h.command fun u => Reply.sameElsewhere (reloadReply_state l p u) ?_
    rintro ⟨g, data, -, heq⟩
    rw [heq]
    exact .of_same rfl rfl
  | freeStamp l seq p =>
    cases ht
    refine h.command fun u => Reply.sameElsewhere (freeReply_state l p u) ?_
    rintro ⟨g, -, heq⟩
    rw [heq]
    exact .of_same (u.freeOrRetire_links l g) (u.freeOrRetire_events l g)
  | frameStart =>
    cases ht
    split
    · exact transmitterLaw_transmitAll _
    · exact h
  | contactReport bytes =>
    cases ht
    split
    · split
      · exact transmitterLaw_transmitAll _
      · exact h
    · exact h
  | leaseExpiry l =>
    cases ht
    split
    · exact transmitterLaw_transmitAll _
    · exact h
  | transmitCompletion l =>
    cases ht
    split
    · dsimp only
      split
      · exact transmitterLaw_transmitAll _
      · exact h.transmit (s.sameElsewhere_setLink l _)
    · exact h

/-- Settles O60: after a step of the millisecond every transmitter has chosen, and every command keeps the law
(`TransmitterLaw.exec`). -/
theorem transmitterLawKept : Obligations.TransmitterLawKept := by
  intro s t hs ht
  unfold Machine.step at ht
  split at ht
  · cases ht
    unfold State.idleTick
    split
    · exact transmitterLaw_transmitAll _
    · exact hs
  · refine TransmitterLaw.exec ?_ ht
    exact hs.of_same rfl rfl

end Sys2Proof.Machine
end

section
/-! The link controllers: what the reports to teardown records make of them, and that every step keeps their law (O54). -/

namespace Sys2Proof.Machine

open Sys2Proof

/-! ### The reports to a teardown record, on a controller -/

/-- The end test on a controller (R171, R172). -/
def LinkCtl.endTested (c : LinkCtl) : LinkCtl :=
  if c.state = .teardown ∧ c.toRelease = 0 ∧ c.jobPending = false then { c with state := .down } else c

/-- The controller once a release is reported (R169); the end test follows. -/
def LinkCtl.releaseReported (c : LinkCtl) : LinkCtl := { c with toRelease := c.toRelease - 1 }.endTested

/-- The controller once its job in flight is reported to have ended (R93). -/
def LinkCtl.jobEndReported (c : LinkCtl) : LinkCtl := { c with jobPending := false }.endTested

theorem State.endTest_link (s : State) (l k : Link) :
    (s.endTest l).link k = if k = l then (s.link l).endTested else s.link k := by
  unfold State.endTest LinkCtl.endTested
  dsimp only
  split
  · exact State.link_setLink s l k _
  · split
    · rename_i hk
      rw [hk]
    · rfl

theorem State.reportRelease_link (s : State) (l k : Link) :
    (s.reportRelease l).link k = if k = l then (s.link l).releaseReported else s.link k := by
  unfold State.reportRelease
  rw [State.endTest_link, State.link_setLink_self, State.link_setLink]
  split <;> rfl

theorem State.reportJobEnd_link (s : State) (l k : Link) :
    (s.reportJobEnd l).link k = if k = l then (s.link l).jobEndReported else s.link k := by
  unfold State.reportJobEnd
  rw [State.endTest_link, State.link_setLink_self, State.link_setLink]
  split <;> rfl

/-- What reported releases and a reported job end make of a controller. -/
inductive LinkCtl.Reported (c : LinkCtl) : LinkCtl → Prop where
  | refl : c.Reported c
  | release {d : LinkCtl} : c.Reported d → c.Reported d.releaseReported
  | jobEnd {d : LinkCtl} : c.Reported d → c.Reported d.jobEndReported

theorem LinkCtl.Reported.trans {c d e : LinkCtl} (h : c.Reported d) (h' : d.Reported e) : c.Reported e := by
  induction h' with
  | refl => exact h
  | release _ ih => exact ih.release
  | jobEnd _ ih => exact ih.jobEnd

/-! ### The law but for what a teardown waits for -/

/-- The law of a controller, but for a teardown that waits for nothing: an end test is still to come. -/
structure LinkCtl.Awaiting (c : LinkCtl) : Prop where
  backlogBounded : c.backlog.length ≤ 4
  cacheBounded : c.cache.length ≤ 4
  cacheInSession : c.state ≠ .up → c.cache = []
  goodbyeInUp : c.goodbye = true → c.state = .up
  timerRuns : c.timer.isSome = true ↔ c.state = .up ∧ c.goodbye = false
  timerWithinLease : ∀ t, c.timer = some t → ∃ lease, c.lease = some lease ∧ 10 ≤ lease ∧ lease ≤ 2000 ∧ t ≤ lease
  recordAtRest : c.state ≠ .teardown → c.toRelease = 0 ∧ c.jobPending = false

theorem LinkCtl.sound_iff {c : LinkCtl} :
    c.Sound ↔ c.Awaiting ∧ (c.state = .teardown → c.toRelease ≠ 0 ∨ c.jobPending = true) :=
  ⟨fun h => ⟨⟨h.backlogBounded, h.cacheBounded, h.cacheInSession, h.goodbyeInUp, h.timerRuns, h.timerWithinLease,
      h.recordAtRest⟩, h.waitsForSomething⟩,
    fun ⟨h, hwaits⟩ => ⟨h.backlogBounded, h.cacheBounded, h.cacheInSession, h.goodbyeInUp, h.timerRuns,
      h.timerWithinLease, h.recordAtRest, hwaits⟩⟩

/-- The end test leaves a controller that waits for something, or is not in TEARDOWN. -/
theorem LinkCtl.Awaiting.endTested {c : LinkCtl} (h : c.Awaiting) : c.endTested.Sound := by
  unfold LinkCtl.endTested
  split
  · rename_i htest
    obtain ⟨htorn, hrelease, hjob⟩ := htest
    refine ⟨h.backlogBounded, h.cacheBounded, fun _ => h.cacheInSession (by simp [htorn]), fun hg => ?_, ?_,
      h.timerWithinLease, fun _ => ⟨hrelease, hjob⟩, nofun⟩
    · exact absurd (h.goodbyeInUp hg) (by simp [htorn])
    · simpa [htorn] using h.timerRuns
  · rename_i htest
    refine LinkCtl.sound_iff.2 ⟨h, fun htorn => ?_⟩
    by_contra hnothing
    rw [not_or, not_not, Bool.not_eq_true] at hnothing
    exact htest ⟨htorn, hnothing⟩

theorem LinkCtl.Awaiting.releaseReported {c : LinkCtl} (h : c.Awaiting) : c.releaseReported.Sound :=
  LinkCtl.Awaiting.endTested ⟨h.backlogBounded, h.cacheBounded, h.cacheInSession, h.goodbyeInUp, h.timerRuns,
    h.timerWithinLease, fun hs => ⟨by simp [(h.recordAtRest hs).1], (h.recordAtRest hs).2⟩⟩

theorem LinkCtl.Awaiting.jobEndReported {c : LinkCtl} (h : c.Awaiting) : c.jobEndReported.Sound :=
  LinkCtl.Awaiting.endTested ⟨h.backlogBounded, h.cacheBounded, h.cacheInSession, h.goodbyeInUp, h.timerRuns,
    h.timerWithinLease, fun hs => ⟨(h.recordAtRest hs).1, rfl⟩⟩

theorem LinkCtl.Sound.awaiting {c : LinkCtl} (h : c.Sound) : c.Awaiting := (LinkCtl.sound_iff.1 h).1

theorem LinkCtl.Awaiting.reported {c d : LinkCtl} (h : c.Awaiting) (hd : c.Reported d) : d.Awaiting := by
  induction hd with
  | refl => exact h
  | release _ ih => exact ih.releaseReported.awaiting
  | jobEnd _ ih => exact ih.jobEndReported.awaiting

theorem LinkCtl.Sound.reported {c d : LinkCtl} (h : c.Sound) (hd : c.Reported d) : d.Sound := by
  induction hd with
  | refl => exact h
  | release _ ih => exact ih.awaiting.releaseReported
  | jobEnd _ ih => exact ih.awaiting.jobEndReported

/-! ### The rules that report -/

/-- From s to t the controllers change at most by reports to their teardown records. -/
def State.Reports (s t : State) : Prop := ∀ k, (s.link k).Reported (t.link k)

section
variable {s t u : State}

theorem State.Reports.refl (s : State) : s.Reports s := fun _ => .refl

theorem State.Reports.trans (h : s.Reports t) (h' : t.Reports u) : s.Reports u := fun k => (h k).trans (h' k)

theorem State.Reports.of_links (h : t.links = s.links) : s.Reports t := fun k => by
  rw [State.link, State.link, h]
  exact .refl

/-- What is reported after changes outside the controllers. -/
theorem State.Reports.after (h : t.Reports u) (hlinks : t.links = s.links) : s.Reports u :=
  (State.Reports.of_links hlinks).trans h

theorem State.Reports.foldl {α : Type} {f : State → α → State} (h : ∀ (t : State) x, t.Reports (f t x)) (xs : List α)
    (s : State) : s.Reports (xs.foldl f s) :=
  foldl_keeps (fun t => s.Reports t) f (fun t x ht => ht.trans (h t x)) xs (.refl s)

end

theorem State.reportRelease_reports (s : State) (l : Link) : s.Reports (s.reportRelease l) := fun k => by
  rw [State.reportRelease_link]
  split
  · rename_i hk
    rw [hk]
    exact .release .refl
  · exact .refl

theorem State.reportJobEnd_reports (s : State) (l : Link) : s.Reports (s.reportJobEnd l) := fun k => by
  rw [State.reportJobEnd_link]
  split
  · rename_i hk
    rw [hk]
    exact .jobEnd .refl
  · exact .refl

theorem State.release_reports (s : State) (i : Slot) : s.Reports (s.release i) := by
  unfold State.release
  dsimp only
  generalize hfreed : (s.setWindow i _).setPool _ = freed
  have hlinks : freed.links = s.links := by rw [← hfreed]; rfl
  split
  · exact .of_links ((freed.handReserved_frame _ _).2.2.2.2.2.2.2.2.2.2.2.2.2.2.1.trans hlinks)
  · exact .after (freed.reportRelease_reports _) hlinks
  · exact .of_links hlinks

theorem State.releaseTest_reports (s : State) (i : Slot) : s.Reports (s.releaseTest i) := by
  rw [State.releaseTest_eq]
  split
  · exact s.release_reports i
  · exact .refl s

theorem State.enterClosing_reports (s : State) (i : Slot) (reason : CloseReason) :
    s.Reports (s.enterClosing i reason) := by
  unfold State.enterClosing
  dsimp only
  exact .after (State.releaseTest_reports _ i) (by simp)

theorem State.teardownWindow_reports (l : Link) (s : State) (i : Slot) : s.Reports (State.teardownWindow l s i) := by
  unfold State.teardownWindow
  dsimp only
  (repeat' split)
  · exact s.enterClosing_reports i _
  · exact .of_links rfl
  · exact .refl s
  · exact .refl s

theorem State.teardownWindows_reports (s : State) (l : Link) : s.Reports (s.teardownWindows l) := by
  unfold State.teardownWindows
  exact (State.Reports.foldl (State.teardownWindow_reports l) (List.finRange 32)
    { s with windows := s.windows.map fun w => w.withoutGrant l }).after (by simp only)

theorem State.completeInFlight_reports (s : State) (f : InFlight) (e : Ending) : s.Reports (s.completeInFlight f e) := by
  unfold State.completeInFlight
  dsimp only
  have htested := (State.Reports.foldl State.releaseTest_reports f.slots
    ((s.completeHead f.link f.job e f.result).setEngine none)).after (s := s) (by simp)
  generalize f.slots.foldl State.releaseTest _ = tested at htested ⊢
  split
  · exact htested.trans (tested.reportJobEnd_reports _)
  · exact htested

theorem State.schedule_reports (s : State) (l : Link) : s.Reports (s.schedule l) := .of_links (by simp)

theorem State.endRow_reports (s : State) (f : InFlight) : s.Reports (s.endRow f) := by
  unfold State.endRow
  dsimp only
  have hdrawn : s.Reports (s.drawRow f) := .of_links rfl
  refine hdrawn.trans ?_
  generalize s.drawRow f = d
  (repeat' split)
  · exact (d.completeInFlight_reports _ _).trans (State.schedule_reports _ _)
  · exact (d.completeInFlight_reports _ _).trans (State.schedule_reports _ _)
  · exact .of_links rfl

theorem State.updateMarks_reports (s : State) : s.Reports s.updateMarks := by
  unfold State.updateMarks
  exact (State.Reports.foldl State.releaseTest_reports _ _).after s.markGlass_links

theorem State.startFrame_reports (s : State) : s.Reports s.startFrame := by
  unfold State.startFrame State.frameParts
  dsimp only
  have hflipped : s.Reports ((List.finRange 32).foldl State.takeFlip (s.setScanout s.scanout.counted)).latch :=
    .of_links (by simp [State.latch])
  generalize ((List.finRange 32).foldl State.takeFlip _).latch = latched at hflipped ⊢
  have hmarked := hflipped.trans latched.updateMarks_reports
  generalize latched.updateMarks = marked at hmarked ⊢
  exact hmarked.trans (.of_links (by simp))

/-! ### The start of a teardown -/

theorem LinkCtl.torn_awaiting (c : LinkCtl) (reason : EndReason) (n : Nat) (job : Bool) :
    (c.torn reason n job).Awaiting := by
  constructor <;> simp [LinkCtl.torn]

/-- A teardown's own controller is torn, takes reports, and meets the end test; the others take reports at most. -/
theorem State.startTeardown_link (s : State) (l : Link) (reason : EndReason) :
    (∃ d, ((s.link l).torn reason (s.ownedWindows l) (s.ownsEngine l)).Reported d ∧
      (s.startTeardown l reason).link l = d.endTested) ∧
    ∀ k, k ≠ l → (s.link k).Reported ((s.startTeardown l reason).link k) := by
  unfold State.startTeardown
  dsimp only
  generalize (s.link l).torn reason (s.ownedWindows l) (s.ownsEngine l) = torn
  have hlinks : ∀ k, ((((s.setLink l torn).dropEvents l).dropJobs l).orphanStamps l).link k = (s.setLink l torn).link k :=
    fun k => by simp only [State.orphanStamps_frame, State.dropJobs_frame, State.dropEvents_frame]
  generalize (((s.setLink l torn).dropEvents l).dropJobs l).orphanStamps l = dropped at hlinks ⊢
  have hreports := dropped.teardownWindows_reports l
  refine ⟨⟨(dropped.teardownWindows l).link l, ?_, by rw [State.endTest_link, if_pos rfl]⟩, fun k hk => ?_⟩
  · have := hreports l
    rwa [hlinks, State.link_setLink_self] at this
  · have := hreports k
    rw [hlinks, State.link_setLink_ne _ _ _ _ hk] at this
    rwa [State.endTest_link, if_neg hk]

/-! ### Every step -/

theorem LinkLaw.of_reports {s t : State} (h : LinkLaw s) (ht : s.Reports t) : LinkLaw t := fun l => (h l).reported (ht l)

theorem LinkLaw.of_links {s t : State} (h : LinkLaw s) (ht : t.links = s.links) : LinkLaw t := h.of_reports (.of_links ht)

theorem LinkLaw.setLink {s : State} (h : LinkLaw s) (l : Link) {c : LinkCtl} (hc : (s.link l).Sound → c.Sound) :
    LinkLaw (s.setLink l c) := fun k => by
  rw [State.link_setLink]
  split
  · exact hc (h l)
  · exact h k

theorem LinkLaw.startTeardown {s : State} (h : LinkLaw s) (l : Link) (reason : EndReason) :
    LinkLaw (s.startTeardown l reason) := fun k => by
  obtain ⟨⟨d, hd, hown⟩, hothers⟩ := s.startTeardown_link l reason
  by_cases hk : k = l
  · subst hk
    rw [hown]
    exact ((LinkCtl.torn_awaiting _ _ _ _).reported hd).endTested
  · exact (h k).reported (hothers k hk)

theorem cached_length_le (cache : List (Byte × Response)) (e : Byte × Response) : (cached cache e).length ≤ 4 := by
  simp only [cached, List.length_drop, Config.backlogLimit]
  omega

/-- The transmitter's choice takes at most a response from the backlog. -/
theorem LinkCtl.Sound.shortened {c : LinkCtl} (h : c.Sound) (tx : Transmitter) {backlog : List Response}
    (hb : backlog.length ≤ c.backlog.length) : ({ c with tx := tx, backlog := backlog } : LinkCtl).Sound :=
  ⟨hb.trans h.backlogBounded, h.cacheBounded, h.cacheInSession, h.goodbyeInUp, h.timerRuns, h.timerWithinLease,
    h.recordAtRest, h.waitsForSomething⟩

theorem LinkLaw.transmit {s : State} (h : LinkLaw s) (l : Link) : LinkLaw (s.transmit l) := by
  unfold State.transmit
  dsimp only
  split
  · split
    · rename_i r rest hbacklog
      exact h.setLink l fun hc => hc.shortened _ (by simp [hbacklog])
    · split
      · split
        · exact LinkLaw.of_links (h.setLink l fun hc => hc.shortened _ le_rfl) rfl
        · exact h
      · exact h
  · exact h
  · exact h

/-- A timer started again lies within the lease that the running one had. -/
theorem LinkCtl.Sound.renewed {c : LinkCtl} (h : c.Sound) : c.renewed.Sound := by
  refine ⟨h.backlogBounded, h.cacheBounded, h.cacheInSession, h.goodbyeInUp, ?_, fun t ht => ?_, h.recordAtRest,
    h.waitsForSomething⟩
  · simpa [LinkCtl.renewed] using h.timerRuns
  · obtain ⟨n, hn, rfl⟩ := Option.map_eq_some_iff.1 ht
    obtain ⟨lease, hlease, hlo, hhi, -⟩ := h.timerWithinLease n hn
    exact ⟨lease, hlease, hlo, hhi, Nat.zero_le _⟩

theorem LinkCtl.Sound.ticked {c : LinkCtl} (h : c.Sound) (hreached : c.leaseReached = false) :
    ({ c with timer := c.timer.map fun n => n + 1 } : LinkCtl).Sound := by
  refine ⟨h.backlogBounded, h.cacheBounded, h.cacheInSession, h.goodbyeInUp, ?_, fun t ht => ?_, h.recordAtRest,
    h.waitsForSomething⟩
  · simpa using h.timerRuns
  · obtain ⟨n, hn, rfl⟩ := Option.map_eq_some_iff.1 ht
    obtain ⟨lease, hlease, hlo, hhi, -⟩ := h.timerWithinLease n hn
    refine ⟨lease, hlease, hlo, hhi, ?_⟩
    simp only [LinkCtl.leaseReached, hn, hlease, decide_eq_false_iff_not] at hreached
    omega

theorem linkLaw_kept : KeptByParts LinkLaw where
  answers s l r h hroom := h.setLink l fun hc =>
    ⟨by simp only [LinkCtl.answer, List.length_append, List.length_singleton]; omega, hc.cacheBounded, hc.cacheInSession,
      hc.goodbyeInUp, hc.timerRuns, hc.timerWithinLease, hc.recordAtRest, hc.waitsForSomething⟩
  renews s l h := h.setLink l fun hc => hc.renewed
  executes s l seq code status result h hroom hup := h.setLink l fun hc =>
    ⟨by simp only [LinkCtl.executed, LinkCtl.answer, List.length_append, List.length_singleton]; omega,
      cached_length_le _ _, fun hne => absurd hup hne, hc.goodbyeInUp, hc.timerRuns, hc.timerWithinLease, hc.recordAtRest,
      hc.waitsForSomething⟩
  transmits s l h := h.transmit l
  ends s l reason _ h := (h.startTeardown l reason).of_links (by unfold State.endSession; simp)
  pinReset s pins _ := (s.atReset_afterPinReset pins).linkLaw
  resetRelease _ _ h := h.of_links rfl
  scrubs _ _ _ _ _ _ h := h.of_links rfl
  begins s l seq lease h hdown hroom hlo hhi := by
    unfold State.beginSession
    refine LinkLaw.of_links (h.setLink l (c := _) fun hc => ?_) rfl
    have hrest := hc.recordAtRest (by simp [hdown])
    constructor
    case backlogBounded =>
      simp only [LinkCtl.answer, LinkCtl.begun, List.length_append, List.length_singleton]
      omega
    case timerWithinLease =>
      rintro t ht
      cases ht
      exact ⟨lease, rfl, hlo, hhi, Nat.zero_le _⟩
    all_goals simp [LinkCtl.answer, LinkCtl.begun, hrest]
  goodbye s l h hup := h.setLink l fun hc =>
    ⟨hc.backlogBounded, hc.cacheBounded, hc.cacheInSession, fun _ => hup, by simp, nofun, hc.recordAtRest,
      hc.waitsForSomething⟩
  notify s l on h := h.setLink l fun hc =>
    ⟨hc.backlogBounded, hc.cacheBounded, hc.cacheInSession, hc.goodbyeInUp, hc.timerRuns, hc.timerWithinLease,
      hc.recordAtRest, hc.waitsForSomething⟩
  idles s l h := h.setLink l fun hc => hc.shortened .idle le_rfl
  ticks s l h hreached := h.setLink l fun hc => hc.ticked hreached
  retires _ _ _ _ _ h _ := h.of_links rfl
  resends _ _ h _ := h.of_links rfl
  opens _ _ _ _ _ h _ _ _ := h.of_links rfl
  closes s l g _ h _ _ := h.of_reports ((s.enterClosing_reports g.slot .owner).trans (.of_links (by simp)))
  restyles _ _ _ _ h _ _ := h.of_links rfl
  shows _ _ _ _ h _ _ := h.of_links rfl
  hides s l g h _ := h.of_links (by unfold State.hidden; split <;> simp)
  submits s l j h _ _ := h.of_links (by simp [State.admitJob_links])
  loads _ _ _ _ h _ _ _ := h.of_links rfl
  reloads _ _ _ _ h _ := h.of_links rfl
  frees s l g h _ := h.of_links (s.freeOrRetire_links l g)
  rowEnds s f _ h _ := h.of_reports (s.endRow_reports f)
  frameStarts s _ h := h.of_reports s.startFrame_reports
  reports s es h := h.of_links (by simp)

/-- Settles O54: `linkLaw_kept`. -/
theorem linkLawKept : Obligations.LinkLawKept := fun _ _ hs ht =>
  linkLaw_kept.step (fun _ _ h => h.of_links rfl) hs ht

end Sys2Proof.Machine
end

section
/-! The job queues and the engine: examinations and grants restore the law of the queues that completions open, and so every step
keeps it (O57). -/

namespace Sys2Proof.Machine

open Sys2Proof

/-! ### The law queue by queue -/

/-- The link and the job of the job in flight. -/
def State.flight (s : State) : Option (Link × Job) := s.engine.map fun f => (f.link, f.job)

theorem State.flight_eq_some {s : State} {l : Link} {j : Job} :
    s.flight = some (l, j) ↔ ∃ f, s.engine = some f ∧ f.link = l ∧ f.job = j := by
  simp [State.flight]

theorem State.flight_eq_none {s : State} : s.flight = none ↔ s.engine = none := by
  simp [State.flight]

theorem State.flight_congr {s t : State} (h : t.engine = s.engine) : t.flight = s.flight := by
  rw [State.flight, h, State.flight]

/-- A change of the job in flight that keeps its link and its job. -/
theorem State.flight_map {s t : State} {g : InFlight → InFlight} (h : t.engine = s.engine.map g)
    (hlink : ∀ f, (g f).link = f.link) (hjob : ∀ f, (g f).job = f.job) : t.flight = s.flight := by
  rw [State.flight, h, State.flight, Option.map_map]
  congr 1
  funext f
  simp [hlink, hjob]

/-- The law of one link's queue, but for a head that is EMPTY before entries: it is still to be examined. -/
structure State.QueueOpen (s : State) (l : Link) : Prop where
  entriesBounded : (s.queue l).entries.length ≤ 16
  stagingBounded : (s.queue l).staging ≤ 16384
  emptyHead : (s.queue l).entries = [] → (s.queue l).head = .empty
  flightHead : (s.queue l).head = .inFlight ↔ ∃ j, s.flight = some (l, j)
  flightJob : ∀ j, s.flight = some (l, j) → (s.queue l).entries.head? = some j ∧ j.op.forEngine = true
  eligibleJob : (s.queue l).head = .eligible → ∀ j, (s.queue l).entries.head? = some j → j.op.forEngine = true

/-- The law of one link's queue. -/
structure State.QueueSettled (s : State) (l : Link) : Prop extends s.QueueOpen l where
  examined : (s.queue l).head = .empty → (s.queue l).entries = []

theorem jobLaw_iff {s : State} :
    JobLaw s ↔ (∀ l, s.QueueSettled l) ∧ (s.engine = none → ∀ l, (s.queue l).head ≠ .eligible) := by
  constructor
  · intro h
    refine ⟨fun l => ⟨⟨h.entriesBounded l, h.stagingBounded l, (h.emptyHead l).2, ?_, fun j hj => ?_, h.eligibleJob l⟩,
      (h.emptyHead l).1⟩, h.engineBusy⟩
    · rw [h.flightHead l]
      constructor
      · rintro ⟨f, hf, hl⟩
        exact ⟨f.job, State.flight_eq_some.2 ⟨f, hf, hl, rfl⟩⟩
      · rintro ⟨j, hj⟩
        obtain ⟨f, hf, hl, -⟩ := State.flight_eq_some.1 hj
        exact ⟨f, hf, hl⟩
    · obtain ⟨f, hf, rfl, rfl⟩ := State.flight_eq_some.1 hj
      exact h.flightJob f hf
  · rintro ⟨h, hbusy⟩
    refine ⟨fun l => (h l).entriesBounded, fun l => (h l).stagingBounded, fun l => ⟨(h l).examined, (h l).emptyHead⟩,
      fun l => ?_, fun f hf => ?_, fun l => (h l).eligibleJob, hbusy⟩
    · rw [(h l).flightHead]
      constructor
      · rintro ⟨j, hj⟩
        obtain ⟨f, hf, hl, -⟩ := State.flight_eq_some.1 hj
        exact ⟨f, hf, hl⟩
      · rintro ⟨f, hf, hl⟩
        exact ⟨f.job, State.flight_eq_some.2 ⟨f, hf, hl, rfl⟩⟩
    · exact (h f.link).flightJob f.job (State.flight_eq_some.2 ⟨f, hf, rfl, rfl⟩)

section
variable {s t : State} {l : Link}

theorem State.QueueOpen.congr (h : s.QueueOpen l) (hqueue : t.queue l = s.queue l) (hflight : t.flight = s.flight) :
    t.QueueOpen l := by
  constructor <;> simp only [hqueue, hflight]
  exacts [h.entriesBounded, h.stagingBounded, h.emptyHead, h.flightHead, h.flightJob, h.eligibleJob]

theorem State.QueueSettled.congr (h : s.QueueSettled l) (hqueue : t.queue l = s.queue l)
    (hflight : t.flight = s.flight) : t.QueueSettled l :=
  ⟨h.toQueueOpen.congr hqueue hflight, by rw [hqueue]; exact h.examined⟩

theorem JobLaw.congr (h : JobLaw s) (hqueues : t.queues = s.queues) (hflight : t.flight = s.flight) : JobLaw t := by
  obtain ⟨hsettled, hbusy⟩ := jobLaw_iff.1 h
  have hqueue : ∀ l, t.queue l = s.queue l := fun l => by rw [State.queue, State.queue, hqueues]
  refine jobLaw_iff.2 ⟨fun l => (hsettled l).congr (hqueue l) hflight, fun hidle l => ?_⟩
  rw [hqueue]
  exact hbusy (by rw [← State.flight_eq_none, ← hflight, State.flight_eq_none, hidle]) l

theorem JobLaw.of_same (h : JobLaw s) (hqueues : t.queues = s.queues) (hengine : t.engine = s.engine) : JobLaw t :=
  h.congr hqueues (State.flight_congr hengine)

theorem JobLaw.settled (h : JobLaw s) (l : Link) : s.QueueSettled l := (jobLaw_iff.1 h).1 l

end

/-! ### Examination and grants -/

theorem State.examineHead_flight (s : State) (l : Link) : (s.examineHead l).flight = s.flight :=
  State.flight_congr (by simp)

/-- An examination leaves the law of its link's queue. -/
theorem State.QueueOpen.examineHead {s : State} {l : Link} (h : s.QueueOpen l) : (s.examineHead l).QueueSettled l := by
  have hexamined : (s.queue l).head ≠ .inFlight → (s.examine l (s.queue l).entries).flight = s.flight →
      (s.examine l (s.queue l).entries).QueueSettled l := by
    intro hwaits hflight
    obtain ⟨gone, hcut, -, hstaging, hempty, hflies, heligible⟩ := s.examine_queue l _ rfl
    have hidle : ∀ j, s.flight ≠ some (l, j) := fun j hj => hwaits (h.flightHead.2 ⟨j, hj⟩)
    refine ⟨⟨?_, hstaging ▸ h.stagingBounded, hempty.2, ?_, fun j hj => ?_, heligible⟩, hempty.1⟩
    · have := congrArg List.length hcut
      have hbound := h.entriesBounded
      rw [List.length_append] at this
      omega
    · rw [hflight]
      exact ⟨fun hh => absurd hh hflies, fun ⟨j, hj⟩ => absurd hj (hidle j)⟩
    · rw [hflight] at hj
      exact absurd hj (hidle j)
  have hflight : (s.examine l (s.queue l).entries).flight = s.flight := State.flight_congr (by simp)
  unfold State.examineHead
  split
  · rename_i hhead
    exact ⟨h, by simp [hhead]⟩
  · rename_i hhead
    exact ⟨h, by simp [hhead]⟩
  · rename_i hhead
    exact hexamined (by simp [hhead]) hflight
  · rename_i hhead
    exact hexamined (by simp [hhead]) hflight

theorem State.QueueSettled.examineHead {s : State} {k : Link} (h : s.QueueSettled k) (l : Link) :
    (s.examineHead l).QueueSettled k := by
  by_cases hk : k = l
  · subst hk
    exact h.toQueueOpen.examineHead
  · exact h.congr (s.examineHead_queue_ne hk) (s.examineHead_flight l)

theorem State.granted_queue (s : State) (l k : Link) :
    (s.granted l).queue k = if k = l then { s.queue l with head := .inFlight } else s.queue k := by
  unfold State.granted
  rw [State.queue_setQueue]
  rfl

/-- Every grant leaves the law of every queue. -/
theorem State.grants_queueSettled (n : Nat) {s : State} (h : ∀ l, s.QueueSettled l) :
    ∀ l, (State.grants n s).QueueSettled l := by
  refine State.grants_keeps (P := fun t => ∀ l, t.QueueSettled l) ?_ ?_ n h
  · intro t l j rest status ht hidle _ hentries _
    have hflight : ((t.granted l).completeHead l j (.failed status) []).flight = none :=
      State.flight_eq_none.2 (by rw [State.completeHead_frame _ _ _ _ _ |>.2.2.2.2.2.2.2.2.2.1]; exact hidle)
    have hnone : t.flight = none := State.flight_eq_none.2 hidle
    generalize hcompleted : (t.granted l).completeHead l j (.failed status) [] = completed at hflight ⊢
    intro k
    by_cases hk : k = l
    · subst hk
      refine State.QueueOpen.examineHead ?_
      have hqueue : completed.queue k =
          { entries := rest, head := .empty, staging := (t.queue k).staging - j.stagingReleased (.failed status) } := by
        rw [← hcompleted, State.completeHead_queue, State.granted_queue, if_pos rfl]
        simp [hentries]
      have hlength := (ht k).entriesBounded
      have hstaging := (ht k).stagingBounded
      rw [hentries, List.length_cons] at hlength
      constructor <;> simp only [hqueue, hflight]
      · omega
      · omega
      · exact fun _ => trivial
      · simp
      · nofun
      · nofun
    · refine State.QueueSettled.examineHead ((ht k).congr ?_ (hflight.trans hnone.symm)) l
      rw [← hcompleted, State.completeHead_queue_ne _ hk, State.granted_queue, if_neg hk]
  · intro t l j rest ht hidle hnext hentries _
    have heligible := State.nextEligible_eq_some hnext
    have hnone : t.flight = none := State.flight_eq_none.2 hidle
    have hflight : ((t.granted l).setEngine (some ((t.granted l).startedJob l j))).flight = some (l, j) := rfl
    have hqueue : ∀ k, ((t.granted l).setEngine (some ((t.granted l).startedJob l j))).queue k =
        if k = l then { t.queue l with head := .inFlight } else t.queue k := fun k => t.granted_queue l k
    generalize (t.granted l).setEngine _ = started at hflight hqueue ⊢
    intro k
    have hkl := hqueue k
    by_cases hk : k = l
    · subst hk
      rw [if_pos rfl] at hkl
      refine ⟨⟨?_, ?_, ?_, ?_, fun i hi => ?_, ?_⟩, ?_⟩ <;> simp only [hkl]
      · exact (ht k).entriesBounded
      · exact (ht k).stagingBounded
      · simp [hentries]
      · simp [hflight]
      · rw [hflight] at hi
        cases hi
        exact ⟨by simp [hentries], (ht k).eligibleJob heligible j (by simp [hentries])⟩
      · nofun
      · nofun
    · rw [if_neg hk] at hkl
      have hother : ∀ i, started.flight ≠ some (k, i) := fun i hi => by
        rw [hflight] at hi
        cases hi
        exact hk rfl
      have hwaits : (t.queue k).head ≠ .inFlight := fun hh => by
        obtain ⟨i, hi⟩ := (ht k).flightHead.1 hh
        rw [hnone] at hi
        cases hi
      refine ⟨⟨?_, ?_, ?_, ?_, fun i hi => absurd hi (hother i), ?_⟩, ?_⟩ <;> simp only [hkl]
      · exact (ht k).entriesBounded
      · exact (ht k).stagingBounded
      · exact (ht k).emptyHead
      · exact ⟨fun hh => absurd hh hwaits, fun ⟨i, hi⟩ => absurd hi (hother i)⟩
      · exact (ht k).eligibleJob
      · exact (ht k).examined

theorem jobLaw_arbitrate {s : State} (h : ∀ l, s.QueueSettled l) : JobLaw s.arbitrate :=
  jobLaw_iff.2 ⟨s.grants_queueSettled _ h,
    s.arbitrate_settles fun l => ⟨(h l).examined, (h l).emptyHead⟩⟩

/-- The examination of one head and the grants restore the law where that head alone is open. -/
theorem jobLaw_schedule {s : State} {l : Link} (h : s.QueueOpen l) (hothers : ∀ k, k ≠ l → s.QueueSettled k) :
    JobLaw (s.schedule l) := by
  refine jobLaw_arbitrate fun k => ?_
  by_cases hk : k = l
  · subst hk
    exact h.examineHead
  · exact (hothers k hk).examineHead l

/-- The examination of all heads and the grants restore the law wherever it is open. -/
theorem jobLaw_scheduleAll {s : State} (h : ∀ l, s.QueueOpen l) : JobLaw s.scheduleAll := by
  have hfold : ∀ (ls : List Link) (t : State), (∀ l, t.QueueOpen l) → (∀ l, l ∈ ls ∨ t.QueueSettled l) →
      ∀ l, (ls.foldl State.examineHead t).QueueSettled l := by
    intro ls
    induction ls with
    | nil => exact fun t _ hsettled l => (hsettled l).resolve_left (by simp)
    | cons k ls ih =>
      intro t hopen hsettled
      rw [List.foldl_cons]
      have hcongr : ∀ l, l ≠ k → (t.examineHead k).QueueOpen l := fun l hl =>
        (hopen l).congr (t.examineHead_queue_ne hl) (t.examineHead_flight k)
      refine ih _ (fun l => ?_) (fun l => ?_)
      · by_cases hl : l = k
        · subst hl
          exact (hopen l).examineHead.toQueueOpen
        · exact hcongr l hl
      · by_cases hl : l = k
        · subst hl
          exact .inr (hopen l).examineHead
        · exact (hsettled l).imp (fun hmem => (List.mem_cons.1 hmem).resolve_left hl) fun hs => hs.examineHead k
  exact jobLaw_arbitrate (hfold allLinks s h fun l => .inl (by cases l <;> decide))

/-! ### Completion and row ends -/

theorem State.completeInFlight_queues (s : State) (f : InFlight) (e : Ending) :
    (s.completeInFlight f e).queues = (s.completeHead f.link f.job e f.result).queues ∧
      (s.completeInFlight f e).engine = none := by
  unfold State.completeInFlight
  dsimp only
  split <;> simp

/-- A job that leaves the engine opens its own link's queue alone. -/
theorem JobLaw.completeInFlight {s : State} (h : JobLaw s) {f : InFlight} (hflight : s.flight = some (f.link, f.job))
    (e : Ending) : (s.completeInFlight f e).QueueOpen f.link ∧
      ∀ k, k ≠ f.link → (s.completeInFlight f e).QueueSettled k := by
  obtain ⟨hqueues, hidle⟩ := s.completeInFlight_queues f e
  have hnone : (s.completeInFlight f e).flight = none := State.flight_eq_none.2 hidle
  have hqueue : ∀ k, (s.completeInFlight f e).queue k = (s.completeHead f.link f.job e f.result).queue k := fun k => by
    rw [State.queue, State.queue, hqueues]
  constructor
  · have hown := (hqueue f.link).trans (s.completeHead_queue f.link f.job e f.result)
    have hlength := (h.settled f.link).entriesBounded
    have hstaging := (h.settled f.link).stagingBounded
    constructor <;> simp only [hown, hnone]
    · rw [List.length_tail]
      omega
    · omega
    · exact fun _ => trivial
    · simp
    · nofun
    · nofun
  · intro k hk
    have hother := (hqueue k).trans (s.completeHead_queue_ne hk f.job e f.result)
    have hne : ∀ j, s.flight ≠ some (k, j) := fun j hj => by
      rw [hflight] at hj
      cases hj
      exact hk rfl
    have hsettled := h.settled k
    refine ⟨⟨?_, ?_, ?_, ?_, ?_, ?_⟩, ?_⟩ <;> simp only [hother, hnone]
    · exact hsettled.entriesBounded
    · exact hsettled.stagingBounded
    · exact hsettled.emptyHead
    · rw [hsettled.flightHead]
      exact ⟨fun ⟨j, hj⟩ => absurd hj (hne j), nofun⟩
    · nofun
    · exact hsettled.eligibleJob
    · exact hsettled.examined

theorem JobLaw.endRow {s : State} (h : JobLaw s) {f : InFlight} (hf : s.engine = some f) : JobLaw (s.endRow f) := by
  unfold State.endRow
  dsimp only
  have hdrawn : JobLaw (s.drawRow f) := h.of_same rfl rfl
  have hengine : (s.drawRow f).engine = some f := hf
  generalize s.drawRow f = d at hdrawn hengine ⊢
  have hflight : d.flight = some (f.rowEnded.link, f.rowEnded.job) := State.flight_eq_some.2 ⟨f, hengine, rfl, rfl⟩
  have hcompletes : ∀ e, JobLaw ((d.completeInFlight f.rowEnded e).schedule f.link) := fun e => by
    obtain ⟨hown, hothers⟩ := hdrawn.completeInFlight hflight e
    exact jobLaw_schedule hown hothers
  (repeat' split)
  · exact hcompletes _
  · exact hcompletes _
  · exact hdrawn.congr rfl hflight.symm

/-! ### The start of a teardown -/

@[simp] theorem InFlight.windowCloses_link (f : InFlight) (h : Handle) : (f.windowCloses h).link = f.link := by
  unfold InFlight.windowCloses
  (repeat' split) <;> rfl

@[simp] theorem InFlight.linkEnds_link (f : InFlight) (l : Link) : (f.linkEnds l).link = f.link := by
  unfold InFlight.linkEnds
  split <;> rfl

theorem State.enterClosing_flight (s : State) (i : Slot) (reason : CloseReason) :
    (s.enterClosing i reason).flight = s.flight :=
  State.flight_map (s.enterClosing_engine i reason) (fun _ => InFlight.windowCloses_link _ _)
    fun _ => InFlight.windowCloses_job _ _

theorem State.teardownWindow_flight (l : Link) (s : State) (i : Slot) :
    (State.teardownWindow l s i).flight = s.flight := by
  unfold State.teardownWindow
  dsimp only
  (repeat' split)
  · exact s.enterClosing_flight i _
  · rfl
  · rfl
  · rfl

theorem State.teardownWindows_flight (s : State) (l : Link) : (s.teardownWindows l).flight = s.flight := by
  unfold State.teardownWindows
  refine foldl_keeps (fun t => t.flight = s.flight) (State.teardownWindow l)
    (fun t i ht => (State.teardownWindow_flight l t i).trans ht) _ ?_
  apply State.flight_congr
  rfl

theorem State.dropJobs_flight (s : State) (l : Link) : (s.dropJobs l).flight = s.flight :=
  State.flight_map (s.dropJobs_engine l) (fun _ => InFlight.linkEnds_link _ _) fun _ => InFlight.linkEnds_job _ _

theorem State.startTeardown_flight (s : State) (l : Link) (reason : EndReason) :
    (s.startTeardown l reason).flight = s.flight := by
  unfold State.startTeardown
  dsimp only
  generalize (s.link l).torn reason (s.ownedWindows l) (s.ownsEngine l) = torn
  have hdropped : (((s.setLink l torn).dropEvents l).dropJobs l).flight = s.flight := by
    rw [State.dropJobs_flight]
    exact State.flight_congr (by simp)
  generalize ((s.setLink l torn).dropEvents l).dropJobs l = dropped at hdropped ⊢
  rw [State.flight_congr (s := (dropped.orphanStamps l).teardownWindows l) (by simp), State.teardownWindows_flight,
    State.flight_congr (s := dropped) (by simp), hdropped]

/-- The entries that stay are those of the job in flight (R92). -/
theorem State.keptEntries_eq (s : State) (l : Link) :
    s.keptEntries l = if (s.queue l).head = .inFlight then (s.queue l).entries.take 1 else [] := by
  unfold State.keptEntries
  cases (s.queue l).head <;> simp

theorem State.droppedEntries_eq (s : State) (l : Link) : s.droppedEntries l = s.leavingJobs l := by
  unfold State.droppedEntries State.leavingJobs
  rw [State.keptEntries_eq]
  split
  · cases (s.queue l).entries <;> simp
  · simp

/-- The queues at the start of a teardown: the link's own keeps a job in flight alone, the others stay. -/
theorem State.startTeardown_queue (s : State) (l : Link) (reason : EndReason) (k : Link) :
    (s.startTeardown l reason).queue k =
      if k = l then
        { entries := s.keptEntries l
          head := if s.keptEntries l = [] then .empty else .inFlight
          staging := (s.queue l).staging - recordsStaging (s.eventsOf l).records
            - ((s.leavingJobs l).map fun j => j.op.staging).sum }
      else s.queue k := by
  unfold State.startTeardown
  dsimp only
  generalize (s.link l).torn reason (s.ownedWindows l) (s.ownsEngine l) = torn
  have hqueue : ∀ j, ((s.setLink l torn).dropEvents l).queue j = if j = l then
      { s.queue l with staging := (s.queue l).staging - recordsStaging (s.eventsOf l).records } else s.queue j :=
    fun j => by
      unfold State.dropEvents
      simp [State.queue_setQueue]
  generalize (s.setLink l torn).dropEvents l = dropped at hqueue ⊢
  have hown := hqueue l
  rw [if_pos rfl] at hown
  have hkept : dropped.keptEntries l = s.keptEntries l := by rw [State.keptEntries_eq, State.keptEntries_eq, hown]
  have hgone : dropped.droppedEntries l = s.leavingJobs l := by
    rw [State.droppedEntries_eq, State.leavingJobs, State.leavingJobs, hown]
  simp only [State.endTest_frame, State.teardownWindows_frame, State.orphanStamps_frame]
  unfold State.dropJobs
  simp only [State.queue_setEngine, State.foldl_releaseStampOf_frame, State.queue_setQueue, hkept, hgone, hown]
  split
  · rfl
  · rename_i hk
    rw [hqueue, if_neg hk]

theorem JobLaw.startTeardown {s : State} (h : JobLaw s) (l : Link) (reason : EndReason) :
    JobLaw (s.startTeardown l reason) := by
  have hflight := s.startTeardown_flight l reason
  have hqueue := s.startTeardown_queue l reason
  generalize s.startTeardown l reason = t at hflight hqueue ⊢
  obtain ⟨hsettled, hbusy⟩ := jobLaw_iff.1 h
  have hidle : t.engine = none → s.engine = none := fun ht => by
    rwa [← State.flight_eq_none, hflight, State.flight_eq_none] at ht
  refine jobLaw_iff.2 ⟨fun k => ?_, fun ht k => ?_⟩
  · by_cases hk : k = l
    · subst hk
      have hown := hqueue k
      rw [if_pos rfl] at hown
      have hlength := (hsettled k).entriesBounded
      have hstaging := (hsettled k).stagingBounded
      have hkept := s.keptEntries_eq k
      by_cases hhead : (s.queue k).head = .inFlight
      · obtain ⟨j, hj⟩ := (hsettled k).flightHead.1 hhead
        obtain ⟨hfirst, hdraws⟩ := (hsettled k).flightJob j hj
        obtain ⟨rest, hentries⟩ := List.head?_eq_some_iff.1 hfirst
        rw [if_pos hhead, hentries] at hkept
        simp only [hkept, List.take_succ_cons, List.take_zero, List.cons_ne_nil, if_false] at hown
        refine ⟨⟨?_, ?_, ?_, ?_, fun i hi => ?_, ?_⟩, ?_⟩ <;> simp only [hown]
        · simp
        · omega
        · simp
        · simp [hflight, hj]
        · rw [hflight, hj] at hi
          cases hi
          exact ⟨rfl, hdraws⟩
        · nofun
        · nofun
      · rw [if_neg hhead] at hkept
        simp only [hkept, if_true] at hown
        have hne : ∀ j, t.flight ≠ some (k, j) := fun j hj => by
          rw [hflight] at hj
          exact hhead ((hsettled k).flightHead.2 ⟨j, hj⟩)
        refine ⟨⟨?_, ?_, ?_, ?_, fun i hi => absurd hi (hne i), ?_⟩, ?_⟩ <;> simp only [hown]
        · simp
        · omega
        · exact fun _ => trivial
        · exact ⟨nofun, fun ⟨i, hi⟩ => absurd hi (hne i)⟩
        · nofun
        · exact fun _ => trivial
    · exact (hsettled k).congr (by rw [hqueue, if_neg hk]) hflight
  · rw [hqueue]
    split
    · dsimp only
      split <;> nofun
    · exact hbusy (hidle ht) k

/-! ### Every step -/

theorem JobLaw.admitJob {s : State} (h : JobLaw s) {l : Link} {j : Job} (hroom : s.roomRefusal l j.op = none) :
    (s.admitJob l j).QueueOpen l ∧ ∀ k, k ≠ l → (s.admitJob l j).QueueSettled k := by
  obtain ⟨hlength, hstaging, -⟩ := State.roomRefusal_eq_none hroom
  have hqueue : ∀ k, (s.admitJob l j).queue k = if k = l then
      { s.queue l with entries := (s.queue l).entries ++ [j], staging := (s.queue l).staging + j.op.staging }
      else s.queue k := fun k => by
    unfold State.admitJob State.referStamp
    split <;> simp [State.queue_setQueue]
  have hflight : (s.admitJob l j).flight = s.flight := State.flight_congr (by
    unfold State.admitJob State.referStamp
    split <;> simp)
  generalize s.admitJob l j = t at hqueue hflight ⊢
  refine ⟨?_, fun k hk => (h.settled k).congr (by rw [hqueue, if_neg hk]) hflight⟩
  have hown := hqueue l
  rw [if_pos rfl] at hown
  have hsettled := h.settled l
  have hfirst : ∀ i, (s.queue l).entries.head? = some i → ((s.queue l).entries ++ [j]).head? = some i := fun i hi => by
    rw [List.head?_append, hi]
    rfl
  constructor <;> simp only [hown, hflight]
  · simp only [List.length_append, List.length_singleton]
    omega
  · exact hstaging
  · simp
  · exact hsettled.flightHead
  · intro i hi
    obtain ⟨hhead, hdraws⟩ := hsettled.flightJob i hi
    exact ⟨hfirst i hhead, hdraws⟩
  · intro heligible i hi
    cases hentries : (s.queue l).entries with
    | nil =>
      rw [hsettled.emptyHead hentries] at heligible
      cases heligible
    | cons first rest =>
      rw [hentries] at hi
      exact hsettled.eligibleJob heligible i (by rw [hentries]; exact hi)

/-- Staging given back to a queue. -/
theorem JobLaw.lessStaging {s : State} (h : JobLaw s) (l : Link) (n : Nat) :
    JobLaw (s.setQueue l { s.queue l with staging := (s.queue l).staging - n }) := by
  obtain ⟨hsettled, hbusy⟩ := jobLaw_iff.1 h
  refine jobLaw_iff.2 ⟨fun k => ?_, fun hidle k => ?_⟩
  · by_cases hk : k = l
    · subst hk
      have hown : (s.setQueue k { s.queue k with staging := (s.queue k).staging - n }).queue k =
          { s.queue k with staging := (s.queue k).staging - n } := by simp
      have hflight : (s.setQueue k { s.queue k with staging := (s.queue k).staging - n }).flight = s.flight := rfl
      generalize s.setQueue k _ = t at hown hflight ⊢
      have hq := hsettled k
      refine ⟨⟨?_, ?_, ?_, ?_, ?_, ?_⟩, ?_⟩ <;> simp only [hown, hflight]
      exacts [hq.entriesBounded, (Nat.sub_le _ _).trans hq.stagingBounded, hq.emptyHead, hq.flightHead, hq.flightJob,
        hq.eligibleJob, hq.examined]
    · exact (hsettled k).congr (by simp [hk]) rfl
  · rw [State.queue_setQueue]
    split
    · exact hbusy hidle l
    · exact hbusy hidle k

theorem State.freeOrRetire_queues (s : State) (l : Link) (h : StampHandle) :
    (s.freeOrRetire l h).state.queues = s.queues := by
  unfold State.freeOrRetire
  split <;> rfl

theorem State.freeOrRetire_engine (s : State) (l : Link) (h : StampHandle) :
    (s.freeOrRetire l h).state.engine = s.engine := by
  unfold State.freeOrRetire
  split <;> rfl

theorem jobLaw_kept : KeptByParts JobLaw where
  answers _ _ _ h _ := h.of_same rfl rfl
  renews _ _ h := h.of_same rfl rfl
  executes _ _ _ _ _ _ h _ _ := h.of_same rfl rfl
  transmits s l h := h.of_same (by simp) (by simp)
  ends s l reason _ h := jobLaw_scheduleAll fun k => ((h.startTeardown l reason).settled k).toQueueOpen
  pinReset s pins _ := (s.atReset_afterPinReset pins).jobLaw
  resetRelease _ _ h := h.of_same rfl rfl
  scrubs _ _ _ _ _ _ h := h.of_same rfl rfl
  begins _ _ _ _ h _ _ _ _ := h.of_same rfl rfl
  goodbye _ _ h _ := h.of_same rfl rfl
  notify _ _ _ h := h.of_same rfl rfl
  idles _ _ h := h.of_same rfl rfl
  ticks _ _ h _ := h.of_same rfl rfl
  retires s l seq gone rest h _ := by
    unfold State.retire
    exact (h.lessStaging l _).of_same rfl rfl
  resends _ _ h _ := h.of_same rfl rfl
  opens _ _ _ _ _ h _ _ _ := h.of_same rfl rfl
  closes s l g _ h _ _ := by
    refine jobLaw_scheduleAll fun k => ((h.settled k).toQueueOpen).congr ?_ (s.enterClosing_flight g.slot .owner)
    simp
  restyles _ _ _ _ h _ _ := h.of_same rfl rfl
  shows _ _ _ _ h _ _ := h.of_same rfl rfl
  hides s l g h _ := by
    unfold State.hidden
    split
    · exact h.of_same (by simp) (by simp)
    · exact h
  submits s l j h _ hpasses := by
    obtain ⟨-, -, hroom⟩ := State.submitRefusal_eq_none hpasses
    obtain ⟨hown, hothers⟩ := h.admitJob hroom
    exact jobLaw_schedule hown hothers
  loads _ _ _ _ h _ _ _ := h.of_same rfl rfl
  reloads _ _ _ _ h _ := h.of_same rfl rfl
  frees s l g h _ := h.of_same (s.freeOrRetire_queues l g) (s.freeOrRetire_engine l g)
  rowEnds s f _ h hf := h.endRow hf
  frameStarts s _ h := jobLaw_scheduleAll fun k =>
    ((h.settled k).toQueueOpen).congr (by simp) (State.flight_congr (by simp))
  reports s es h := h.of_same (by simp) (by simp)

/-- Settles O57: `jobLaw_kept`. -/
theorem jobLawKept : Obligations.JobLawKept := fun _ _ hs ht =>
  jobLaw_kept.step (fun _ _ h => h.of_same rfl rfl) hs ht

end Sys2Proof.Machine
end

section
/-! The stamp store: a reference is counted for every job that names a stamp, in its queue or on its way out, and so every step
keeps the law of the stamps (O58). -/

namespace Sys2Proof.Machine

open Sys2Proof

/-! ### Sums in which one place changes -/

/-- Sums over a list without repetitions of functions that agree but at one listed place. -/
theorem sum_map_change {α : Type} {xs : List α} (hn : xs.Nodup) {i : α} (hi : i ∈ xs) {f g : α → Nat}
    (h : ∀ j, j ≠ i → f j = g j) : (xs.map f).sum + g i = (xs.map g).sum + f i := by
  induction xs with
  | nil => cases hi
  | cons x xs ih =>
    obtain ⟨hx, hn'⟩ := List.nodup_cons.1 hn
    rw [List.map_cons, List.map_cons, List.sum_cons, List.sum_cons]
    by_cases hxi : x = i
    · subst hxi
      have hrest : xs.map f = xs.map g := List.map_congr_left fun j hj => h j fun e => hx (e ▸ hj)
      rw [hrest]
      omega
    · have := ih hn' ((List.mem_cons.1 hi).resolve_left fun e => hxi e.symm)
      rw [h x hxi]
      omega

theorem countP_eq_sum {α : Type} (p : α → Bool) (xs : List α) :
    xs.countP p = (xs.map fun x => if p x then 1 else 0).sum := by
  induction xs with
  | nil => rfl
  | cons x xs ih =>
    rw [List.countP_cons, List.map_cons, List.sum_cons, ih, Nat.add_comm]

theorem nodup_allLinks : allLinks.Nodup := by decide

theorem mem_allLinks (l : Link) : l ∈ allLinks := by cases l <;> decide

/-- The stamps a link owns, where one stamp's owner changes. -/
theorem State.stampsOwned_change {s t : State} (i : StampSlot) (h : ∀ j, j ≠ i → (t.stamp j).owner = (s.stamp j).owner)
    (l : Link) : t.stampsOwned l + (if (s.stamp i).owner = some l then 1 else 0) =
      s.stampsOwned l + if (t.stamp i).owner = some l then 1 else 0 := by
  have := sum_map_change (nodup_finRange 192) (mem_finRange i)
    (f := fun j => if decide ((t.stamp j).owner = some l) then 1 else 0)
    (g := fun j => if decide ((s.stamp j).owner = some l) then 1 else 0) fun j hj => by rw [h j hj]
  simpa only [State.stampsOwned, countP_eq_sum, decide_eq_true_eq] using this

/-- The jobs that name a stamp, where one queue's entries change. -/
theorem State.naming_change {s t : State} (l : Link) (h : ∀ k, k ≠ l → (t.queue k).entries = (s.queue k).entries)
    (i : StampSlot) : t.naming i + (s.queue l).entries.countP (Job.namesStamp i) =
      s.naming i + (t.queue l).entries.countP (Job.namesStamp i) :=
  sum_map_change nodup_allLinks (mem_allLinks l) (f := fun k => (t.queue k).entries.countP (Job.namesStamp i))
    (g := fun k => (s.queue k).entries.countP (Job.namesStamp i)) fun k hk => by rw [h k hk]

theorem State.naming_congr {s t : State} (h : ∀ k, (t.queue k).entries = (s.queue k).entries) (i : StampSlot) :
    t.naming i = s.naming i := by
  simp only [State.naming, h]

theorem Job.namesStamp_iff {i : StampSlot} {j : Job} :
    j.namesStamp i = true ↔ ∃ h, j.op.stamp = some h ∧ h.slot = i := by
  simp [Job.namesStamp, Option.any_eq_true]

/-! ### The law with jobs on their way out -/

/-- The law of the stamps where some jobs have left their queues with their references not yet released. -/
structure StampLawWith (leaving : List Job) (s : State) : Prop where
  counted : ∀ i, (s.stamp i).references = s.naming i + leaving.countP (Job.namesStamp i)
  named : ∀ l, ∀ j ∈ (s.queue l).entries, ∀ h, j.op.stamp = some h → s.stampCurrent h = true
  leavingNamed : ∀ j ∈ leaving, ∀ h, j.op.stamp = some h → s.stampCurrent h = true
  freeStamps : ∀ i, (s.stamp i).state = .free →
    (s.stamp i).references = 0 ∧ (s.stamp i).owner = none ∧ ∀ b ∈ (s.stamp i).contents, b = 0
  unowned : ∀ i, (s.stamp i).owner = none → (s.stamp i).state ≠ .loaded
  retiringUsed : ∀ i, (s.stamp i).state = .retiring → (s.stamp i).references ≠ 0
  owned : ∀ l, s.ownedStamps.get l = s.stampsOwned l
  even : s.pins.pool = false → ∀ l, s.ownedStamps.get l ≤ 48

theorem stampLaw_iff {s : State} : StampLaw s ↔ StampLawWith [] s :=
  ⟨fun h => ⟨h.counted, h.named, by simp, h.freeStamps, h.unowned, h.retiringUsed, h.owned, h.even⟩,
    fun h => ⟨h.counted, h.named, h.freeStamps, h.unowned, h.retiringUsed, h.owned, h.even⟩⟩

section
variable {s t : State} {leaving : List Job}

theorem State.stampCurrent_iff {h : StampHandle} :
    s.stampCurrent h = true ↔ (s.stamp h.slot).state ≠ .free ∧ (s.stamp h.slot).gen = h.gen := by
  simp [State.stampCurrent]

theorem State.stampCurrent_congr {h : StampHandle} (hstamp : t.stamp h.slot = s.stamp h.slot) :
    t.stampCurrent h = s.stampCurrent h := by
  simp only [State.stampCurrent, hstamp]

/-- The law reads the stamps, the counts, the entries and the POOL pin. -/
theorem StampLawWith.congr (h : StampLawWith leaving s) (hstamps : t.stamps = s.stamps)
    (howned : t.ownedStamps = s.ownedStamps) (hpins : t.pins = s.pins)
    (hentries : ∀ l, (t.queue l).entries = (s.queue l).entries) : StampLawWith leaving t := by
  have hstamp : ∀ i, t.stamp i = s.stamp i := fun i => by simp only [State.stamp, hstamps]
  have hcurrent : ∀ g, t.stampCurrent g = s.stampCurrent g := fun g => State.stampCurrent_congr (hstamp _)
  have hcount : ∀ l, t.stampsOwned l = s.stampsOwned l := fun l => by simp only [State.stampsOwned, hstamp]
  constructor <;> simp only [hstamp, hcurrent, hentries, howned, hpins, State.naming_congr hentries, hcount]
  exacts [h.counted, h.named, h.leavingNamed, h.freeStamps, h.unowned, h.retiringUsed, h.owned, h.even]

theorem StampLawWith.of_same (h : StampLawWith leaving s) (hstamps : t.stamps = s.stamps)
    (howned : t.ownedStamps = s.ownedStamps) (hpins : t.pins = s.pins) (hqueues : t.queues = s.queues) :
    StampLawWith leaving t :=
  h.congr hstamps howned hpins fun l => by rw [State.queue, State.queue, hqueues]

/-- Jobs that leave their queue are on their way out. -/
theorem StampLawWith.leave (h : StampLawWith [] s) {l : Link} {stays gone : List Job} {q : JobQueue}
    (hentries : (s.queue l).entries = stays ++ gone ∨ (s.queue l).entries = gone ++ stays) (hq : q.entries = stays) :
    StampLawWith gone (s.setQueue l q) := by
  have hmem : ∀ j, j ∈ (s.queue l).entries ↔ j ∈ stays ∨ j ∈ gone := fun j => by
    rcases hentries with he | he <;> rw [he, List.mem_append]
    exact or_comm
  have hcounted : ∀ i, (s.queue l).entries.countP (Job.namesStamp i) =
      stays.countP (Job.namesStamp i) + gone.countP (Job.namesStamp i) := fun i => by
    rcases hentries with he | he <;> rw [he, List.countP_append]
    exact Nat.add_comm _ _
  refine ⟨fun i => ?_, fun k j hj => ?_, fun j hj => h.named l j ((hmem j).2 (.inr hj)), h.freeStamps, h.unowned,
    h.retiringUsed, h.owned, h.even⟩
  · have hchange := State.naming_change (s := s) (t := s.setQueue l q) l (fun k hk => by simp [hk]) i
    have hbefore := h.counted i
    rw [List.countP_nil] at hbefore
    rw [State.queue_setQueue_self, hq, hcounted i] at hchange
    simp only [State.stamp_setQueue]
    omega
  · rw [State.queue_setQueue] at hj
    split at hj
    · exact h.named l j ((hmem j).2 (.inl (hq ▸ hj)))
    · exact h.named k j hj

end

/-! ### Releasing a reference -/

theorem State.releaseReference_stamp (s : State) (h : StampHandle) (i : StampSlot) :
    (s.releaseReference h).stamp i =
      if i = h.slot then
        if (s.stamp h.slot).state = .retiring ∧ (s.stamp h.slot).references - 1 = 0 then
          ({ s.stamp h.slot with references := (s.stamp h.slot).references - 1 } : Stamp).freed
        else { s.stamp h.slot with references := (s.stamp h.slot).references - 1 }
      else s.stamp i := by
  unfold State.releaseReference State.endRetirement
  dsimp only
  split
  · split <;> simp [State.stamp_setStamp]
  · simp [State.stamp_setStamp]

theorem State.releaseReference_ownedStamps (s : State) (h : StampHandle) (l : Link) :
    (s.releaseReference h).ownedStamps.get l =
      if (s.stamp h.slot).state = .retiring ∧ (s.stamp h.slot).references - 1 = 0 ∧ (s.stamp h.slot).owner = some l then
        s.ownedStamps.get l - 1
      else s.ownedStamps.get l := by
  unfold State.releaseReference State.endRetirement
  dsimp only
  rw [State.stamp_setStamp_self]
  dsimp only
  split
  · rename_i hends
    split
    · rename_i howner
      simp [howner]
    · rename_i o howner
      simp only [State.handUnreserved_frame, State.setOwned_ownedStamps, PerLink.get_set, howner, hends, true_and,
        Option.some.injEq]
      by_cases hl : l = o
      · subst hl
        simp
      · rw [if_neg hl, if_neg (Ne.symm hl)]
        simp
  · rename_i hstays
    rw [if_neg fun hall => hstays ⟨hall.1, hall.2.1⟩]
    rfl

theorem StampLawWith.releaseStampOf {s : State} {j : Job} {leaving : List Job} (h : StampLawWith (j :: leaving) s) :
    StampLawWith leaving (s.releaseStampOf j) := by
  unfold State.releaseStampOf
  split
  case h_2 hnone =>
    have hnot : ∀ i, j.namesStamp i = false := fun i => by simp [Job.namesStamp, hnone]
    refine ⟨fun i => ?_, h.named, fun k hk => h.leavingNamed k (List.mem_cons_of_mem _ hk), h.freeStamps, h.unowned,
      h.retiringUsed, h.owned, h.even⟩
    rw [h.counted i, List.countP_cons_of_neg (by simp [hnot])]
  case h_1 g hg =>
    have hcurrent := State.stampCurrent_iff.1 (h.leavingNamed j List.mem_cons_self g hg)
    have hnames : ∀ i, j.namesStamp i = decide (g.slot = i) := fun i => by simp [Job.namesStamp, hg]
    have hcounted := h.counted g.slot
    rw [List.countP_cons_of_pos (by simp [hnames])] at hcounted
    have hstamp := s.releaseReference_stamp g
    have howned := s.releaseReference_ownedStamps g
    have hqueue : ∀ l, (s.releaseReference g).queue l = s.queue l := fun l => by simp
    have hpins : (s.releaseReference g).pins = s.pins := by simp
    generalize s.releaseReference g = t at hstamp howned hqueue hpins ⊢
    have hself := hstamp g.slot
    rw [if_pos rfl] at hself
    have hother : ∀ i, i ≠ g.slot → t.stamp i = s.stamp i := fun i hi => by rw [hstamp, if_neg hi]
    have hnaming : ∀ i, t.naming i = s.naming i := State.naming_congr fun k => by rw [hqueue]
    -- A handle that some other job names stays current: its stamp is freed only with its last reference.
    have hstays : ∀ f, s.stampCurrent f = true → s.naming f.slot + leaving.countP (Job.namesStamp f.slot) ≠ 0 →
        t.stampCurrent f = true := fun f hf hused => by
      by_cases hslot : f.slot = g.slot
      · rw [State.stampCurrent_iff] at hf ⊢
        rw [hslot] at hf hused ⊢
        rw [hself, if_neg (by omega)]
        exact hf
      · rwa [State.stampCurrent_congr (hother _ hslot)]
    have hpositive : ∀ {js : List Job} {k : Job} {f : StampHandle}, k ∈ js → k.op.stamp = some f →
        0 < js.countP (Job.namesStamp f.slot) := fun hk hf =>
      List.countP_pos_iff.2 ⟨_, hk, Job.namesStamp_iff.2 ⟨_, hf, rfl⟩⟩
    constructor
    case counted =>
      intro i
      rw [hnaming]
      by_cases hi : i = g.slot
      · subst hi
        have hrefs : (t.stamp g.slot).references = (s.stamp g.slot).references - 1 := by
          rw [hself]
          split
          · rename_i hends
            simp [Stamp.freed, hends.2]
          · rfl
        omega
      · rw [hother i hi, h.counted i, List.countP_cons_of_neg (by simp [hnames, Ne.symm hi])]
    case named =>
      intro l k hk f hf
      rw [hqueue] at hk
      refine hstays f (h.named l k hk f hf) ?_
      have hin : (s.queue l).entries.countP (Job.namesStamp f.slot) ≤ s.naming f.slot :=
        List.single_le_sum (by simp) _ (List.mem_map.2 ⟨l, mem_allLinks l, rfl⟩)
      have := hpositive hk hf
      omega
    case leavingNamed =>
      intro k hk f hf
      refine hstays f (h.leavingNamed k (List.mem_cons_of_mem _ hk) f hf) ?_
      have := hpositive hk hf
      omega
    case freeStamps =>
      intro i hfree
      by_cases hi : i = g.slot
      · subst hi
        rw [hself] at hfree ⊢
        split at hfree
        · rename_i hends
          rw [if_pos hends]
          refine ⟨rfl, rfl, fun b hb => ?_⟩
          exact List.eq_of_mem_replicate hb
        · exact absurd hfree hcurrent.1
      · rw [hother i hi] at hfree ⊢
        exact h.freeStamps i hfree
    case unowned =>
      intro i hnone
      by_cases hi : i = g.slot
      · subst hi
        rw [hself] at hnone ⊢
        split at hnone
        · rename_i hends
          rw [if_pos hends]
          simp [Stamp.freed]
        · rename_i hends
          rw [if_neg hends]
          exact h.unowned g.slot hnone
      · rw [hother i hi] at hnone ⊢
        exact h.unowned i hnone
    case retiringUsed =>
      intro i hretiring
      by_cases hi : i = g.slot
      · subst hi
        rw [hself] at hretiring ⊢
        split at hretiring
        · simp [Stamp.freed] at hretiring
        · rename_i hends
          rw [if_neg hends]
          exact fun hzero => hends ⟨hretiring, hzero⟩
      · rw [hother i hi] at hretiring ⊢
        exact h.retiringUsed i hretiring
    case owned =>
      intro l
      have hchange := State.stampsOwned_change (s := s) (t := t) g.slot (fun i hi => by rw [hother i hi]) l
      have hbefore := h.owned l
      rw [howned l]
      rw [hself] at hchange
      by_cases hends : (s.stamp g.slot).state = .retiring ∧ (s.stamp g.slot).references - 1 = 0
      · rw [if_pos hends] at hchange
        have hfreed : ({ s.stamp g.slot with references := (s.stamp g.slot).references - 1 } : Stamp).freed.owner ≠
            some l := by simp [Stamp.freed]
        rw [if_neg hfreed] at hchange
        by_cases hmine : (s.stamp g.slot).owner = some l
        · rw [if_pos hmine] at hchange
          rw [if_pos ⟨hends.1, hends.2, hmine⟩]
          omega
        · rw [if_neg hmine] at hchange
          rw [if_neg fun hall => hmine hall.2.2]
          omega
      · rw [if_neg hends] at hchange
        rw [if_neg fun hall => hends ⟨hall.1, hall.2.1⟩]
        have hsame : ({ s.stamp g.slot with references := (s.stamp g.slot).references - 1 } : Stamp).owner =
            (s.stamp g.slot).owner := rfl
        rw [hsame] at hchange
        omega
    case even =>
      intro heven l
      rw [hpins] at heven
      have := h.even heven l
      rw [howned l]
      split <;> omega

/-- The references of all jobs on their way out, released in turn. -/
theorem StampLawWith.releaseAll {leaving : List Job} {s : State} (h : StampLawWith leaving s) :
    StampLawWith [] (leaving.foldl State.releaseStampOf s) := by
  induction leaving generalizing s with
  | nil => exact h
  | cons j js ih => exact ih h.releaseStampOf

/-! ### Completions, examinations, grants -/

theorem StampLawWith.completeHead {s : State} (h : StampLawWith [] s) {l : Link} {j : Job} {rest : List Job}
    (hentries : (s.queue l).entries = j :: rest) (e : Ending) (result : List Pixel) :
    StampLawWith [] (s.completeHead l j e result) := by
  unfold State.completeHead
  dsimp only
  have hleft : StampLawWith [j] (s.setQueue l { s.queue l with entries := (s.queue l).entries.tail, head := .empty }) :=
    h.leave (stays := rest) (.inr hentries) (by simp [hentries])
  generalize s.setQueue l _ = left at hleft ⊢
  have htold : StampLawWith [j] (left.handOutcome l j e result) := hleft.of_same (by simp) (by simp) (by simp) (by simp)
  generalize left.handOutcome l j e result = told at htold ⊢
  refine StampLawWith.releaseStampOf (htold.congr rfl rfl rfl fun k => ?_)
  rw [State.queue_setQueue]
  split
  · rename_i hk
    rw [hk]
  · rfl

theorem StampLawWith.takePresent {s : State} (h : StampLawWith [] s) {l : Link} {j : Job} {rest : List Job} {g : Handle}
    (hentries : (s.queue l).entries = j :: rest) (hop : j.op = .present g) :
    StampLawWith [] (s.takePresent l j g) := by
  unfold State.takePresent
  split
  · have hleft : StampLawWith [j]
        (s.setQueue l { s.queue l with entries := (s.queue l).entries.tail, head := .empty }) :=
      h.leave (stays := rest) (.inr hentries) (by simp [hentries])
    have hnone : (s.setQueue l { s.queue l with entries := (s.queue l).entries.tail, head := .empty }).releaseStampOf j =
        s.setQueue l { s.queue l with entries := (s.queue l).entries.tail, head := .empty } := by
      unfold State.releaseStampOf
      simp [hop, JobOp.stamp]
    have hreleased := hleft.releaseStampOf
    rw [hnone] at hreleased
    exact hreleased.of_same rfl rfl rfl rfl
  · exact h.completeHead hentries _ _

theorem StampLawWith.setHead {s : State} (h : StampLawWith [] s) (l : Link) (head : HeadState) :
    StampLawWith [] (s.setQueue l { s.queue l with head := head }) :=
  h.congr rfl rfl rfl fun k => by
    rw [State.queue_setQueue]
    split
    · rename_i hk
      rw [hk]
    · rfl

theorem StampLawWith.examine {s : State} (l : Link) (js : List Job) (hentries : (s.queue l).entries = js)
    (h : StampLawWith [] s) : StampLawWith [] (s.examine l js) := by
  induction js generalizing s with
  | nil => exact h.setHead l _
  | cons j js ih =>
    unfold State.examine
    split
    · exact h.setHead l _
    · split
      · refine ih ?_ (h.completeHead hentries _ _)
        rw [State.completeHead_queue, hentries]
        rfl
      · rename_i g hop
        refine ih ?_ (h.takePresent hentries hop)
        rw [State.takePresent_queue _ _ _ _ hop, hentries]
        rfl
      · exact h.setHead l _

theorem StampLawWith.examineHead {s : State} (h : StampLawWith [] s) (l : Link) : StampLawWith [] (s.examineHead l) := by
  unfold State.examineHead
  split
  · exact h
  · exact h
  · exact h.examine l _ rfl
  · exact h.examine l _ rfl

theorem StampLawWith.grants (n : Nat) {s : State} (h : StampLawWith [] s) : StampLawWith [] (State.grants n s) := by
  have hgranted : ∀ (t : State) (l : Link), StampLawWith [] t → StampLawWith [] (t.granted l) := fun t l ht =>
    StampLawWith.congr ht rfl rfl rfl fun k => by
      rw [State.granted_queue]
      split
      · rename_i hk
        rw [hk]
      · rfl
  refine State.grants_keeps ?_ ?_ n h
  · intro t l j rest status ht _ _ hentries _
    refine StampLawWith.examineHead (StampLawWith.completeHead (hgranted t l ht) (rest := rest) ?_ _ _) l
    rw [State.granted_queue, if_pos rfl]
    exact hentries
  · intro t l j rest ht _ _ _ _
    have := hgranted t l ht
    generalize t.granted l = granted at this ⊢
    exact this.of_same rfl rfl rfl rfl

theorem StampLawWith.schedule {s : State} (h : StampLawWith [] s) (l : Link) : StampLawWith [] (s.schedule l) :=
  (h.examineHead l).grants _

theorem StampLawWith.scheduleAll {s : State} (h : StampLawWith [] s) : StampLawWith [] s.scheduleAll :=
  StampLawWith.grants _ (foldl_keeps (StampLawWith []) State.examineHead (fun _ l ht => ht.examineHead l) allLinks h)

theorem StampLawWith.completeInFlight {s : State} (h : StampLawWith [] s) {f : InFlight} {rest : List Job}
    (hentries : (s.queue f.link).entries = f.job :: rest) (e : Ending) : StampLawWith [] (s.completeInFlight f e) := by
  have hcompleted := h.completeHead hentries e f.result
  unfold State.completeInFlight
  dsimp only
  split <;> exact hcompleted.of_same (by simp) (by simp) (by simp) (by simp)

theorem StampLawWith.endRow {s : State} (h : StampLawWith [] s) (hjobs : JobLaw s) {f : InFlight}
    (hf : s.engine = some f) : StampLawWith [] (s.endRow f) := by
  obtain ⟨rest, hentries⟩ := List.head?_eq_some_iff.1 (hjobs.flightJob f hf).1
  unfold State.endRow
  dsimp only
  have hdrawn : StampLawWith [] (s.drawRow f) := h.of_same rfl rfl rfl rfl
  have hqueue : ((s.drawRow f).queue f.link).entries = f.job :: rest := hentries
  generalize s.drawRow f = d at hdrawn hqueue ⊢
  have hcompletes : ∀ e, StampLawWith [] ((d.completeInFlight f.rowEnded e).schedule f.link) := fun e =>
    StampLawWith.schedule (StampLawWith.completeInFlight hdrawn (f := f.rowEnded) hqueue e) f.link
  (repeat' split)
  · exact hcompletes _
  · exact hcompletes _
  · exact hdrawn.of_same rfl rfl rfl rfl

/-! ### The start of a teardown -/

theorem StampLawWith.dropJobs {s : State} (h : StampLawWith [] s) (l : Link) : StampLawWith [] (s.dropJobs l) := by
  unfold State.dropJobs
  dsimp only
  have hcut : (s.queue l).entries = s.keptEntries l ++ s.droppedEntries l := by
    have hkept : s.keptEntries l = (s.queue l).entries.take (s.keptEntries l).length := by
      rw [State.keptEntries_eq]
      split
      · cases (s.queue l).entries <;> simp
      · rfl
    unfold State.droppedEntries
    conv_lhs => rw [← List.take_append_drop (s.keptEntries l).length (s.queue l).entries, ← hkept]
  have hleft : StampLawWith (s.droppedEntries l) (s.setQueue l
      { entries := s.keptEntries l, head := if s.keptEntries l = [] then .empty else .inFlight,
        staging := (s.queue l).staging - ((s.droppedEntries l).map fun j => j.op.staging).sum }) :=
    h.leave (.inl hcut) rfl
  have hreleased := hleft.releaseAll
  generalize (s.droppedEntries l).foldl State.releaseStampOf _ = released at hreleased ⊢
  exact hreleased.of_same rfl rfl rfl rfl

theorem State.orphanStamps_stamp (s : State) (l : Link) (i : StampSlot) :
    (s.orphanStamps l).stamp i = if (s.stamp i).owner = some l then (s.stamp i).orphaned else s.stamp i := by
  unfold State.orphanStamps State.stamp
  rw [Vector.getElem_map]

theorem StampLawWith.orphanStamps {s : State} (h : StampLawWith [] s) (l : Link) :
    StampLawWith [] (s.orphanStamps l) := by
  have hstamp := s.orphanStamps_stamp l
  have howned : (s.orphanStamps l).ownedStamps = s.ownedStamps.set l 0 := rfl
  have hqueue : ∀ k, (s.orphanStamps l).queue k = s.queue k := fun k => by simp
  have hpins : (s.orphanStamps l).pins = s.pins := by simp
  generalize s.orphanStamps l = t at hstamp howned hqueue hpins ⊢
  have hnaming : ∀ i, t.naming i = s.naming i := State.naming_congr fun k => by rw [hqueue]
  have hkept : ∀ i, (s.stamp i).owner ≠ some l → t.stamp i = s.stamp i := fun i hi => by rw [hstamp, if_neg hi]
  have hmine : ∀ i, (s.stamp i).owner = some l → (s.stamp i).references = 0 → t.stamp i = (s.stamp i).freed :=
    fun i hi hzero => by rw [hstamp, if_pos hi, Stamp.orphaned, if_pos hzero]
  have hretires : ∀ i, (s.stamp i).owner = some l → (s.stamp i).references ≠ 0 →
      t.stamp i = { s.stamp i with state := .retiring, owner := none } :=
    fun i hi hused => by rw [hstamp, if_pos hi, Stamp.orphaned, if_neg hused]
  have hcases : ∀ (P : Stamp → Prop) (i : StampSlot), ((s.stamp i).owner ≠ some l → P (s.stamp i)) →
      ((s.stamp i).owner = some l → (s.stamp i).references = 0 → P (s.stamp i).freed) →
      ((s.stamp i).owner = some l → (s.stamp i).references ≠ 0 →
        P { s.stamp i with state := .retiring, owner := none }) → P (t.stamp i) := by
    intro P i hother hfree hused
    by_cases hi : (s.stamp i).owner = some l
    · by_cases hzero : (s.stamp i).references = 0
      · rw [hmine i hi hzero]
        exact hfree hi hzero
      · rw [hretires i hi hzero]
        exact hused hi hzero
    · rw [hkept i hi]
      exact hother hi
  constructor
  case counted =>
    intro i
    rw [hnaming, ← h.counted i]
    exact hcases (fun x => x.references = (s.stamp i).references) i (fun _ => rfl) (fun _ hzero => hzero.symm)
      fun _ _ => rfl
  case named =>
    intro k j hj f hf
    rw [hqueue] at hj
    have hcurrent := State.stampCurrent_iff.1 (h.named k j hj f hf)
    have hin : (s.queue k).entries.countP (Job.namesStamp f.slot) ≤ s.naming f.slot :=
      List.single_le_sum (by simp) _ (List.mem_map.2 ⟨k, mem_allLinks k, rfl⟩)
    have hpositive : 0 < (s.queue k).entries.countP (Job.namesStamp f.slot) :=
      List.countP_pos_iff.2 ⟨j, hj, Job.namesStamp_iff.2 ⟨f, hf, rfl⟩⟩
    have hcounted := h.counted f.slot
    refine State.stampCurrent_iff.2 (hcases (fun x => x.state ≠ .free ∧ x.gen = f.gen) f.slot (fun _ => hcurrent)
      (fun _ hzero => by omega) fun _ _ => ⟨nofun, hcurrent.2⟩)
  case leavingNamed => simp
  case freeStamps =>
    intro i
    refine hcases (fun x => x.state = .free → x.references = 0 ∧ x.owner = none ∧ ∀ b ∈ x.contents, b = 0) i
      (fun _ => h.freeStamps i) (fun _ _ _ => ⟨rfl, rfl, fun b hb => List.eq_of_mem_replicate hb⟩) fun _ _ => nofun
  case unowned =>
    intro i
    exact hcases (fun x => x.owner = none → x.state ≠ .loaded) i (fun _ => h.unowned i) (fun _ _ _ => nofun)
      fun _ _ _ => nofun
  case retiringUsed =>
    intro i
    exact hcases (fun x => x.state = .retiring → x.references ≠ 0) i (fun _ => h.retiringUsed i) (fun _ _ => nofun)
      fun _ hused _ => hused
  case owned =>
    intro k
    rw [howned, PerLink.get_set]
    have howner : ∀ i, ((t.stamp i).owner = some k) = (k ≠ l ∧ (s.stamp i).owner = some k) := fun i => by
      refine hcases (fun x => (x.owner = some k) = (k ≠ l ∧ (s.stamp i).owner = some k)) i (fun hi => ?_)
        (fun hi _ => ?_) fun hi _ => ?_
      · refine propext ⟨fun hk => ⟨?_, hk⟩, fun hk => hk.2⟩
        rintro rfl
        exact hi hk
      · simpa [Stamp.freed, hi] using fun hne heq => hne heq.symm
      · simpa [hi] using fun hne heq => hne heq.symm
    simp only [State.stampsOwned, howner]
    split
    · rename_i hk
      simp [hk]
    · rename_i hk
      simp only [ne_eq, hk, not_false_eq_true, true_and]
      exact h.owned k
  case even =>
    intro heven k
    rw [hpins] at heven
    rw [howned, PerLink.get_set]
    split
    · exact Nat.zero_le _
    · exact h.even heven k

theorem StampLawWith.startTeardown {s : State} (h : StampLawWith [] s) (l : Link) (reason : EndReason) :
    StampLawWith [] (s.startTeardown l reason) := by
  unfold State.startTeardown
  dsimp only
  generalize (s.link l).torn reason (s.ownedWindows l) (s.ownsEngine l) = torn
  have hdropped : StampLawWith [] ((s.setLink l torn).dropEvents l) := h.congr (by simp) (by simp) (by simp) fun k => by
    unfold State.dropEvents
    simp only [State.queue_setEvents, State.queue_setQueue]
    split
    · rename_i hk
      rw [hk]
      rfl
    · rfl
  generalize (s.setLink l torn).dropEvents l = dropped at hdropped ⊢
  have horphaned := (hdropped.dropJobs l).orphanStamps l
  generalize (dropped.dropJobs l).orphanStamps l = orphaned at horphaned ⊢
  exact horphaned.of_same (by simp) (by simp) (by simp) (by simp)

end Sys2Proof.Machine
end

section
/-! The stamp store, continued: admission, loading and freeing, and every step keeps the law of the stamps (O58). -/

namespace Sys2Proof.Machine

open Sys2Proof

/-- A SUBMIT that passes tests 6 to 9 of R76 names a LOADED stamp by a current handle. -/
theorem State.stampRefusal_passes {s : State} {l : Link} {op : JobOp} {g : StampHandle} (h : s.stampRefusal l op = none)
    (hg : op.stamp = some g) : (s.stamp g.slot).state ≠ .free ∧ (s.stamp g.slot).gen = g.gen := by
  rw [State.stampRefusal_of_stamp hg] at h
  split_ifs at h with hstale
  exact ⟨fun hfree => hstale (.inl hfree), not_not.1 fun hgen => hstale (.inr hgen)⟩

theorem State.stampChangeRefusal_eq_none {s : State} {l : Link} {g : StampHandle} (h : s.stampChangeRefusal l g = none) :
    (s.stamp g.slot).state = .loaded ∧ (s.stamp g.slot).gen = g.gen ∧ (s.stamp g.slot).owner = some l := by
  unfold State.stampChangeRefusal at h
  split_ifs at h with hstale hretiring howner
  obtain ⟨hfree, hgen⟩ := State.stampCurrent_iff.1 (Bool.not_eq_false _ ▸ hstale)
  refine ⟨?_, hgen, not_not.1 howner⟩
  cases hstate : (s.stamp g.slot).state with
  | free => exact absurd hstate hfree
  | loaded => rfl
  | retiring => exact absurd hstate hretiring

theorem State.freeStampSlot_eq_some {s : State} {i : StampSlot} (h : s.freeStampSlot = some i) :
    (s.stamp i).state = .free := by
  simpa using List.find?_some h

theorem State.loadRefusal_eq_none {s : State} {l : Link} (h : s.loadRefusal l = none) :
    s.pins.pool = false → s.ownedStamps.get l < 48 := by
  intro heven
  unfold State.loadRefusal at h
  split_ifs at h with hfull hquota
  simpa [heven, Config.evenStampLimit] using hquota

/-- The records and counts with one stamp's record replaced, its references and jobs staying. -/
theorem StampLawWith.replaceStamp {s t : State} (h : StampLawWith [] s) (i : StampSlot)
    (hothers : ∀ j, j ≠ i → t.stamp j = s.stamp j) (hqueues : t.queues = s.queues)
    (hrefs : (t.stamp i).references = (s.stamp i).references)
    (hcurrent : (s.stamp i).references ≠ 0 → (t.stamp i).state ≠ .free ∧ (t.stamp i).gen = (s.stamp i).gen)
    (hfree : (t.stamp i).state = .free → (t.stamp i).references = 0 ∧ (t.stamp i).owner = none ∧
      ∀ b ∈ (t.stamp i).contents, b = 0)
    (hunowned : (t.stamp i).owner = none → (t.stamp i).state ≠ .loaded)
    (hretiring : (t.stamp i).state = .retiring → (t.stamp i).references ≠ 0)
    (howned : ∀ l, t.ownedStamps.get l + (if (s.stamp i).owner = some l then 1 else 0) =
      s.ownedStamps.get l + if (t.stamp i).owner = some l then 1 else 0)
    (heven : t.pins.pool = false → ∀ l, t.ownedStamps.get l ≤ 48) : StampLawWith [] t := by
  have hqueue : ∀ l, t.queue l = s.queue l := fun l => by rw [State.queue, State.queue, hqueues]
  have hnaming : ∀ j, t.naming j = s.naming j := State.naming_congr fun k => by rw [hqueue]
  have hplace : ∀ (P : StampSlot → Stamp → Prop), P i (t.stamp i) → (∀ j, P j (s.stamp j)) → ∀ j, P j (t.stamp j) := by
    intro P hi hall j
    by_cases hj : j = i
    · rw [hj]
      exact hi
    · rw [hothers j hj]
      exact hall j
  constructor
  case counted =>
    simp only [hnaming]
    exact hplace (fun j x => x.references = s.naming j + List.countP (Job.namesStamp j) []) (hrefs.trans (h.counted i))
      h.counted
  case named =>
    intro k j hj g hg
    rw [hqueue] at hj
    have hbefore := State.stampCurrent_iff.1 (h.named k j hj g hg)
    rw [State.stampCurrent_iff]
    by_cases hslot : g.slot = i
    · have hin : (s.queue k).entries.countP (Job.namesStamp g.slot) ≤ s.naming g.slot :=
        List.single_le_sum (by simp) _ (List.mem_map.2 ⟨k, mem_allLinks k, rfl⟩)
      have hpositive : 0 < (s.queue k).entries.countP (Job.namesStamp g.slot) :=
        List.countP_pos_iff.2 ⟨j, hj, Job.namesStamp_iff.2 ⟨g, hg, rfl⟩⟩
      have hcounted := h.counted g.slot
      rw [hslot] at hbefore hin hpositive hcounted ⊢
      obtain ⟨hstate, hgen⟩ := hcurrent (by omega)
      exact ⟨hstate, hgen.trans hbefore.2⟩
    · rw [hothers _ hslot]
      exact hbefore
  case leavingNamed => simp
  case freeStamps =>
    exact hplace (fun _ x => x.state = .free → x.references = 0 ∧ x.owner = none ∧ ∀ b ∈ x.contents, b = 0) hfree
      h.freeStamps
  case unowned => exact hplace (fun _ x => x.owner = none → x.state ≠ .loaded) hunowned h.unowned
  case retiringUsed => exact hplace (fun _ x => x.state = .retiring → x.references ≠ 0) hretiring h.retiringUsed
  case owned =>
    intro l
    have hchange := State.stampsOwned_change (s := s) (t := t) i (fun j hj => by rw [hothers j hj]) l
    have hbefore := h.owned l
    have := howned l
    omega
  case even => exact heven

theorem StampLawWith.loadIn {s : State} (h : StampLawWith [] s) {l : Link} {i : StampSlot}
    (hpasses : s.loadRefusal l = none) (hslot : s.freeStampSlot = some i) (r : LoadRequest) :
    StampLawWith [] (s.loadIn l r i) := by
  obtain ⟨hrefs, howner, -⟩ := h.freeStamps i (State.freeStampSlot_eq_some hslot)
  have hself : (s.loadIn l r i).stamp i = (s.stamp i).loaded l r := by simp [State.loadIn]
  have hcount : ∀ k, (s.loadIn l r i).ownedStamps.get k =
      if k = l then s.ownedStamps.get l + 1 else s.ownedStamps.get k := fun k => by
    simp [State.loadIn, PerLink.get_set]
  refine h.replaceStamp i (fun j hj => by simp [State.loadIn, hj]) rfl ?_ (fun hused => absurd hrefs hused) ?_ ?_ ?_
    (fun k => ?_) fun heven k => ?_
  · rw [hself, hrefs]
    rfl
  · rw [hself]
    nofun
  · rw [hself]
    nofun
  · rw [hself]
    nofun
  · rw [hcount, hself, howner]
    by_cases hk : k = l
    · simp [hk, Stamp.loaded]
    · simp [hk, Stamp.loaded, Ne.symm hk]
  · rw [hcount]
    split
    · exact State.loadRefusal_eq_none hpasses heven
    · exact h.even heven k

theorem StampLawWith.reload {s : State} (h : StampLawWith [] s) {l : Link} {g : StampHandle}
    (hpasses : s.stampChangeRefusal l g = none) (data : List Byte) :
    StampLawWith [] (s.setStamp g.slot { s.stamp g.slot with contents := data }) := by
  obtain ⟨hloaded, -, howner⟩ := State.stampChangeRefusal_eq_none hpasses
  have hself : (s.setStamp g.slot { s.stamp g.slot with contents := data }).stamp g.slot =
      { s.stamp g.slot with contents := data } := by simp
  refine h.replaceStamp g.slot (fun j hj => by simp [hj]) rfl ?_ (fun _ => ?_) ?_ ?_ ?_ (fun k => ?_) h.even <;>
    rw [hself]
  · exact ⟨by simp [hloaded], rfl⟩
  · simp [hloaded]
  · simp [howner]
  · simp [hloaded]
  · rfl

theorem StampLawWith.freeOrRetire {s : State} (h : StampLawWith [] s) {l : Link} {g : StampHandle}
    (hpasses : s.stampChangeRefusal l g = none) : StampLawWith [] (s.freeOrRetire l g).state := by
  obtain ⟨hloaded, -, howner⟩ := State.stampChangeRefusal_eq_none hpasses
  unfold State.freeOrRetire
  split
  · rename_i hunused
    rw [Reply.answer_state]
    have hself : ((s.setStamp g.slot (s.stamp g.slot).freed).setOwned l (s.ownedStamps.get l - 1)).stamp g.slot =
        (s.stamp g.slot).freed := by simp
    have hcount : ∀ k, ((s.setStamp g.slot (s.stamp g.slot).freed).setOwned l (s.ownedStamps.get l - 1)).ownedStamps.get k =
        if k = l then s.ownedStamps.get l - 1 else s.ownedStamps.get k := fun k => by simp [PerLink.get_set]
    have hpositive : 0 < s.ownedStamps.get l := by
      rw [h.owned l]
      exact List.countP_pos_iff.2 ⟨g.slot, mem_finRange _, by simp [howner]⟩
    refine h.replaceStamp g.slot (fun j hj => by simp [hj]) rfl ?_ (fun hused => absurd hunused hused) (fun _ => ?_) ?_
      ?_ (fun k => ?_) fun heven k => ?_
    · rw [hself, hunused]
      rfl
    · rw [hself]
      exact ⟨rfl, rfl, fun b hb => List.eq_of_mem_replicate hb⟩
    · rw [hself]
      nofun
    · rw [hself]
      nofun
    · rw [hcount, hself, howner]
      by_cases hk : k = l
      · subst hk
        simp only [if_true, Stamp.freed, reduceCtorEq, if_false]
        omega
      · simp [hk, Ne.symm hk, Stamp.freed]
    · rw [hcount]
      have := h.even heven k
      split
      · rename_i hk
        rw [← hk]
        omega
      · exact this
  · rename_i hused
    rw [Reply.answer_state]
    have hself : (s.setStamp g.slot { s.stamp g.slot with state := .retiring }).stamp g.slot =
        { s.stamp g.slot with state := .retiring } := by simp
    refine h.replaceStamp g.slot (fun j hj => by simp [hj]) rfl ?_ (fun _ => ?_) ?_ ?_ ?_ (fun k => ?_) h.even <;>
      rw [hself]
    · exact ⟨nofun, rfl⟩
    · nofun
    · simp [howner]
    · exact fun _ => hused
    · rfl

/-- An admitted job is counted with the stamp it names (R77). -/
theorem StampLawWith.admitJob {s : State} (h : StampLawWith [] s) {l : Link} {j : Job}
    (hpasses : s.stampRefusal l j.op = none) : StampLawWith [] (s.admitJob l j) := by
  have hentries : ∀ k, ((s.admitJob l j).queue k).entries =
      if k = l then (s.queue l).entries ++ [j] else (s.queue k).entries := fun k => by
    unfold State.admitJob State.referStamp
    split <;> simp only [State.takeReference_frame, State.takeReservation_frame, State.queue_setQueue] <;> split <;> rfl
  have hstamp : ∀ i, (s.admitJob l j).stamp i = { s.stamp i with
      references := (s.stamp i).references + if j.namesStamp i then 1 else 0 } := fun i => by
    unfold State.admitJob State.referStamp Job.namesStamp
    split
    · rename_i g hg
      simp only [hg, State.takeReference, State.stamp_setStamp, Option.any_some, decide_eq_true_eq]
      by_cases hi : i = g.slot
      · subst hi
        simp
      · rw [if_neg hi, if_neg (Ne.symm hi)]
        simp
    · rename_i hg
      simp [hg]
  have howned : (s.admitJob l j).ownedStamps = s.ownedStamps := by
    unfold State.admitJob State.referStamp
    split <;> simp
  have hpins : (s.admitJob l j).pins = s.pins := by
    unfold State.admitJob State.referStamp
    split <;> simp
  generalize s.admitJob l j = t at hentries hstamp howned hpins ⊢
  have hcurrent : ∀ g, t.stampCurrent g = s.stampCurrent g := fun g => by simp only [State.stampCurrent, hstamp]
  have hcount : ∀ k, t.stampsOwned k = s.stampsOwned k := fun k => by simp only [State.stampsOwned, hstamp]
  constructor
  case counted =>
    intro i
    have hchange := State.naming_change (s := s) (t := t) l (fun k hk => by rw [hentries, if_neg hk]) i
    rw [hentries, if_pos rfl, List.countP_append, List.countP_singleton] at hchange
    have hbefore := h.counted i
    rw [List.countP_nil] at hbefore ⊢
    rw [hstamp]
    dsimp only
    omega
  case named =>
    intro k i hi g hg
    rw [hcurrent]
    rw [hentries] at hi
    split at hi
    · rcases List.mem_append.1 hi with hi | hi
      · exact h.named l i hi g hg
      · rw [List.mem_singleton.1 hi] at hg
        exact State.stampCurrent_iff.2 (State.stampRefusal_passes hpasses hg)
    · exact h.named k i hi g hg
  case leavingNamed => simp
  case freeStamps =>
    intro i hfree
    rw [hstamp] at hfree ⊢
    obtain ⟨hrefs, howner, hzero⟩ := h.freeStamps i hfree
    refine ⟨?_, howner, hzero⟩
    have hnot : j.namesStamp i = false := by
      by_contra hnames
      obtain ⟨g, hg, hslot⟩ := Job.namesStamp_iff.1 (Bool.not_eq_false _ ▸ hnames)
      exact (State.stampRefusal_passes hpasses hg).1 (hslot ▸ hfree)
    simp [hrefs, hnot]
  case unowned =>
    intro i
    rw [hstamp]
    exact h.unowned i
  case retiringUsed =>
    intro i hretiring
    rw [hstamp] at hretiring ⊢
    have := h.retiringUsed i hretiring
    dsimp only
    omega
  case owned =>
    intro k
    rw [howned, hcount]
    exact h.owned k
  case even =>
    rw [hpins, howned]
    exact h.even

/-! ### Every step -/

/-- The stamp law beside the law of the job queues. -/
def StampsAndJobs (s : State) : Prop := StampLawWith [] s ∧ JobLaw s

theorem StampsAndJobs.of_same {s t : State} (h : StampsAndJobs s) (hstamps : t.stamps = s.stamps)
    (howned : t.ownedStamps = s.ownedStamps) (hpins : t.pins = s.pins) (hqueues : t.queues = s.queues)
    (hengine : t.engine = s.engine) : StampsAndJobs t :=
  ⟨h.1.of_same hstamps howned hpins hqueues, h.2.of_same hqueues hengine⟩

theorem stampsAndJobs_kept : KeptByParts StampsAndJobs where
  answers _ _ _ h _ := h.of_same rfl rfl rfl rfl rfl
  renews _ _ h := h.of_same rfl rfl rfl rfl rfl
  executes _ _ _ _ _ _ h _ _ := h.of_same rfl rfl rfl rfl rfl
  transmits s l h := h.of_same (by simp) (by simp) (by simp) (by simp) (by simp)
  ends s l reason hreset h := ⟨(h.1.startTeardown l reason).scheduleAll, jobLaw_kept.ends s l reason hreset h.2⟩
  pinReset s pins _ := ⟨stampLaw_iff.1 (s.atReset_afterPinReset pins).stampLaw, (s.atReset_afterPinReset pins).jobLaw⟩
  resetRelease _ _ h := h.of_same rfl rfl rfl rfl rfl
  scrubs _ _ _ _ _ _ h := h.of_same rfl rfl rfl rfl rfl
  begins _ _ _ _ h _ _ _ _ := h.of_same rfl rfl rfl rfl rfl
  goodbye _ _ h _ := h.of_same rfl rfl rfl rfl rfl
  notify _ _ _ h := h.of_same rfl rfl rfl rfl rfl
  idles _ _ h := h.of_same rfl rfl rfl rfl rfl
  ticks _ _ h _ := h.of_same rfl rfl rfl rfl rfl
  retires s l seq gone rest h hsplit :=
    ⟨h.1.congr rfl rfl rfl fun k => by
      unfold State.retire
      rw [State.queue_setEvents, State.queue_setQueue]
      split
      · rename_i hk
        rw [hk]
      · rfl, jobLaw_kept.retires s l seq gone rest h.2 hsplit⟩
  resends _ _ h _ := h.of_same rfl rfl rfl rfl rfl
  opens _ _ _ _ _ h _ _ _ := h.of_same rfl rfl rfl rfl rfl
  closes s l g hreset h hup hpasses :=
    ⟨StampLawWith.scheduleAll (h.1.of_same (by simp) (by simp) (by simp) (by simp)),
      jobLaw_kept.closes s l g hreset h.2 hup hpasses⟩
  restyles _ _ _ _ h _ _ := h.of_same rfl rfl rfl rfl rfl
  shows _ _ _ _ h _ _ := h.of_same rfl rfl rfl rfl rfl
  hides s l g h _ := by
    unfold State.hidden
    split
    · exact h.of_same (by simp) (by simp) (by simp) (by simp) (by simp)
    · exact h
  submits s l j h hup hpasses := by
    obtain ⟨-, hstamp, -⟩ := State.submitRefusal_eq_none hpasses
    exact ⟨(h.1.admitJob hstamp).schedule l, jobLaw_kept.submits s l j h.2 hup hpasses⟩
  loads s l r i h _ hpasses hslot := ⟨h.1.loadIn hpasses hslot r, h.2.of_same rfl rfl⟩
  reloads s l g data h hpasses := ⟨h.1.reload hpasses data, h.2.of_same rfl rfl⟩
  frees s l g h hpasses :=
    ⟨h.1.freeOrRetire hpasses, h.2.of_same (s.freeOrRetire_queues l g) (s.freeOrRetire_engine l g)⟩
  rowEnds s f _ h hf := ⟨h.1.endRow h.2 hf, h.2.endRow hf⟩
  frameStarts s hreset h :=
    ⟨StampLawWith.scheduleAll (h.1.of_same (by simp) (by simp) (by simp) (by simp)), jobLaw_kept.frameStarts s hreset h.2⟩
  reports s es h := h.of_same (by simp) (by simp) (by simp) (by simp) (by simp)

/-- Settles O58: `stampsAndJobs_kept`. -/
theorem stampLawKept : Obligations.StampLawKept := fun _ _ hs hjobs ht =>
  stampLaw_iff.2 (stampsAndJobs_kept.step (fun _ _ h => h.of_same rfl rfl rfl rfl rfl) ⟨stampLaw_iff.1 hs, hjobs⟩ ht).1

end Sys2Proof.Machine
end

section
/-! What the examination of heads and the arbiter change of the window records: pending flips, and nothing else. -/

namespace Sys2Proof.Machine

open Sys2Proof

/-- The records differ at most in flip pending. -/
def Window.Rearmed (w v : Window) : Prop := { v with flipPending := w.flipPending } = w

/-- Every window record differs at most in flip pending. -/
def State.WindowsRearmed (s t : State) : Prop := ∀ i, (s.window i).Rearmed (t.window i)

section
variable {w v u : Window} {s t r : State}

theorem Window.Rearmed.refl (w : Window) : w.Rearmed w := rfl

theorem Window.Rearmed.trans (h : w.Rearmed v) (h' : v.Rearmed u) : w.Rearmed u := by
  unfold Window.Rearmed at *
  rw [← h, ← h']

theorem State.WindowsRearmed.refl (s : State) : s.WindowsRearmed s := fun _ => rfl

theorem State.WindowsRearmed.trans (h : s.WindowsRearmed t) (h' : t.WindowsRearmed r) : s.WindowsRearmed r :=
  fun i => (h i).trans (h' i)

theorem State.WindowsRearmed.of_eq (h : t.windows = s.windows) : s.WindowsRearmed t := fun i => by
  rw [State.window, State.window, h]
  exact .refl _

theorem State.WindowsRearmed.foldl {α : Type} {f : State → α → State} (h : ∀ (t : State) x, t.WindowsRearmed (f t x))
    (xs : List α) (s : State) : s.WindowsRearmed (xs.foldl f s) :=
  foldl_keeps (fun t => s.WindowsRearmed t) f (fun t x ht => ht.trans (h t x)) xs (.refl s)

end

theorem State.takePresent_rearms (s : State) (l : Link) (j : Job) (h : Handle) : s.WindowsRearmed (s.takePresent l j h) := by
  unfold State.takePresent
  split
  · intro i
    rw [State.window_setWindow]
    split
    · rename_i hi
      subst hi
      exact rfl
    · exact .refl _
  · exact .of_eq (by simp)

theorem State.examine_rearms (s : State) (l : Link) (js : List Job) : s.WindowsRearmed (s.examine l js) := by
  induction js generalizing s with
  | nil => exact .of_eq rfl
  | cons j js ih =>
    unfold State.examine
    split
    · exact .of_eq rfl
    · split
      · exact .trans (.of_eq (by simp)) (ih _)
      · exact .trans (s.takePresent_rearms l j _) (ih _)
      · exact .of_eq rfl

theorem State.examineHead_rearms (s : State) (l : Link) : s.WindowsRearmed (s.examineHead l) := by
  unfold State.examineHead
  split
  · exact .refl s
  · exact .refl s
  · exact s.examine_rearms l _
  · exact s.examine_rearms l _

theorem State.granted_windows (s : State) (l : Link) : (s.granted l).windows = s.windows := rfl

theorem State.grants_rearms (n : Nat) (s : State) : s.WindowsRearmed (State.grants n s) := by
  refine State.grants_keeps (P := fun t => s.WindowsRearmed t) (fun t l j _ status ht _ _ _ _ => ?_)
    (fun t l j _ ht _ _ _ _ => ?_) n (.refl s)
  · refine ht.trans (.trans (.of_eq ?_) (State.examineHead_rearms _ l))
    simp [State.granted_windows]
  · exact ht.trans (.of_eq (t.granted_windows l))

theorem State.arbitrate_rearms (s : State) : s.WindowsRearmed s.arbitrate := s.grants_rearms _

theorem State.scheduleAll_rearms (s : State) : s.WindowsRearmed s.scheduleAll :=
  (State.WindowsRearmed.foldl State.examineHead_rearms allLinks s).trans (State.arbitrate_rearms _)

end Sys2Proof.Machine
end

section
/-! The pages: where they are, who holds them and what they contain, and that every step keeps their law (O56). -/

namespace Sys2Proof.Machine

open Sys2Proof

/-! ### What the law reads -/

/-- The records hold the same buffers for the same owner, and are both FREE or neither. -/
structure Window.SameHolding (w v : Window) : Prop where
  gen : v.gen = w.gen
  free : v.state = .free ↔ w.state = .free
  owner : v.owner = w.owner
  width : v.width = w.width
  height : v.height = w.height
  buffering : v.buffering = w.buffering
  buf0 : v.buf0 = w.buf0
  buf1 : v.buf1 = w.buf1

theorem Window.SameHolding.refl (w : Window) : w.SameHolding w := ⟨rfl, Iff.rfl, rfl, rfl, rfl, rfl, rfl, rfl⟩

theorem Window.sameHolding_state (w : Window) {state : WindowState} (h : state = .free ↔ w.state = .free) :
    w.SameHolding { w with state := state } := ⟨rfl, h, rfl, rfl, rfl, rfl, rfl, rfl⟩

theorem Window.SameHolding.pages {w v : Window} (h : w.SameHolding v) : v.pages = w.pages := by
  simp only [Window.pages, h.width, h.height, h.buffering]

theorem Window.Rearmed.sameHolding {w v : Window} (h : w.Rearmed v) : w.SameHolding v := by
  unfold Window.Rearmed at h
  rw [← h]
  exact ⟨rfl, Iff.rfl, rfl, rfl, rfl, rfl, rfl, rfl⟩

/-- The target of the job in flight and the buffer it writes into. -/
def State.drawing (s : State) : Option (Handle × List Nat) :=
  s.engine.bind fun f => f.job.op.target.map fun h => (h, f.writePages)

theorem State.drawing_eq_some {s : State} {h : Handle} {pages : List Nat} :
    s.drawing = some (h, pages) ↔ ∃ f, s.engine = some f ∧ f.job.op.target = some h ∧ f.writePages = pages := by
  simp [State.drawing, Option.bind_eq_some_iff]

theorem State.drawing_congr {s t : State} (h : t.engine = s.engine) : t.drawing = s.drawing := by
  rw [State.drawing, h, State.drawing]

/-- A change of the job in flight that keeps its job and its write buffer. -/
theorem State.drawing_map {s t : State} {g : InFlight → InFlight} (h : t.engine = s.engine.map g)
    (hjob : ∀ f, (g f).job = f.job) (hpages : ∀ f, (g f).writePages = f.writePages) : t.drawing = s.drawing := by
  rw [State.drawing, h, State.drawing]
  cases s.engine with
  | none => rfl
  | some f => simp [hjob, hpages]

@[simp] theorem InFlight.windowCloses_writePages (f : InFlight) (h : Handle) :
    (f.windowCloses h).writePages = f.writePages := by
  unfold InFlight.windowCloses
  (repeat' split) <;> rfl

@[simp] theorem InFlight.linkEnds_writePages (f : InFlight) (l : Link) : (f.linkEnds l).writePages = f.writePages := by
  unfold InFlight.linkEnds
  split <;> rfl

/-- What the job in flight draws lies in a buffer that its target holds. -/
def State.DrawsInTarget (s : State) (d : Handle × List Nat) : Prop :=
  (s.window d.1.slot).gen = d.1.gen ∧ (s.window d.1.slot).state ≠ .free ∧
    (d.2 = (s.window d.1.slot).buf0 ∨ d.2 = (s.window d.1.slot).buf1)

theorem PageLaw.draws {s : State} (h : PageLaw s) {d : Handle × List Nat} (hd : s.drawing = some d) :
    s.DrawsInTarget d := by
  obtain ⟨f, hf, htarget, hpages⟩ := State.drawing_eq_some.1 hd
  have := h.drawnInTarget f d.1 hf htarget
  rwa [hpages] at this

/-- The law but for the contents of the free set and what the engine draws, of states whose pools and holdings agree. -/
theorem PageLaw.congr {s t : State} (h : PageLaw s) (hpool : t.pool = s.pool) (hreset : t.resetN = s.resetN)
    (hpins : t.pins = s.pins) (hwindows : ∀ i, (s.window i).SameHolding (t.window i))
    (hzeroed : ∀ p ∈ s.pool.free, ∀ a, p * 2048 ≤ a → a < (p + 1) * 2048 → readByte t.mem a = 0)
    (hdraws : ∀ d, t.drawing = some d → t.DrawsInTarget d) : PageLaw t := by
  have hheld : t.heldPages = s.heldPages := by
    simp only [State.heldPages, Window.heldPages, (hwindows _).buf0, (hwindows _).buf1]
  have howned : ∀ l, t.pagesOwned l = s.pagesOwned l := fun l => by
    simp only [State.pagesOwned, (hwindows _).owner, (hwindows _).pages]
  constructor
  case partition => rw [hpool, hheld]; exact h.partition
  case ascending => rw [hpool]; exact h.ascending
  case scrubbing => rw [hpool, hreset]; exact h.scrubbing
  case freeWindows =>
    intro i hfree
    rw [(hwindows i).owner, (hwindows i).buf0, (hwindows i).buf1]
    exact h.freeWindows i ((hwindows i).free.1 hfree)
  case usedWindows =>
    intro i hused
    rw [(hwindows i).owner, (hwindows i).buf0, (hwindows i).buf1, (hwindows i).width, (hwindows i).height,
      (hwindows i).buffering]
    exact h.usedWindows i (mt (hwindows i).free.2 hused)
  case counted => intro l; rw [hpool, howned]; exact h.counted l
  case even => rw [hpins, hpool]; exact h.even
  case zeroed => rw [hpool]; exact hzeroed
  case drawnInTarget =>
    intro f g hf htarget
    exact hdraws (g, f.writePages) (State.drawing_eq_some.2 ⟨f, hf, htarget, rfl⟩)

section
variable {s t : State}

theorem State.DrawsInTarget.congr {d : Handle × List Nat} (h : s.DrawsInTarget d)
    (hwindow : (s.window d.1.slot).SameHolding (t.window d.1.slot)) : t.DrawsInTarget d := by
  obtain ⟨hgen, hused, hpages⟩ := h
  exact ⟨hwindow.gen.trans hgen, mt hwindow.free.1 hused, by rwa [hwindow.buf0, hwindow.buf1]⟩

/-- States that agree in what the law reads, but for the end of the job in flight. -/
theorem PageLaw.of_holdings (h : PageLaw s) (hpool : t.pool = s.pool) (hreset : t.resetN = s.resetN)
    (hpins : t.pins = s.pins) (hmem : t.mem = s.mem) (hwindows : ∀ i, (s.window i).SameHolding (t.window i))
    (hdrawing : ∀ d, t.drawing = some d → s.drawing = some d) : PageLaw t :=
  h.congr hpool hreset hpins hwindows (by rw [hmem]; exact h.zeroed)
    fun d hd => (h.draws (hdrawing d hd)).congr (hwindows _)

theorem PageLaw.of_rearmed (h : PageLaw s) (hpool : t.pool = s.pool) (hreset : t.resetN = s.resetN)
    (hpins : t.pins = s.pins) (hmem : t.mem = s.mem) (hwindows : s.WindowsRearmed t)
    (hengine : t.engine = s.engine ∨ t.engine = none) : PageLaw t := by
  refine h.of_holdings hpool hreset hpins hmem (fun i => (hwindows i).sameHolding) fun d hd => ?_
  rcases hengine with he | he
  · rwa [State.drawing_congr he] at hd
  · simp [State.drawing, he] at hd

theorem PageLaw.of_same (h : PageLaw s) (hpool : t.pool = s.pool) (hreset : t.resetN = s.resetN) (hpins : t.pins = s.pins)
    (hmem : t.mem = s.mem) (hwindows : t.windows = s.windows) (hengine : t.engine = s.engine) : PageLaw t :=
  h.of_rearmed hpool hreset hpins hmem (.of_eq hwindows) (.inl hengine)

theorem PageLaw.setWindow (h : PageLaw s) {i : Slot} {w : Window} (hw : (s.window i).SameHolding w) :
    PageLaw (s.setWindow i w) := by
  refine h.of_holdings rfl rfl rfl rfl (fun j => ?_) fun d hd => hd
  rw [State.window_setWindow]
  split
  · rename_i hj
    rw [hj]
    exact hw
  · exact .refl _

end

/-! ### Release -/

/-- Counts of pages held, where one window's buffers change. -/
theorem State.count_heldPages_change {s t : State} (i : Slot) (h : ∀ j, j ≠ i → t.window j = s.window j) (p : Nat) :
    t.heldPages.count p + (s.window i).heldPages.count p = s.heldPages.count p + (t.window i).heldPages.count p := by
  unfold State.heldPages
  rw [List.count_flatMap, List.count_flatMap]
  exact sum_map_change (nodup_finRange 32) (mem_finRange i) (f := fun j => (t.window j).heldPages.count p)
    (g := fun j => (s.window j).heldPages.count p) fun j hj => by rw [h j hj]

/-- Pages owned, where one window changes. -/
theorem State.pagesOwned_change {s t : State} (i : Slot) (h : ∀ j, j ≠ i → t.window j = s.window j) (l : Link) :
    t.pagesOwned l + (if (s.window i).owner = some l then (s.window i).pages else 0) =
      s.pagesOwned l + if (t.window i).owner = some l then (t.window i).pages else 0 :=
  sum_map_change (nodup_finRange 32) (mem_finRange i)
    (f := fun j => if (t.window j).owner = some l then (t.window j).pages else 0)
    (g := fun j => if (s.window j).owner = some l then (s.window j).pages else 0) fun j hj => by rw [h j hj]

theorem Pool.release_busy (p : Pool) (owner : Option Link) (pages : List Nat) (n : Nat) :
    (p.release owner pages n).busy = !(p.scrub ++ pages).isEmpty := by
  unfold Pool.release
  cases owner <;> rfl

theorem Pool.release_held (p : Pool) (owner : Option Link) (pages : List Nat) (n : Nat) (l : Link) :
    (p.release owner pages n).held.get l = p.held.get l - if owner = some l then n else 0 := by
  unfold Pool.release
  cases owner with
  | none => simp [Pool.startScrub]
  | some o =>
    simp only [Pool.startScrub, PerLink.get_set, Option.some.injEq]
    by_cases hl : l = o
    · simp [hl]
    · simp [hl, Ne.symm hl]

theorem PageLaw.release {s : State} (h : PageLaw s) (hreset : s.resetN = true) {i : Slot}
    (hnamed : s.namedInFlight ⟨i, (s.window i).gen⟩ = false) : PageLaw (s.release i) := by
  have hself : (s.release i).window i = (s.window i).released := by rw [State.release_window, if_pos rfl]
  have hother : ∀ j, j ≠ i → (s.release i).window j = s.window j := fun j hj => by rw [State.release_window, if_neg hj]
  have hpool := s.release_pool i
  have hreset' : (s.release i).resetN = true := by simpa using hreset
  have hpins : (s.release i).pins = s.pins := by simp
  have hmem : (s.release i).mem = s.mem := by simp
  have hengine : (s.release i).engine = s.engine := by simp
  generalize s.release i = t at hself hother hpool hreset' hpins hmem hengine ⊢
  constructor
  case partition =>
    refine List.perm_iff_count.2 fun p => ?_
    have hbefore := List.perm_iff_count.1 h.partition p
    have hchange := State.count_heldPages_change i hother p
    rw [hself] at hchange
    have hempty : (s.window i).released.heldPages = [] := rfl
    have hheld : (s.window i).heldPages = (s.window i).buf0 ++ (s.window i).buf1 := rfl
    rw [hempty, hheld] at hchange
    rw [hpool, Pool.release_free, Pool.release_scrub]
    simp only [List.count_append, List.count_nil] at hbefore hchange ⊢
    omega
  case ascending => rw [hpool, Pool.release_free]; exact h.ascending
  case scrubbing => rw [hpool, hreset', Pool.release_busy, Pool.release_scrub]; rfl
  case freeWindows =>
    intro j hfree
    by_cases hj : j = i
    · subst hj
      rw [hself]
      exact ⟨rfl, rfl, rfl⟩
    · rw [hother j hj] at hfree ⊢
      exact h.freeWindows j hfree
  case usedWindows =>
    intro j hused
    by_cases hj : j = i
    · subst hj
      rw [hself] at hused
      exact absurd rfl hused
    · rw [hother j hj] at hused ⊢
      exact h.usedWindows j hused
  case counted =>
    intro l
    have hchange := State.pagesOwned_change i hother l
    rw [hself] at hchange
    have hnone : (s.window i).released.owner = none := rfl
    rw [hnone] at hchange
    simp only [reduceCtorEq, if_false] at hchange
    rw [hpool, Pool.release_held, h.counted l]
    omega
  case even =>
    intro heven l
    rw [hpins] at heven
    rw [hpool, Pool.release_held]
    have := h.even heven l
    omega
  case zeroed => rw [hpool, Pool.release_free, hmem]; exact h.zeroed
  case drawnInTarget =>
    intro f g hf htarget
    rw [hengine] at hf
    have hdraws := h.drawnInTarget f g hf htarget
    have hslot : g.slot ≠ i := by
      rintro rfl
      have hg : (⟨g.slot, (s.window g.slot).gen⟩ : Handle) = g := by rw [hdraws.1]
      rw [hg] at hnamed
      simp [State.namedInFlight, hf, InFlight.names, htarget] at hnamed
    rwa [hother _ hslot]

/-- The law of the pages while RESET_N is high. -/
def PagesRun (s : State) : Prop := PageLaw s ∧ s.resetN = true

theorem PagesRun.of_holdings {s t : State} (h : PagesRun s) (hpool : t.pool = s.pool) (hreset : t.resetN = s.resetN)
    (hpins : t.pins = s.pins) (hmem : t.mem = s.mem) (hwindows : ∀ i, (s.window i).SameHolding (t.window i))
    (hdrawing : ∀ d, t.drawing = some d → s.drawing = some d) : PagesRun t :=
  ⟨h.1.of_holdings hpool hreset hpins hmem hwindows hdrawing, hreset.trans h.2⟩

theorem PagesRun.releaseTest {s : State} (h : PagesRun s) (i : Slot) : PagesRun (s.releaseTest i) := by
  refine ⟨?_, by simpa using h.2⟩
  rw [State.releaseTest_eq]
  split
  · rename_i htest
    exact h.1.release h.2 htest.2.2
  · exact h.1

theorem PagesRun.enterClosing {s : State} (h : PagesRun s) {i : Slot} (hlive : (s.window i).live = true)
    (reason : CloseReason) : PagesRun (s.enterClosing i reason) := by
  unfold State.enterClosing
  dsimp only
  have hoff : PagesRun ((s.setStack (s.stack.filter fun j => decide (j ≠ i))).setWindow i ((s.window i).closed reason)) := by
    refine h.of_holdings rfl rfl rfl rfl (fun j => ?_) fun d hd => hd
    rw [State.window_setWindow]
    split
    · rename_i hj
      subst hj
      refine ⟨rfl, ⟨nofun, fun hfree => ?_⟩, rfl, rfl, rfl, rfl, rfl, rfl⟩
      simp [Window.live, hfree] at hlive
    · exact .refl _
  generalize (s.setStack _).setWindow i _ = off at hoff ⊢
  have htold : PagesRun ((off.cancelPresent (s.window i)).cancelCaptures ⟨i, (s.window i).gen⟩ (decide (reason = .owner))) :=
    hoff.of_holdings (by simp) (by simp) (by simp) (by simp) (fun j => by simp [Window.SameHolding.refl])
      fun d hd => by rwa [State.drawing_congr (s := off) (by simp)] at hd
  generalize (off.cancelPresent (s.window i)).cancelCaptures _ _ = told at htold ⊢
  have hasked : PagesRun (told.setEngine (told.engine.map fun f => f.windowCloses ⟨i, (s.window i).gen⟩)) := by
    refine htold.of_holdings rfl rfl rfl rfl (fun j => .refl _) fun d hd => ?_
    rwa [State.drawing_map (s := told) rfl (fun _ => InFlight.windowCloses_job _ _)
      fun _ => InFlight.windowCloses_writePages _ _] at hd
  exact hasked.releaseTest i

/-! ### The start of a teardown -/

theorem PagesRun.teardownWindow (l : Link) {s : State} (h : PagesRun s) (i : Slot) :
    PagesRun (State.teardownWindow l s i) := by
  unfold State.teardownWindow
  dsimp only
  (repeat' split)
  · rename_i hlive
    exact h.enterClosing hlive _
  · exact ⟨h.1.setWindow ⟨rfl, Iff.rfl, rfl, rfl, rfl, rfl, rfl, rfl⟩, h.2⟩
  · exact h
  · exact h

theorem PagesRun.teardownWindows {s : State} (h : PagesRun s) (l : Link) : PagesRun (s.teardownWindows l) := by
  unfold State.teardownWindows
  refine foldl_keeps PagesRun (State.teardownWindow l) (fun t i ht => ht.teardownWindow l i) _ ?_
  refine h.of_holdings rfl rfl rfl rfl (fun i => ?_) fun d hd => hd
  rw [State.window_withoutGrants, Window.withoutGrant_eq]
  exact ⟨rfl, Iff.rfl, rfl, rfl, rfl, rfl, rfl, rfl⟩

theorem PagesRun.startTeardown {s : State} (h : PagesRun s) (l : Link) (reason : EndReason) :
    PagesRun (s.startTeardown l reason) := by
  unfold State.startTeardown
  dsimp only
  generalize (s.link l).torn reason (s.ownedWindows l) (s.ownsEngine l) = torn
  have hdropped : PagesRun ((((s.setLink l torn).dropEvents l).dropJobs l).orphanStamps l) :=
    h.of_holdings (by simp) (by simp) (by simp) (by simp) (fun i => by simp [Window.SameHolding.refl]) fun d hd => by
      rw [State.drawing_congr (s := ((s.setLink l torn).dropEvents l).dropJobs l) (by simp),
        State.drawing_map (State.dropJobs_engine _ l) (fun _ => InFlight.linkEnds_job _ _)
          fun _ => InFlight.linkEnds_writePages _ _,
        State.drawing_congr (s := s) (by simp)] at hd
      exact hd
  generalize (((s.setLink l torn).dropEvents l).dropJobs l).orphanStamps l = dropped at hdropped ⊢
  exact (hdropped.teardownWindows l).of_holdings (by simp) (by simp) (by simp) (by simp)
    (fun i => by simp [Window.SameHolding.refl])
    fun d hd => by rwa [State.drawing_congr (s := dropped.teardownWindows l) (by simp)] at hd

/-! ### Jobs -/

theorem PageLaw.examineHead {s : State} (h : PageLaw s) (l : Link) : PageLaw (s.examineHead l) :=
  h.of_rearmed (by simp) (by simp) (by simp) (by simp) (s.examineHead_rearms l) (.inl (by simp))

theorem Window.drawingPages_eq (w : Window) : w.drawingPages = w.buf0 ∨ w.drawingPages = w.buf1 := by
  unfold Window.drawingPages Window.buffer
  (repeat' split) <;> simp

/-- A job that passes its start checks names a target that is current. -/
theorem State.startFailure_target {s : State} {l : Link} {op : JobOp} {h : Handle} (hpasses : s.startFailure l op = none)
    (hop : op.target = some h) : (s.window h.slot).state ≠ .free ∧ (s.window h.slot).gen = h.gen := by
  unfold State.startFailure at hpasses
  split_ifs at hpasses with htarget
  rw [hop] at htarget
  simp only [Option.any_some, Bool.not_eq_true', Bool.not_eq_false, State.liveHandle, Bool.and_eq_true,
    State.current_eq_true_iff] at htarget
  exact htarget.1

theorem PageLaw.grants (n : Nat) {s : State} (h : PageLaw s) : PageLaw (State.grants n s) := by
  refine State.grants_keeps ?_ ?_ n h
  · intro t l j _ status ht _ _ _ _
    have hgranted : PageLaw (t.granted l) := ht.of_same rfl rfl rfl rfl rfl rfl
    generalize t.granted l = granted at hgranted ⊢
    exact PageLaw.examineHead (hgranted.of_same (by simp) (by simp) (by simp) (by simp) (by simp) (by simp)) l
  · intro t l j _ ht _ _ _ hpasses
    have hgranted : PageLaw (t.granted l) := ht.of_same rfl rfl rfl rfl rfl rfl
    generalize t.granted l = granted at hgranted hpasses ⊢
    refine hgranted.congr rfl rfl rfl (fun i => .refl _) hgranted.zeroed fun d hd => ?_
    obtain ⟨f, hf, htarget, hpages⟩ := State.drawing_eq_some.1 hd
    cases hf
    obtain ⟨hused, hgen⟩ := State.startFailure_target hpasses htarget
    refine ⟨hgen, hused, ?_⟩
    have hbuffer : (granted.startedJob l j).writePages = (granted.window d.1.slot).drawingPages := by
      simp only [State.startedJob, State.beginRow, State.writeBufferOf]
      rw [show j.op.target = some d.1 from htarget]
    rw [← hpages, hbuffer]
    exact Window.drawingPages_eq _

theorem PageLaw.schedule {s : State} (h : PageLaw s) (l : Link) : PageLaw (s.schedule l) := (h.examineHead l).grants _

theorem PageLaw.scheduleAll {s : State} (h : PageLaw s) : PageLaw s.scheduleAll :=
  PageLaw.grants _ (foldl_keeps PageLaw State.examineHead (fun _ l ht => ht.examineHead l) allLinks h)

theorem PagesRun.completeInFlight {s : State} (h : PagesRun s) (f : InFlight) (e : Ending) :
    PagesRun (s.completeInFlight f e) := by
  unfold State.completeInFlight
  dsimp only
  have hidle : PagesRun ((s.completeHead f.link f.job e f.result).setEngine none) :=
    h.of_holdings (by simp) (by simp) (by simp) (by simp) (fun i => by simp [Window.SameHolding.refl])
      fun d hd => by simp [State.drawing] at hd
  have htested := foldl_keeps PagesRun State.releaseTest (fun t i ht => ht.releaseTest i) f.slots hidle
  generalize f.slots.foldl State.releaseTest _ = tested at htested ⊢
  split
  · exact htested.of_holdings (by simp) (by simp) (by simp) (by simp) (fun i => by simp [Window.SameHolding.refl])
      fun d hd => by rwa [State.drawing_congr (s := tested) (by simp)] at hd
  · exact htested

/-- The pages of a row's target are held by a window, and so not free. -/
theorem PageLaw.drawRow {s : State} (h : PageLaw s) (hmem : MemoryLaw s) {f : InFlight} (hf : s.engine = some f) :
    PageLaw (s.drawRow f) := by
  refine h.congr rfl rfl rfl (fun i => .refl _) (fun p hp a hlo hhi => ?_) fun d hd => h.draws hd
  refine (drawPixels_frame f.job.op f.writePages _ _ s.mem _ hmem a fun i b hi hb => ?_).trans (h.zeroed p hp a hlo hhi)
  cases htarget : f.job.op.target with
  | none => simp [State.rowRoom, htarget] at hi
  | some g =>
    obtain ⟨page, hpage, rfl⟩ := pixelAddr_eq_some.1 hb
    have hin : page ∈ s.heldPages := by
      obtain ⟨-, -, hpages⟩ := h.drawnInTarget f g hf htarget
      refine List.mem_flatMap.2 ⟨g.slot, mem_finRange _, List.mem_append.2 ?_⟩
      have hmem := List.mem_of_getElem? hpage
      rcases hpages with hbuffer | hbuffer <;> rw [hbuffer] at hmem
      · exact .inl hmem
      · exact .inr hmem
    have hne : page ≠ p := by
      rintro rfl
      have hnodup := h.partition.nodup_iff.2 List.nodup_range
      exact List.disjoint_of_nodup_append hnodup (List.mem_append_left _ hp) hin
    have hbounds := pageAddr_bounds page ((s.rowBase f + i) % 1024) (Nat.mod_lt _ (by decide))
    omega

theorem PageLaw.endRow {s : State} (h : PageLaw s) (hreset : s.resetN = true) (hmem : MemoryLaw s) {f : InFlight}
    (hf : s.engine = some f) : PageLaw (s.endRow f) := by
  unfold State.endRow
  dsimp only
  have hdrawn : PagesRun (s.drawRow f) := ⟨h.drawRow hmem hf, hreset⟩
  have hengine : (s.drawRow f).engine = some f := hf
  generalize s.drawRow f = d at hdrawn hengine ⊢
  (repeat' split)
  · exact (hdrawn.completeInFlight _ _).1.schedule _
  · exact (hdrawn.completeInFlight _ _).1.schedule _
  · refine hdrawn.1.of_holdings rfl rfl rfl rfl (fun i => .refl _) fun g hg => ?_
    obtain ⟨f', hf', htarget, hpages⟩ := State.drawing_eq_some.1 hg
    cases hf'
    exact State.drawing_eq_some.2 ⟨f, hengine, htarget, hpages⟩

/-! ### Frames -/

theorem PagesRun.takeFlip {s : State} (h : PagesRun s) (i : Slot) : PagesRun (s.takeFlip i) := by
  unfold State.takeFlip
  split
  · rename_i f hf
    have hflipped : PagesRun (s.setWindow i (s.window i).flipped) :=
      ⟨h.1.setWindow ⟨rfl, Iff.rfl, rfl, rfl, rfl, rfl, rfl, rfl⟩, h.2⟩
    generalize s.setWindow i _ = d at hflipped ⊢
    exact hflipped.of_holdings (by simp) (by simp) (by simp) (by simp) (fun j => by simp [Window.SameHolding.refl])
      fun g hg => by rwa [State.drawing_congr (s := d) (by simp)] at hg
  · exact h

theorem PagesRun.updateMarks {s : State} (h : PagesRun s) : PagesRun s.updateMarks := by
  refine foldl_keeps PagesRun State.releaseTest (fun t i ht => ht.releaseTest i) _ (h.of_holdings ?_ ?_ ?_ ?_ (fun i => ?_) ?_)
  · simp only [State.markGlass]
  · simp only [State.markGlass]
  · simp only [State.markGlass]
  · simp only [State.markGlass]
  · rw [State.markGlass_window]
    exact ⟨rfl, Iff.rfl, rfl, rfl, rfl, rfl, rfl, rfl⟩
  · intro d hd
    rwa [State.drawing_congr (s := s) (by simp only [State.markGlass])] at hd

theorem PagesRun.frameParts {s : State} (h : PagesRun s) : PagesRun s.frameParts := by
  unfold State.frameParts
  dsimp only
  have hcounted : PagesRun (s.setScanout s.scanout.counted) :=
    h.of_holdings rfl rfl rfl rfl (fun i => .refl _) fun d hd => hd
  have hflipped := foldl_keeps PagesRun State.takeFlip (fun t i ht => ht.takeFlip i) (List.finRange 32) hcounted
  generalize (List.finRange 32).foldl State.takeFlip _ = flipped at hflipped ⊢
  have hlatched : PagesRun flipped.latch := hflipped.of_holdings rfl rfl rfl rfl (fun i => .refl _) fun d hd => hd
  have hmarked := hlatched.updateMarks
  generalize flipped.latch.updateMarks = marked at hmarked ⊢
  exact hmarked.of_holdings (by simp) (by simp) (by simp) (by simp) (fun j => by simp [Window.SameHolding.refl])
    fun g hg => by rwa [State.drawing_congr (s := marked) (by simp)] at hg

/-! ### The pool's own commands -/

theorem PageLaw.scrubbed {s : State} (h : PageLaw s) (hreset : s.resetN = true) {page : Nat} {rest : List Nat}
    (hscrub : s.pool.scrub = page :: rest) : PageLaw { s with mem := clearPage s.mem page, pool := s.pool.scrubDone } := by
  have hpool : s.pool.scrubDone =
      { s.pool with free := insertPage page s.pool.free, scrub := rest, busy := !rest.isEmpty } := by
    simp [Pool.scrubDone, hscrub, Pool.startScrub]
  have hnodup := h.partition.nodup_iff.2 List.nodup_range
  rw [hpool]
  constructor
  case partition =>
    refine List.Perm.trans ?_ h.partition
    refine List.perm_iff_count.2 fun p => ?_
    have hin := List.perm_iff_count.1 (insertPage_perm page s.pool.free) p
    have hheld : State.heldPages { s with mem := clearPage s.mem page, pool :=
        { s.pool with free := insertPage page s.pool.free, scrub := rest, busy := !rest.isEmpty } } = s.heldPages := rfl
    rw [hheld, hscrub]
    simp only [List.count_append, List.count_cons] at hin ⊢
    omega
  case ascending =>
    refine sorted_insertPage h.ascending fun hfree => ?_
    rw [List.append_assoc] at hnodup
    exact List.disjoint_of_nodup_append hnodup hfree (by simp [hscrub])
  case scrubbing => simp [hreset]
  case freeWindows => exact h.freeWindows
  case usedWindows => exact h.usedWindows
  case counted => exact h.counted
  case even => exact h.even
  case zeroed =>
    intro p hp a hlo hhi
    rw [readByte_clearPage]
    split
    · rfl
    · rename_i hout
      rcases mem_insertPage.1 hp with rfl | hp
      · exact absurd ⟨hlo, hhi⟩ hout
      · exact h.zeroed p hp a hlo hhi
  case drawnInTarget => exact h.drawnInTarget

/-- RESET_RELEASE starts the scrub that a law with RESET_N low has not running. -/
theorem PageLaw.resetRelease {s : State} (h : PageLaw s) : PageLaw { s with resetN := true, pool := s.pool.startScrub } where
  partition := h.partition
  ascending := h.ascending
  scrubbing := by simp [Pool.startScrub]
  freeWindows := h.freeWindows
  usedWindows := h.usedWindows
  counted := h.counted
  even := h.even
  zeroed := h.zeroed
  drawnInTarget := h.drawnInTarget

/-- The buffers of a window just opened are the pages taken from the free set (R29). -/
theorem Window.opened_heldPages (w : Window) (l : Link) (r : OpenRequest) (free : List Nat) :
    (w.opened l r free).heldPages = free.take r.pages := by
  have hpages : pagesPerBuffer r.width r.height ≤ r.pages := by
    unfold OpenRequest.pages pagesNeeded
    split <;> omega
  unfold Window.heldPages Window.opened
  dsimp only
  conv_rhs => rw [← List.take_append_drop (pagesPerBuffer r.width r.height) (free.take r.pages)]
  rw [List.take_take, Nat.min_eq_left hpages]

theorem PageLaw.openIn {s : State} (h : PageLaw s) {l : Link} {r : OpenRequest} {i : Slot}
    (hpasses : s.openRefusal l r = none) (hslot : s.freeSlot = some i) : PageLaw (s.openIn l r i) := by
  obtain ⟨-, hquota, hroom⟩ := State.openRefusal_eq_none hpasses
  have hfree := State.freeSlot_eq_some hslot
  obtain ⟨hnone, hbuf0, hbuf1⟩ := h.freeWindows i hfree
  have hself : (s.openIn l r i).window i = (s.window i).opened l r s.pool.free := by simp [State.openIn]
  have hother : ∀ j, j ≠ i → (s.openIn l r i).window j = s.window j := fun j hj => by simp [State.openIn, hj]
  have hpool : (s.openIn l r i).pool = s.pool.allocate l r.pages := by simp [State.openIn]
  have hreset : (s.openIn l r i).resetN = s.resetN := rfl
  have hpins : (s.openIn l r i).pins = s.pins := rfl
  have hmem : (s.openIn l r i).mem = s.mem := rfl
  have hengine : (s.openIn l r i).engine = s.engine := rfl
  generalize s.openIn l r i = t at hself hother hpool hreset hpins hmem hengine ⊢
  have hheldget : ∀ k, t.pool.held.get k = s.pool.held.get k + if k = l then r.pages else 0 := fun k => by
    rw [hpool, Pool.allocate, PerLink.get_set]
    split
    · rename_i hk
      rw [hk]
    · rfl
  constructor
  case partition =>
    refine List.Perm.trans (List.perm_iff_count.2 fun p => ?_) h.partition
    have hchange := State.count_heldPages_change i hother p
    have hcut := congrArg (List.count p) (List.take_append_drop r.pages s.pool.free)
    have hbefore : (s.window i).heldPages = [] := by simp [Window.heldPages, hbuf0, hbuf1]
    rw [hself, Window.opened_heldPages, hbefore] at hchange
    rw [hpool]
    simp only [Pool.allocate, List.count_append, List.count_nil] at hchange hcut ⊢
    omega
  case ascending => rw [hpool]; exact h.ascending.sublist (List.drop_sublist _ _)
  case scrubbing => rw [hpool, hreset]; exact h.scrubbing
  case freeWindows =>
    intro j hj
    by_cases hji : j = i
    · subst hji
      rw [hself] at hj
      cases hj
    · rw [hother j hji] at hj ⊢
      exact h.freeWindows j hj
  case usedWindows =>
    intro j hj
    by_cases hji : j = i
    · subst hji
      rw [hself]
      have hpages : r.pages = pagesNeeded r.width r.height r.buffering := rfl
      simp only [Window.opened]
      generalize r.buffering = b at hpages ⊢
      refine ⟨nofun, ?_, ?_⟩
      · rw [List.length_take]
        cases b <;> simp only [pagesNeeded] at hpages <;> omega
      · rw [List.length_drop, List.length_take]
        cases b <;> simp only [pagesNeeded] at hpages ⊢ <;> omega
    · rw [hother j hji] at hj ⊢
      exact h.usedWindows j hj
  case counted =>
    intro k
    have hchange := State.pagesOwned_change i hother k
    have hopened : ((s.window i).opened l r s.pool.free).pages = r.pages := rfl
    have howner : ((s.window i).opened l r s.pool.free).owner = some l := rfl
    rw [hself, hopened, howner, hnone] at hchange
    rw [hheldget, h.counted k]
    by_cases hk : k = l
    · simp only [hk, reduceCtorEq, if_true, if_false] at hchange ⊢
      omega
    · simp only [Option.some.injEq, Ne.symm hk, hk, reduceCtorEq, if_false] at hchange ⊢
      omega
  case even =>
    intro heven k
    rw [hpins] at heven
    rw [hheldget]
    split
    · rename_i hk
      rw [hk]
      exact hquota heven
    · exact h.even heven k
  case zeroed =>
    rw [hpool, hmem]
    exact fun p hp => h.zeroed p (List.mem_of_mem_drop hp)
  case drawnInTarget =>
    intro f g hf htarget
    rw [hengine] at hf
    have hdraws := h.drawnInTarget f g hf htarget
    have hne : g.slot ≠ i := by
      rintro rfl
      exact hdraws.2.1 hfree
    rwa [hother _ hne]

/-! ### Every step -/

/-- The law of the pages beside the canonical form of surface memory. -/
def PagesAndMemory (s : State) : Prop := PageLaw s ∧ MemoryLaw s

theorem PagesAndMemory.of_same {s t : State} (h : PagesAndMemory s) (hpool : t.pool = s.pool)
    (hreset : t.resetN = s.resetN) (hpins : t.pins = s.pins) (hmem : t.mem = s.mem) (hwindows : t.windows = s.windows)
    (hengine : t.engine = s.engine) : PagesAndMemory t :=
  ⟨h.1.of_same hpool hreset hpins hmem hwindows hengine, by unfold MemoryLaw; rw [hmem]; exact h.2⟩

theorem pagesAndMemory_kept : KeptByParts PagesAndMemory where
  answers _ _ _ h _ := h.of_same rfl rfl rfl rfl rfl rfl
  renews _ _ h := h.of_same rfl rfl rfl rfl rfl rfl
  executes _ _ _ _ _ _ h _ _ := h.of_same rfl rfl rfl rfl rfl rfl
  transmits s l h := h.of_same (by simp) (by simp) (by simp) (by simp) (by simp) (by simp)
  ends s l reason hreset h :=
    ⟨(PagesRun.startTeardown ⟨h.1, hreset⟩ l reason).1.scheduleAll, memoryLaw_kept.ends s l reason hreset h.2⟩
  pinReset s pins h := ⟨(s.atReset_afterPinReset pins).pageLaw, memoryLaw_kept.pinReset s pins h.2⟩
  resetRelease _ _ h := ⟨h.1.resetRelease, h.2⟩
  scrubs s page rest hreset hbusy hscrub h :=
    ⟨h.1.scrubbed hreset hscrub, memoryLaw_kept.scrubs s page rest hreset hbusy hscrub h.2⟩
  begins _ _ _ _ h _ _ _ _ := h.of_same rfl rfl rfl rfl rfl rfl
  goodbye _ _ h _ := h.of_same rfl rfl rfl rfl rfl rfl
  notify _ _ _ h := h.of_same rfl rfl rfl rfl rfl rfl
  idles _ _ h := h.of_same rfl rfl rfl rfl rfl rfl
  ticks _ _ h _ := h.of_same rfl rfl rfl rfl rfl rfl
  retires _ _ _ _ _ h _ := h.of_same rfl rfl rfl rfl rfl rfl
  resends _ _ h _ := h.of_same rfl rfl rfl rfl rfl rfl
  opens _ _ _ _ _ h _ hpasses hslot := ⟨h.1.openIn hpasses hslot, h.2⟩
  closes s l g hreset h hup hpasses := by
    refine ⟨(PagesRun.enterClosing ⟨h.1, hreset⟩ ?_ _).1.scheduleAll, memoryLaw_kept.closes s l g hreset h.2 hup hpasses⟩
    obtain ⟨hfree, -, hclosing, -⟩ := State.changeRefusal_eq_none hpasses
    cases hstate : (s.window g.slot).state <;> simp_all [Window.live]
  restyles s l g w h _ hw := by
    refine ⟨h.1.setWindow ?_, h.2⟩
    unfold Window.Restyled at hw
    rw [← hw]
    exact ⟨rfl, Iff.rfl, rfl, rfl, rfl, rfl, rfl, rfl⟩
  shows s l g place h hpasses _ := by
    obtain ⟨hfree, -, -, -⟩ := State.changeRefusal_eq_none hpasses
    have hstacked : PageLaw (s.setStack (s.placed g.slot place.placed)) := h.1.of_same rfl rfl rfl rfl rfl rfl
    exact ⟨hstacked.setWindow (Window.sameHolding_state _ ⟨nofun, fun hf => absurd hf hfree⟩), h.2⟩
  hides s l g h hpasses := by
    unfold State.hidden
    split
    · rename_i hshown
      have hstacked : PageLaw (s.setStack (s.stack.filter fun j => decide (j ≠ g.slot))) :=
        h.1.of_same rfl rfl rfl rfl rfl rfl
      have hset : PagesAndMemory ((s.setStack (s.stack.filter fun j => decide (j ≠ g.slot))).setWindow g.slot
          { s.window g.slot with state := .hidden }) :=
        ⟨hstacked.setWindow (Window.sameHolding_state _ ⟨nofun, fun hf => absurd (hshown.symm.trans hf) nofun⟩), h.2⟩
      generalize (s.setStack _).setWindow g.slot _ = d at hset ⊢
      exact hset.of_same (by simp) (by simp) (by simp) (by simp) (by simp) (by simp)
    · exact h
  submits s l j h hup hpasses := by
    have hadmitted : PageLaw (s.admitJob l j) := by
      unfold State.admitJob State.referStamp
      split <;> exact h.1.of_same (by simp) (by simp) (by simp) (by simp) (by simp) (by simp)
    exact ⟨hadmitted.schedule l, memoryLaw_kept.submits s l j h.2 hup hpasses⟩
  loads _ _ _ _ h _ _ _ := h.of_same rfl rfl rfl rfl rfl rfl
  reloads _ _ _ _ h _ := h.of_same rfl rfl rfl rfl rfl rfl
  frees s l g h _ := by
    unfold State.freeOrRetire
    split <;> exact h.of_same rfl rfl rfl rfl rfl rfl
  rowEnds s f hreset h hf := ⟨h.1.endRow hreset h.2 hf, memoryLaw_kept.rowEnds s f hreset h.2 hf⟩
  frameStarts s hreset h :=
    ⟨(PagesRun.frameParts ⟨h.1, hreset⟩).1.scheduleAll, memoryLaw_kept.frameStarts s hreset h.2⟩
  reports s es h := h.of_same (by simp) (by simp) (by simp) (by simp) (by simp) (by simp)

/-- Settles O56: `pagesAndMemory_kept`. -/
theorem pageLawKept : Obligations.PageLawKept := fun _ _ hs hmem ht =>
  (pagesAndMemory_kept.step (fun _ _ h => h.of_same rfl rfl rfl rfl rfl rfl) ⟨hs, hmem⟩ ht).1

end Sys2Proof.Machine
end

section
/-! What the start of a teardown makes of the link controllers: its own counts the windows released at once, no other changes. -/

namespace Sys2Proof.Machine

open Sys2Proof

/-! ### Several releases reported -/

/-- The controller once n releases have been reported, each with its end test (R169, R171). -/
def LinkCtl.releasesReported (c : LinkCtl) (n : Nat) : LinkCtl :=
  { c with
    toRelease := c.toRelease - n
    state := if 0 < n ∧ c.state = .teardown ∧ c.toRelease ≤ n ∧ c.jobPending = false then .down else c.state }

@[simp] theorem LinkCtl.releasesReported_zero (c : LinkCtl) : c.releasesReported 0 = c := by
  simp [LinkCtl.releasesReported]

theorem LinkCtl.releasesReported_succ (c : LinkCtl) (n : Nat) :
    (c.releasesReported n).releaseReported = c.releasesReported (n + 1) := by
  unfold LinkCtl.releaseReported LinkCtl.endTested LinkCtl.releasesReported
  dsimp only
  by_cases htorn : c.state = .teardown ∧ c.jobPending = false
  · obtain ⟨htorn, hjob⟩ := htorn
    by_cases hn : c.toRelease ≤ n
    · rcases Nat.eq_zero_or_pos n with rfl | hpos
      · simp [htorn, hjob, Nat.le_zero.1 hn]
      · simp [htorn, hjob, hn, hpos, Nat.le_succ_of_le hn, Nat.sub_eq_zero_of_le hn]
    · by_cases hn' : c.toRelease ≤ n + 1
      · have hsub : c.toRelease - n - 1 = 0 := by omega
        simp [htorn, hjob, hn, hn', hsub]
      · have hsub : c.toRelease - n - 1 ≠ 0 := by omega
        simp [htorn, hjob, hn, hn', hsub]
        omega
  · have hnever : ∀ m, ¬ (0 < m ∧ c.state = .teardown ∧ c.toRelease ≤ m ∧ c.jobPending = false) :=
      fun m h => htorn ⟨h.2.1, h.2.2.2⟩
    rw [if_neg (hnever n), if_neg (hnever (n + 1)), if_neg fun h => htorn ⟨h.1, h.2.2⟩, Nat.sub_sub]

theorem LinkCtl.releaseReported_eq (c : LinkCtl) : c.releaseReported = c.releasesReported 1 := by
  rw [← LinkCtl.releasesReported_succ, LinkCtl.releasesReported_zero]

theorem LinkCtl.releasesReported_add (c : LinkCtl) (n m : Nat) :
    (c.releasesReported n).releasesReported m = c.releasesReported (n + m) := by
  induction m with
  | zero => simp
  | succ m ih => rw [← LinkCtl.releasesReported_succ, ih, LinkCtl.releasesReported_succ, Nat.add_assoc]

/-! ### Release and close -/

theorem State.release_link (s : State) (i : Slot) (k : Link) :
    (s.release i).link k =
      if (s.window i).owner = some k ∧ (s.window i).closeReason = some .teardown then (s.link k).releaseReported
      else s.link k := by
  unfold State.release
  dsimp only
  generalize hfreed : (s.setWindow i _).setPool _ = freed
  have hlink : ∀ k, freed.link k = s.link k := fun k => by rw [← hfreed]; rfl
  split
  · rename_i howner hreason
    simp [howner, hreason, hlink]
  · rename_i o howner hreason
    rw [State.reportRelease_link, howner, hreason, hlink, hlink]
    by_cases hk : k = o
    · simp [hk]
    · simp [hk, Ne.symm hk]
  · rename_i hnot
    rw [if_neg, hlink]
    rintro ⟨howner, hreason⟩
    exact hnot _ howner hreason

/-- The window is off the glass and not named in flight: it can be released (R12). -/
def State.unused (s : State) (i : Slot) : Bool :=
  !(s.window i).onGlass && !s.namedInFlight ⟨i, (s.window i).gen⟩

theorem State.unused_eq_false_iff {s : State} {i : Slot} : s.unused i = false ↔ s.stillUsed i := by
  simp only [State.unused, State.stillUsed, Bool.and_eq_false_iff, Bool.not_eq_false']

theorem State.unused_iff {s : State} {i : Slot} : s.unused i = true ↔ ¬ s.stillUsed i := by
  rw [← State.unused_eq_false_iff, Bool.not_eq_false]

/-- A close is a change of the window, its captures, the flip and the job in flight, and a release where the window is unused. -/
theorem State.enterClosing_link (s : State) (i : Slot) (reason : CloseReason) (k : Link) :
    (s.enterClosing i reason).link k =
      if s.unused i = true ∧ (s.window i).owner = some k ∧ reason = .teardown then (s.link k).releaseReported
      else s.link k := by
  unfold State.enterClosing
  dsimp only
  generalize htold : (((s.setStack _).setWindow i _).cancelPresent (s.window i)).cancelCaptures _ _ = told
  have hwindow : told.window i = (s.window i).closed reason := by rw [← htold]; simp
  have hlink : told.link k = s.link k := by rw [← htold]; simp
  have hengine : told.engine = s.engine := by rw [← htold]; simp
  have hnamed : (told.setEngine (told.engine.map fun f => f.windowCloses ⟨i, (s.window i).gen⟩)).namedInFlight
      ⟨i, (s.window i).gen⟩ = s.namedInFlight ⟨i, (s.window i).gen⟩ :=
    State.namedInFlight_map (by rw [State.setEngine_engine, hengine]) (fun _ => InFlight.windowCloses_job _ _) _
  have hgen : ((s.window i).closed reason).gen = (s.window i).gen := rfl
  have hglass : ((s.window i).closed reason).onGlass = (s.window i).onGlass := rfl
  have hstate : ((s.window i).closed reason).state = .closing := rfl
  have howner : ((s.window i).closed reason).owner = (s.window i).owner := rfl
  have hreason : ((s.window i).closed reason).closeReason = some reason := rfl
  rw [State.releaseTest_eq, State.window_setEngine, hwindow, hgen, hnamed, hglass, hstate]
  split
  · rename_i htest
    have hunused : s.unused i = true := by simp [State.unused, htest.2.1, htest.2.2]
    rw [State.release_link, State.window_setEngine, hwindow, howner, hreason, State.link_setEngine, hlink]
    simp [hunused]
  · rename_i htest
    have hused : s.unused i ≠ true := fun h => by
      rw [State.unused, Bool.and_eq_true, Bool.not_eq_true', Bool.not_eq_true'] at h
      exact htest ⟨rfl, h.1, h.2⟩
    rw [if_neg fun h => hused h.1, State.link_setEngine, hlink]

/-! ### The start of a teardown -/

/-- The slot's window is released at once when the session of its owner l ends. -/
def State.releasesAtEnd (s : State) (l : Link) (i : Slot) : Bool :=
  decide ((s.window i).owner = some l) && (s.window i).live && s.unused i

theorem State.releasedAtEnd_eq (s : State) (l : Link) :
    s.releasedAtEnd l = (List.finRange 32).filter (s.releasesAtEnd l) := by
  unfold State.releasedAtEnd
  congr 1
  funext i
  simp only [State.releasesAtEnd, State.unused, Bool.and_assoc]

theorem State.teardownWindow_link (l : Link) (s : State) (i : Slot) (k : Link) :
    (State.teardownWindow l s i).link k =
      if k = l ∧ s.releasesAtEnd l i = true then (s.link k).releaseReported else s.link k := by
  unfold State.teardownWindow State.releasesAtEnd
  dsimp only
  split
  · rename_i howner
    split
    · rename_i hlive
      rw [State.enterClosing_link, howner]
      by_cases hk : k = l
      · simp [hk, hlive]
      · simp [hk, Ne.symm hk]
    · rename_i hlive
      split <;> simp [hlive]
  · rename_i howner
    simp [howner]

theorem State.unused_congr {s t : State} {i : Slot} (hwindow : t.window i = s.window i)
    (hnamed : ∀ n, t.namedInFlight n = s.namedInFlight n) : t.unused i = s.unused i := by
  simp only [State.unused, hwindow, hnamed]

/-- The controllers after the windows of some slots have been torn down. -/
theorem State.foldl_teardownWindow_link (l : Link) (is : List Slot) (hn : is.Nodup) (s : State) (k : Link) :
    (is.foldl (State.teardownWindow l) s).link k =
      if k = l then (s.link l).releasesReported (is.filter (s.releasesAtEnd l)).length else s.link k := by
  induction is generalizing s with
  | nil =>
    split
    · rename_i hk
      simp [hk]
    · rfl
  | cons i is ih =>
    obtain ⟨hi, hn'⟩ := List.nodup_cons.1 hn
    have hlater : is.filter ((State.teardownWindow l s i).releasesAtEnd l) = is.filter (s.releasesAtEnd l) :=
      List.filter_congr fun j hj => by
        have hji : j ≠ i := fun e => hi (e ▸ hj)
        have hwindow := State.teardownWindow_window_ne l s hji
        simp only [State.releasesAtEnd, hwindow,
          State.unused_congr hwindow (State.teardownWindow_namedInFlight l s i)]
    rw [List.foldl_cons, ih hn', hlater, State.teardownWindow_link, State.teardownWindow_link, List.filter_cons]
    by_cases hk : k = l
    · rw [if_pos hk, if_pos hk]
      by_cases hreleases : s.releasesAtEnd l i = true
      · rw [if_pos ⟨rfl, hreleases⟩, if_pos hreleases, LinkCtl.releaseReported_eq, LinkCtl.releasesReported_add,
          List.length_cons, Nat.add_comm]
      · rw [if_neg fun h => hreleases h.2, if_neg hreleases]
    · rw [if_neg hk, if_neg hk, if_neg fun h => hk h.1]

/-- The grants that others' windows lose do not decide which windows are released. -/
theorem State.releasesAtEnd_withoutGrants (s : State) (l : Link) :
    State.releasesAtEnd { s with windows := s.windows.map fun w => w.withoutGrant l } l = s.releasesAtEnd l := by
  funext i
  unfold State.releasesAtEnd State.unused
  rw [State.window_withoutGrants, Window.withoutGrant_eq]
  rfl

theorem State.teardownWindows_link (s : State) (l k : Link) :
    (s.teardownWindows l).link k =
      if k = l then (s.link l).releasesReported (s.releasedAtEnd l).length else s.link k := by
  unfold State.teardownWindows
  rw [State.foldl_teardownWindow_link l _ (nodup_finRange 32), State.releasesAtEnd_withoutGrants, State.releasedAtEnd_eq]
  rfl

/-- The windows that are left to be released (R169). -/
theorem State.awaitedWindows_eq (s : State) (l : Link) :
    s.awaitedWindows l = s.ownedWindows l - (s.releasedAtEnd l).length := rfl

/-- The controllers at the start of a teardown: its own is DOWN if nothing is left to wait for, the others stay (R171, R172). -/
theorem State.startTeardown_link_eq (s : State) (l : Link) (reason : EndReason) (k : Link) :
    (s.startTeardown l reason).link k =
      if k = l then
        { s.link l with
          state := if s.awaitedWindows l = 0 ∧ s.ownsEngine l = false then .down else .teardown
          lastEnd := reason, goodbye := false, timer := none, backlog := [], cache := []
          toRelease := s.awaitedWindows l
          jobPending := s.ownsEngine l }
      else s.link k := by
  unfold State.startTeardown
  dsimp only
  generalize htorn : (s.link l).torn reason (s.ownedWindows l) (s.ownsEngine l) = torn
  have hlink : ∀ j, ((((s.setLink l torn).dropEvents l).dropJobs l).orphanStamps l).link j =
      if j = l then torn else s.link j := fun j => by
    simp only [State.orphanStamps_frame, State.dropJobs_frame, State.dropEvents_frame, State.link_setLink]
  have hwindow : ∀ i, ((((s.setLink l torn).dropEvents l).dropJobs l).orphanStamps l).window i = s.window i :=
    fun i => by simp
  have hnamed : ∀ n, ((((s.setLink l torn).dropEvents l).dropJobs l).orphanStamps l).namedInFlight n =
      s.namedInFlight n := fun n => by
    rw [State.namedInFlight_congr (s := ((s.setLink l torn).dropEvents l).dropJobs l) (by simp),
      State.dropJobs_namedInFlight]
    exact State.namedInFlight_congr (by simp) n
  generalize (((s.setLink l torn).dropEvents l).dropJobs l).orphanStamps l = dropped at hlink hwindow hnamed ⊢
  have hreleased : dropped.releasedAtEnd l = s.releasedAtEnd l := by
    simp only [State.releasedAtEnd, hwindow, hnamed]
  rw [State.endTest_link, State.teardownWindows_link, State.teardownWindows_link, if_pos rfl, hlink, hlink, if_pos rfl,
    hreleased, State.awaitedWindows_eq, ← htorn]
  by_cases hk : k = l
  · rw [if_pos hk, if_pos hk]
    unfold LinkCtl.endTested LinkCtl.releasesReported LinkCtl.torn
    dsimp only
    by_cases hjob : s.ownsEngine l = false
    · by_cases hleft : s.ownedWindows l - (s.releasedAtEnd l).length = 0
      · by_cases hnone : 0 < (s.releasedAtEnd l).length
        · simp [hjob, hnone, hleft, Nat.sub_eq_zero_iff_le.1 hleft]
        · simp [hjob, hnone, hleft]
      · have hmore : ¬ s.ownedWindows l ≤ (s.releasedAtEnd l).length := fun h => hleft (Nat.sub_eq_zero_of_le h)
        simp [hjob, hleft, hmore]
    · simp [hjob]
  · rw [if_neg hk, if_neg hk, if_neg hk, if_neg hk]

end Sys2Proof.Machine
end

section
/-! The sessions' frames: what answers a frame outside the sequence, how HELLO begins a session, what the transmitter takes. -/

namespace Sys2Proof.Machine

open Sys2Proof

/-! ### Frames answered without being executed -/

/-- A response produced on a link, and the transmitter's choice after it: the shape of every answer outside the sequence. -/
theorem State.answer_answersOutside (s : State) (l : Link) (r : Response) :
    AnswersOutside s ((s.setLink l ((s.link l).answer r)).transmit l) l r := by
  obtain ⟨hsends, htakes, hgoes, hrest, hlink⟩ := State.transmit_answered (s := s) (l := l) (c := s.link l) (r := r)
  refine ⟨?_, fun k hk => ?_, hsends, htakes, hgoes, hrest⟩
  · rw [hlink]
    rfl
  · rw [hlink, State.link_setLink, if_neg hk]

/-- Where all other transmitters were settled, the choice of all after a change of one controller is that of its own link. -/
theorem State.transmitAll_setLink {s : State} (h : TransmitterLaw s) (l : Link) (c : LinkCtl) :
    (s.setLink l c).transmitAll = (s.setLink l c).transmit l :=
  State.transmitAll_of_others fun k hk =>
    (State.settled_congr ((State.link_setLink s l k c).trans (if_neg hk)) rfl).2 (h k)

/-- The command's own block of a framed command but HELLO: the command takes its frame, and a transmitter or all choose. -/
def FramedBy (i : Instr) (l : Link) (code seq : Byte) (body : State → Reply) : Prop :=
  (∀ q, i ≠ .hello l seq q) ∧
    ((∀ s, exec i s = .next (s.command l seq code body)) ∨ ∀ s, exec i s = .next (s.commandAll l seq code body))

theorem framed_cases {i : Instr} {l : Link} {code seq : Byte} {p : List Byte} (h : i.framed = some (l, code, seq, p)) :
    (i = .hello l seq p ∧ code = 0x01#8) ∨ ∃ body, FramedBy i l code seq body := by
  cases i <;> cases h
  case hello => exact .inl ⟨rfl, rfl⟩
  case closeWindow => exact .inr ⟨_, nofun, .inr fun _ => rfl⟩
  case submit => exact .inr ⟨_, nofun, .inr fun _ => rfl⟩
  all_goals exact .inr ⟨_, nofun, .inl fun _ => rfl⟩

/-- Where all transmitters are settled, a frame that changes at most its own link's controller ends in that link's choice. -/
theorem FramedBy.exec_setLink {i : Instr} {l : Link} {code seq : Byte} {body : State → Reply}
    (h : FramedBy i l code seq body) {s : State} {c : LinkCtl} (hreset : s.resetN = true) (hsettled : TransmitterLaw s)
    (htaken : s.takeFrame l seq code body = s.setLink l c) : exec i s = .next ((s.setLink l c).transmit l) := by
  rcases h.2 with hexec | hexec
  · rw [hexec, State.command, if_pos hreset, htaken]
  · rw [hexec, State.commandAll, if_pos hreset, htaken, State.transmitAll_setLink hsettled]

theorem FramedBy.exec_discarded {i : Instr} {l : Link} {code seq : Byte} {body : State → Reply}
    (h : FramedBy i l code seq body) {s : State} (hreset : s.resetN = true) (hsettled : TransmitterLaw s)
    (htaken : s.takeFrame l seq code body = s) : exec i s = .next s := by
  rw [h.exec_setLink hreset hsettled (c := s.link l) (by rw [htaken, State.setLink_link]), State.setLink_link,
    State.transmit_of_settled (hsettled l)]

theorem State.answerOutside_eq {s : State} {l : Link} (hroom : (s.link l).backlog.length < 4) (code seq : Byte)
    (status : Status) : s.answerOutside l code seq status =
      s.setLink l ((s.link l).answer ⟨code, seq, status, (s.link l).expected, .none⟩) := by
  unfold State.answerOutside
  rw [LinkCtl.backlogFull_eq_false_iff.2 hroom]
  rfl

theorem State.takeFrame_of_not_up {s : State} {l : Link} (hup : (s.link l).state ≠ .up) (seq code : Byte)
    (body : State → Reply) : s.takeFrame l seq code body = s.answerOutside l code seq .notAttached := by
  unfold State.takeFrame
  split
  · rfl
  · rfl
  · rename_i h
    exact absurd h hup

theorem exec_hello {s : State} (hreset : s.resetN = true) (l : Link) (seq : Byte) (p : List Byte) :
    exec (.hello l seq p) s = .next ((s.takeHello l seq p).transmit l) := by
  show Host.Outcome.next _ = _
  rw [if_pos hreset]

theorem State.takeHello_of_full {s : State} {l : Link} (hup : (s.link l).state ≠ .up)
    (hfull : 4 ≤ (s.link l).backlog.length) (seq : Byte) (p : List Byte) : s.takeHello l seq p = s := by
  unfold State.takeHello
  split
  · unfold State.helloDown
    rw [if_pos (by simpa [LinkCtl.backlogFull, Config.backlogLimit] using hfull)]
  · exact State.answerOutside_full hfull _ _ _
  · rename_i h
    exact absurd h hup

/-- Settles O13: CHECK_FAILED is one answer outside the sequence. -/
theorem checkFailedAnswered : Obligations.CheckFailedAnswered := by
  intro l s hreset hsettled
  have hexec : exec (.checkFailed l) s =
      .next ((s.answerOutside l 0x00#8 (s.link l).expected .checkFailed).transmit l) := by
    show Host.Outcome.next _ = _
    rw [if_pos hreset]
  refine ⟨fun hroom => ⟨_, hexec, State.answerOutside_answers hroom _ _ _⟩, fun hfull => ?_⟩
  rw [hexec, State.answerOutside_full hfull, State.transmit_of_settled hsettled]

/-- Settles O14: a frame that is not HELLO by `takeFrame_of_not_up`, HELLO by its own table. -/
theorem outsideSessionAnswered : Obligations.OutsideSessionAnswered := by
  intro i l code seq p s hframed hreset hsettled hup
  rcases framed_cases hframed with ⟨rfl, rfl⟩ | ⟨body, hbody⟩
  · refine ⟨fun _ hne => absurd rfl (hne p), fun hroom _ hteardown => ?_, fun hfull => ?_⟩
    · refine ⟨_, exec_hello hreset l seq p, ?_⟩
      unfold State.takeHello
      rw [hteardown]
      exact State.answerOutside_answers hroom _ _ _
    · rw [exec_hello hreset, State.takeHello_of_full hup hfull, State.transmit_of_settled (hsettled l)]
  · have htaken := State.takeFrame_of_not_up hup seq code body
    refine ⟨fun hroom _ => ?_, fun _ hhello => absurd hhello (hbody.1 p), fun hfull => ?_⟩
    · exact ⟨_, hbody.exec_setLink hreset hsettled (htaken.trans (State.answerOutside_eq hroom _ _ _)),
        State.answer_answersOutside _ _ _⟩
    · exact hbody.exec_discarded hreset hsettled (htaken.trans (State.answerOutside_full hfull _ _ _))

/-- A HELLO on an UP link is a frame like any other, refused with WRONG_STATE (R157). -/
theorem exec_hello_of_up {s : State} {l : Link} (hup : (s.link l).state = .up) (seq : Byte) (p : List Byte) :
    exec (.hello l seq p) s = .next (s.command l seq 0x01#8 fun t => .refuse t .wrongState) := by
  show Host.Outcome.next _ = _
  unfold State.takeHello State.command State.takeFrame
  rw [hup]

/-- The ways an UP link takes a frame, for HELLO as for every other framed command. -/
theorem exec_framed_of_up {i : Instr} {l : Link} {code seq : Byte} {p : List Byte}
    (h : i.framed = some (l, code, seq, p)) {s : State} (hup : (s.link l).state = .up) (hreset : s.resetN = true) :
    ∃ body, exec i s = .next ((s.takeUp l seq code body).transmit l) ∨
      exec i s = .next (s.takeUp l seq code body).transmitAll := by
  have htaken : ∀ body, s.takeFrame l seq code body = s.takeUp l seq code body := fun body => by
    unfold State.takeFrame
    rw [hup]
  rcases framed_cases h with ⟨rfl, rfl⟩ | ⟨body, -, hexec | hexec⟩
  · refine ⟨fun t => .refuse t .wrongState, .inl ?_⟩
    rw [exec_hello_of_up hup, State.command, if_pos hreset, htaken]
  · exact ⟨body, .inl (by rw [hexec, State.command, if_pos hreset, htaken])⟩
  · exact ⟨body, .inr (by rw [hexec, State.commandAll, if_pos hreset, htaken])⟩

/-- The same where the frame changes at most its own link's controller. -/
theorem exec_framed_setLink {i : Instr} {l : Link} {code seq : Byte} {p : List Byte}
    (h : i.framed = some (l, code, seq, p)) {s : State} (hup : (s.link l).state = .up) (hreset : s.resetN = true)
    (hsettled : TransmitterLaw s) {c : LinkCtl} (htaken : ∀ body, s.takeUp l seq code body = s.setLink l c) :
    exec i s = .next ((s.setLink l c).transmit l) := by
  obtain ⟨body, hexec | hexec⟩ := exec_framed_of_up h hup hreset
  · rw [hexec, htaken]
  · rw [hexec, htaken, State.transmitAll_setLink hsettled]

theorem State.takeUp_of_goodbye {s : State} {l : Link} (h : (s.link l).goodbye = true) (seq code : Byte)
    (body : State → Reply) : s.takeUp l seq code body = s := by
  unfold State.takeUp
  rw [if_pos h]

theorem State.takeUp_of_other {s : State} {l : Link} (hgoodbye : (s.link l).goodbye = false)
    (hroom : (s.link l).backlog.length < 4) {seq : Byte} (hseq : seq ≠ (s.link l).expected) (code : Byte)
    (body : State → Reply) : s.takeUp l seq code body =
      s.setLink l ((s.link l).renewed.answer (((s.link l).cachedFor seq).getD
        ⟨code, seq, .sequenceError, (s.link l).expected, .none⟩)) := by
  unfold State.takeUp
  rw [if_neg (by simp [hgoodbye]), if_neg (by simp [LinkCtl.backlogFull_eq_false_iff.2 hroom])]
  have hcached : (s.link l).renewed.cachedFor seq = (s.link l).cachedFor seq := rfl
  unfold State.takeSequenced
  dsimp only
  have hexpected : ¬ seq = (s.link l).renewed.expected := hseq
  rw [State.link_setLink_self, if_neg hexpected, hcached]
  cases (s.link l).cachedFor seq <;> exact State.setLink_setLink s l _ _

/-- Settles O15: the two ways by `takeUp_of_goodbye` and `takeUp_of_other`. -/
theorem sequenceNumberDecides : Obligations.SequenceNumberDecides := by
  intro i l code seq p s hframed hreset hsettled hup
  refine ⟨fun hgoodbye => ?_, fun hgoodbye hroom hseq => ?_⟩
  · rw [exec_framed_setLink hframed hup hreset hsettled (c := s.link l) fun body => by
      rw [State.takeUp_of_goodbye hgoodbye, State.setLink_link], State.setLink_link,
      State.transmit_of_settled (hsettled l)]
  · have hanswers : ∀ r, ((s.link l).cachedFor seq).getD ⟨code, seq, .sequenceError, (s.link l).expected, .none⟩ = r →
        ∃ t, exec i s = .next t ∧ AnswersOutside (s.renewedLease l) t l r := fun r hr => by
      refine ⟨_, exec_framed_setLink hframed hup hreset hsettled fun body =>
        (State.takeUp_of_other hgoodbye hroom hseq code body), ?_⟩
      rw [hr]
      have := (s.renewedLease l).answer_answersOutside l r
      rwa [State.renewedLease_link_self, State.renewedLease, State.setLink_setLink] at this
    refine ⟨fun n r hfind => hanswers r ?_, fun hnone => hanswers _ ?_⟩
    · simp only [LinkCtl.cachedFor, hfind, Option.map_some, Option.getD_some]
    · have hfind : (s.link l).cache.find? (fun e => decide (e.1 = seq)) = none :=
        List.find?_eq_none.2 fun e he => by simpa using hnone e he
      simp only [LinkCtl.cachedFor, hfind, Option.map_none, Option.getD_none]

end Sys2Proof.Machine
end

section
/-! The sessions' commands: HELLO, GOODBYE, PING, SET_NOTIFY, and what a transmitter takes. -/

namespace Sys2Proof.Machine

open Sys2Proof

/-! ### HELLO -/

theorem helloLease_cons (hi lo : Byte) (extra : List Byte) :
    helloLease (hi :: lo :: extra) = ranged 10 2000 (be16 hi lo).toNat := by
  simp [helloLease, atLeast, fieldNat, field16]

theorem helloLease_eq_none {p : List Byte} (h : p.length < 2 ∨ (be16 (p.getD 0 0) (p.getD 1 0)).toNat < 10 ∨
    2000 < (be16 (p.getD 0 0) (p.getD 1 0)).toNat) : helloLease p = none := by
  unfold helloLease atLeast ranged fieldNat field16
  rw [Nat.zero_add]
  split
  · rename_i hlong
    exact if_neg (by omega)
  · rfl

/-- HELLO on a DOWN link with room in the backlog, by its lease. -/
theorem State.helloDown_of_room {s : State} {l : Link} (hroom : (s.link l).backlog.length < 4) (seq : Byte)
    (p : List Byte) :
    (helloLease p = none → s.helloDown l seq p = s.answerOutside l 0x01#8 seq .badParam) ∧
      ∀ lease, helloLease p = some lease → s.helloDown l seq p = s.beginSession l seq lease := by
  unfold State.helloDown
  rw [if_neg (by simp [LinkCtl.backlogFull_eq_false_iff.2 hroom])]
  exact ⟨fun h => by rw [h], fun lease h => by rw [h]⟩

theorem State.takeHello_of_down {s : State} {l : Link} (h : (s.link l).state = .down) (seq : Byte) (p : List Byte) :
    s.takeHello l seq p = s.helloDown l seq p := by
  unfold State.takeHello
  rw [h]

/-- The beginning of a session is one answer of the controller that begins it, on the emptied event queue. -/
theorem State.beginSession_eq (s : State) (l : Link) (seq : Byte) (lease : Nat) :
    let r : Response := ⟨0x01#8, seq, .ok, seq + 1, s.helloResult l lease⟩
    s.beginSession l seq lease =
      (s.setEvents l EventQueue.atReset).setLink l
        (LinkCtl.answer { (s.link l).begun seq lease with cache := [(seq, r)] } r) := rfl

/-- Settles O17: the answer of `beginSession_eq`, as `transmit_answered` sends it. -/
theorem helloBeginsSession : Obligations.HelloBeginsSession := by
  intro l seq hi lo extra s hreset hdown hroom hlo hhi
  refine ⟨_, exec_hello hreset l seq _, ?_⟩
  have hlease : helloLease (hi :: lo :: extra) = some (be16 hi lo).toNat := by
    rw [helloLease_cons, ranged, if_pos ⟨hlo, hhi⟩]
  rw [State.takeHello_of_down hdown, (State.helloDown_of_room hroom seq _).2 _ hlease,
    State.beginSession_eq]
  obtain ⟨hsends, htakes, -, hrest, hlink⟩ := State.transmit_answered (s := s.setEvents l EventQueue.atReset) (l := l)
    (c := { (s.link l).begun seq (be16 hi lo).toNat with
      cache := [(seq, ⟨0x01#8, seq, .ok, seq + 1, s.helloResult l (be16 hi lo).toNat⟩)] })
    (r := ⟨0x01#8, seq, .ok, seq + 1, s.helloResult l (be16 hi lo).toNat⟩)
  refine ⟨hsends, htakes, hrest, ?_, fun k hk => ⟨?_, ?_⟩, ?_⟩
  · rw [hlink]
    exact State.eventsOf_setEvents_self s l _
  · rw [hlink, State.link_setLink, if_neg hk]
    rfl
  · rw [hlink]
    exact (State.eventsOf_setEvents s l k _).trans (if_neg hk)
  · rw [hlink]
    rfl

/-- Settles O18: the lease by `helloLease_eq_none`, the UP link by `exec_hello_of_up`. -/
theorem helloRefused : Obligations.HelloRefused := by
  refine ⟨fun l seq p s hreset hdown hroom hlease => ⟨_, exec_hello hreset l seq p, ?_⟩,
    fun l seq p s hready => ⟨_, exec_hello_of_up hready.2.1 seq p, State.command_refuses hready rfl⟩⟩
  rw [State.takeHello_of_down hdown, (State.helloDown_of_room hroom seq p).1 (helloLease_eq_none hlease)]
  exact State.answerOutside_answers hroom _ _ _

/-! ### BAD_COMMAND, PING, GOODBYE, SET_NOTIFY -/

/-- Settles O19: neither command's block changes the state. -/
theorem badCommandAndPing : Obligations.BadCommandAndPing := fun _ _ _ hready =>
  ⟨fun _ => ⟨_, rfl, State.command_refuses hready rfl⟩, _, rfl, State.command_answers hready rfl rfl⟩

/-- A command whose block replaces the controller answers on the controller it leaves: the renewal of the lease commutes. -/
theorem State.command_answers_setLink {s : State} {l : Link} {seq code : Byte} {status : Status} {result : Result}
    {body : State → Reply} {c : LinkCtl} (h : s.ready l seq)
    (hbody : body (s.renewedLease l) = ⟨(s.renewedLease l).setLink l c.renewed, status, result⟩)
    (hexpected : c.expected = (s.link l).expected) :
    Answers (s.setLink l c) (s.command l seq code body) l seq code status result := by
  refine State.command_answers h (hbody.trans ?_) (by rw [State.link_setLink_self, hexpected])
  simp only [State.renewedLease, State.setLink_setLink, State.link_setLink_self]

/-- Settles O20: `command_answers_setLink`; the answer leaves the link state alone. -/
theorem goodbyeAccepted : Obligations.GoodbyeAccepted := by
  intro l seq s hready
  have hanswers := State.command_answers_setLink (code := 0x02#8) (status := .ok) (result := .none)
    (body := fun t => .answer (t.setLink l { t.link l with goodbye := true, timer := none }) .ok)
    (c := { s.link l with goodbye := true, timer := none }) hready
    (by rw [State.renewedLease_link_self]; rfl) rfl
  refine ⟨_, rfl, hanswers, ?_⟩
  have hstate := congrArg LinkCtl.state hanswers.replied.rest
  rw [State.link_setLink_self] at hstate
  exact hstate.trans hready.2.1

theorem notifyField_cons (b : Byte) (extra : List Byte) : notifyField (b :: extra) = binaryField (b :: extra) 0 := by
  simp [notifyField, atLeast]

/-- Settles O21: the flag by `command_answers_setLink`, the refusal by the field. -/
theorem setNotifyResult : Obligations.SetNotifyResult := by
  intro l seq s hready
  refine ⟨fun b extra hb => ?_, fun p hp => ?_⟩
  · have hfield : notifyField (b :: extra) = some (decide (b = 1)) := by
      rw [notifyField_cons]
      rcases hb with rfl | rfl
      · exact binaryField_of_eq_zero rfl
      · exact binaryField_of_eq_one rfl
    refine ⟨_, rfl, State.command_answers_setLink hready ?_ rfl⟩
    rw [notifyReply, hfield, State.renewedLease_link_self]
    rfl
  · have hfield : notifyField p = none := by
      rw [notifyField, atLeast]
      rcases hp with rfl | hp
      · rfl
      · rw [binaryField_of_one_lt hp, ite_self]
    refine ⟨_, rfl, State.command_refuses hready ?_⟩
    rw [notifyReply, hfield]

/-! ### What a transmitter takes -/

theorem LinkCtl.goodbyeSent_eq_false {c : LinkCtl}
    (h : ∀ r, c.tx = .response r → c.goodbye = true → ¬ (r.code = 0x02#8 ∧ r.status = .ok)) : c.goodbyeSent = false := by
  unfold LinkCtl.goodbyeSent
  split
  · rename_i r htx
    rw [Bool.and_eq_false_iff, ← Bool.not_eq_true, or_iff_not_imp_left, not_not]
    intro hgoodbye
    simpa [Response.isGoodbyeOk] using h r htx hgoodbye
  · rfl
  · rfl

/-- The completion of a frame that does not end the session: the transmitter is idle and chooses. -/
theorem exec_transmitCompletion {s : State} {l : Link} (hreset : s.resetN = true) (htx : (s.link l).tx ≠ .idle)
    (hsession : (s.link l).goodbyeSent = false) :
    exec (.transmitCompletion l) s = .next ((s.setLink l { s.link l with tx := .idle }).transmit l) := by
  show Host.Outcome.next _ = _
  rw [if_pos ⟨hreset, htx⟩, if_neg (by simp [hsession])]

/-- A transmitter that has nothing to take stays as it is. -/
theorem State.settled_of_nothing {s : State} {l : Link} (hbacklog : (s.link l).backlog = [])
    (h : (s.link l).state ≠ .up ∨ 8 ≤ (s.eventsOf l).sentCount ∨ ∀ x ∈ (s.eventsOf l).records, x.sent = true) :
    s.settled l := by
  refine fun _ => ⟨hbacklog, fun hup hcount => ?_⟩
  rcases h with h | h | h
  · exact absurd hup h
  · omega
  · exact h

/-- Settles O23: what the transmitter takes, on the idle transmitter that the completion leaves (`exec_transmitCompletion`). -/
theorem transmitterChooses : Obligations.TransmitterChooses := by
  refine ⟨fun l s hreset htx hsession => ?_, fun l s => s.attn_iff l, fun l s => ⟨State.transmit_of_busy,
    fun r rest htx hb => State.transmit_response htx hb,
    fun old e new htx hb hup hn hr ho he => State.transmit_event htx hb hup hn hr ho he,
    fun _ hb h => State.transmit_of_settled (State.settled_of_nothing hb h)⟩, fun s => rfl⟩
  rw [exec_transmitCompletion hreset htx (LinkCtl.goodbyeSent_eq_false hsession)]
  obtain ⟨c, hc⟩ : ∃ c, { s.link l with tx := .idle } = c := ⟨_, rfl⟩
  have hlink : (s.setLink l c).link l = c := State.link_setLink_self _ _ _
  have hevents : (s.setLink l c).eventsOf l = s.eventsOf l := rfl
  refine ⟨fun r rest hb => ?_, fun old e new hb hup hn hr ho he => ?_, fun hb h => ?_⟩
  · rw [hc, State.transmit_response (by rw [hlink, ← hc]) (by rw [hlink, ← hc]; exact hb), hlink, State.setLink_setLink,
      ← hc]
  · rw [← hevents] at hn hr
    rw [hc, State.transmit_event (by rw [hlink, ← hc]) (by rw [hlink, ← hc]; exact hb) (by rw [hlink, ← hc]; exact hup) hn
      hr ho he, hlink, State.setLink_setLink, ← hc]
    rfl
  · rw [hc, State.transmit_of_settled (State.settled_of_nothing (by rw [hlink, ← hc]; exact hb)
      (by rw [hlink, ← hc]; exact h))]

end Sys2Proof.Machine
end

section
/-! The event queues' own rules: what an unreserved event finds, what ACK_EVENTS and RESEND_EVENTS leave; and a completed scrub. -/

namespace Sys2Proof.Machine

open Sys2Proof

/-! ### Records that absorb -/

/-- The newest record that a test selects does not absorb: nothing coalesces. -/
theorem coalesceNewest_eq_none {sel : EventRecord → Bool} {absorb : EventRecord → Option EventRecord}
    {rs : List EventRecord} (h : ∀ r, (rs.filter sel).getLast? = some r → absorb r = none) :
    coalesceNewest sel absorb rs = none := by
  rcases newest_cases sel rs with hnone | ⟨old, r, new, rfl, hr, hnew⟩
  · exact coalesceNewest_of_none absorb hnone
  · have hfilter : new.filter sel = [] := List.filter_eq_nil_iff.2 fun x hx => by simp [hnew x hx]
    rw [coalesceNewest_append absorb old hr hnew, h r (by simp [hr, hfilter]), Option.map_none]

theorem absorbFrame_of_sent {r : EventRecord} (h : r.sent = true) (n : BitVec 32) (count : Nat) :
    absorbFrame n count r = none := by
  unfold absorbFrame
  rw [h]

theorem absorbLost_of_sent {r : EventRecord} (h : r.sent = true) (lost : Nat) : absorbLost lost r = none := by
  unfold absorbLost
  rw [h]

theorem absorbMove_eq_none {r : EventRecord} {k : ContactNumber} {w : Handle} (hof : r.isTouchOf k = true)
    (h : r.sent = true ∨ ∀ x y, r.event ≠ .touch .move k w x y) (x y : Int) : absorbMove w x y r = none := by
  unfold absorbMove
  split
  · rename_i k' w' x' y' hsent hevent
    rw [if_neg]
    rintro rfl
    have hk : k' = k := by simpa [EventRecord.isTouchOf, hevent] using hof
    exact (h.resolve_left (by simp [hsent])) x' y' (hk ▸ hevent)
  · rfl

/-! ### The lost count -/

theorem EventQueue.reportLost_of_none {q : EventQueue} (h : q.lost = 0) : q.reportLost = q := if_pos h

theorem EventQueue.reportLost_absorbed {q : EventQueue} {rs : List EventRecord} (hlost : q.lost ≠ 0)
    (h : coalesceNewest EventRecord.isLost (absorbLost q.lost) q.records = some rs) :
    q.reportLost = { q with records := rs, lost := 0 } := by
  unfold EventQueue.reportLost
  rw [if_neg hlost, h]

theorem EventQueue.reportLost_not_absorbed {q : EventQueue} (hlost : q.lost ≠ 0)
    (h : coalesceNewest EventRecord.isLost (absorbLost q.lost) q.records = none) :
    q.reportLost = if q.records.length + q.reserved < 64 then
      { q with records := q.records ++ [⟨q.nextSeq, .lostEvents q.lost, false⟩], nextSeq := q.nextSeq + 1, lost := 0 }
      else q := by
  unfold EventQueue.reportLost
  rw [if_neg hlost, h]
  simp only [EventQueue.hasRoom_iff]
  rfl

/-! ### Unreserved events -/

theorem EventQueue.queueUnreserved_coalesced {q : EventQueue} {e : Event} {rs : List EventRecord}
    (h : q.coalesced e = some rs) : q.queueUnreserved e = ({ q with records := rs } : EventQueue).reportLost := by
  unfold EventQueue.queueUnreserved
  rw [h]

theorem EventQueue.queueUnreserved_not_coalesced {q : EventQueue} {e : Event} (h : q.coalesced e = none) :
    q.queueUnreserved e =
      if q.records.length + q.reserved < 64 then
        ({ q with records := q.records ++ [⟨q.nextSeq, e, false⟩], nextSeq := q.nextSeq + 1 } : EventQueue).reportLost
      else ({ q with lost := min (q.lost + 1) 65535 } : EventQueue).reportLost := by
  unfold EventQueue.queueUnreserved
  rw [h]
  simp only [EventQueue.hasRoom_iff]
  rfl

theorem of_getLast?_filter {p : EventRecord → Bool} {rs : List EventRecord} {r : EventRecord}
    (h : (rs.filter p).getLast? = some r) : p r = true :=
  List.of_mem_filter (List.mem_of_getLast? h)

/-- Settles O25: each case is what the newest record of its kind absorbs (`coalesceNewest_append`) or does not
(`coalesceNewest_eq_none`). -/
theorem unreservedEventsTaken : Obligations.UnreservedEventsTaken := by
  refine ⟨fun q => EventQueue.reportLost_of_none, ?_, ?_, ?_, ?_, ?_⟩
  · intro q old new n c hlost hq hnew
    refine EventQueue.reportLost_absorbed hlost ?_
    rw [hq, coalesceNewest_append _ old rfl hnew]
    rfl
  · intro q hlost hsent
    exact EventQueue.reportLost_not_absorbed hlost
      (coalesceNewest_eq_none fun r hr => absorbLost_of_sent (hsent r hr) q.lost)
  · intro q old new n f g c k hq hnew
    refine EventQueue.queueUnreserved_coalesced ?_
    rw [EventQueue.coalesced, hq, coalesceNewest_append _ old rfl hnew]
    rfl
  · intro q old new n k w x y x' y' hq hnew
    refine EventQueue.queueUnreserved_coalesced ?_
    rw [EventQueue.coalesced, hq, coalesceNewest_append _ old (by simp [EventRecord.isTouchOf]) hnew]
    simp [absorbMove]
  · intro q e h
    refine EventQueue.queueUnreserved_not_coalesced ?_
    unfold EventQueue.coalesced
    split
    · exact coalesceNewest_eq_none fun r hr => absorbFrame_of_sent (h r hr) _ _
    · exact coalesceNewest_eq_none fun r hr => absorbMove_eq_none (of_getLast?_filter (p := fun r => r.isTouchOf _) hr) (h r hr) _ _
    · rfl

/-! ### ACK_EVENTS and RESEND_EVENTS -/

theorem ackField_cons (hi lo : Byte) (extra : List Byte) : ackField (hi :: lo :: extra) = some (be16 hi lo) := by
  simp [ackField, atLeast, field16]

/-- Settles O24: the block's replies, by what `splitAcked` finds. -/
theorem ackAndResend : Obligations.AckAndResend := by
  intro l seq s hready
  have hexec : ∀ p, exec (.ackEvents l seq p) s = .next (s.command l seq 0x06#8 (ackReply l p)) := fun _ => rfl
  have hevents : (s.renewedLease l).eventsOf l = s.eventsOf l := rfl
  refine ⟨fun p hshort => ?_, fun hi lo extra hnone => ?_, fun hi lo extra old r new hrecords hseq hsent hold => ?_, ?_⟩
  · have hfield : ackField p = none := if_neg (by omega)
    exact ⟨_, hexec p, State.command_refuses hready (by rw [ackReply, hfield])⟩
  · refine ⟨_, hexec _, State.command_refuses hready ?_⟩
    rw [ackReply, ackField_cons, hevents]
    dsimp only
    rw [splitAcked_eq_none.2 hnone]
  · refine ⟨_, hexec _, State.command_answers hready ?_ rfl⟩
    rw [ackReply, ackField_cons, hevents, hrecords]
    dsimp only
    rw [splitAcked_append hold hseq hsent]
    simp only [State.retire, EventQueue.retired, List.length_append, List.length_singleton]
    rfl
  · exact ⟨_, rfl, State.command_answers hready rfl rfl⟩

/-! ### SCRUB_COMPLETION -/

/-- Settles O6: the page joins the free set by `insertPage`, and reads zero by `readByte_clearPage`. -/
theorem scrubCompletionFreesPage : Obligations.ScrubCompletionFreesPage := by
  intro s page rest hreset hbusy hscrub
  have hexec : exec .scrubCompletion s = .next { s with
      mem := clearPage s.mem page
      pool := { s.pool with free := insertPage page s.pool.free, scrub := rest, busy := !rest.isEmpty } } := by
    show Host.Outcome.next _ = _
    rw [hreset, hbusy, Bool.and_self, if_pos rfl, hscrub]
    simp only [Pool.scrubDone, hscrub, Pool.startScrub]
  refine ⟨_, hexec, rfl, ?_, fun q => mem_insertPage, length_insertPage page s.pool.free, rfl,
    if_pos (mem_insertPage.2 (.inl rfl)), readByte_clearPage s.mem page, rfl⟩
  cases rest <;> rfl

end Sys2Proof.Machine
end

section
/-! Windows, the live stack and stamps: the commands that pass their tests. -/

namespace Sys2Proof.Machine

open Sys2Proof

/-! ### The state a block leaves, with the lease renewed -/

/-- The state as it is with the controllers of another: what an executed command leaves, but for its answer. -/
def State.withLinks (d s : State) : State := { d with links := s.links }

/-- A block that leaves the controllers alone leaves a state with the lease renewed. -/
theorem State.renewedLease_withLinks {s d : State} {l : Link} (h : d.links = (s.renewedLease l).links) :
    (d.withLinks s).renewedLease l = d := by
  show ({ d with links := s.links.set l (s.link l).renewed } : State) = d
  rw [← State.setLink_links, ← State.renewedLease, ← h]

/-- What an executed command leaves whose block leaves the controllers alone. -/
theorem State.command_answers_withLinks {s d : State} {l : Link} {seq code : Byte} {status : Status} {result : Result}
    {body : State → Reply} (h : s.ready l seq) (hbody : body (s.renewedLease l) = ⟨d, status, result⟩)
    (hlinks : d.links = (s.renewedLease l).links) :
    Answers (d.withLinks s) (s.command l seq code body) l seq code status result :=
  State.command_answers h (by rw [hbody, State.renewedLease_withLinks hlinks]) rfl

/-! ### OPEN_WINDOW -/

theorem openReply_opens {l : Link} {p : List Byte} {r : OpenRequest} {t : State} {i : Slot} (hp : openRequest p = some r)
    (ht : t.openRefusal l r = none) (hi : t.freeSlot = some i) :
    openReply l p t = ⟨t.openIn l r i, .ok, .window (t.handleOf i)⟩ := by
  simp only [openReply, hp, ht, hi]

theorem State.freeSlot_eq_some_iff {s : State} {i : Slot} :
    s.freeSlot = some i ↔ (s.window i).state = .free ∧ ∀ j : Slot, j < i → (s.window j).state ≠ .free := by
  rw [State.freeSlot, ← Fin.find?_eq_find?_finRange, Fin.find?_eq_some_iff]
  simp only [decide_eq_true_eq, decide_eq_false_iff_not]

/-- Settles O27: the tests by `openRefusal_eq`, the slot by `freeSlot_eq_some_iff`, the buffers by how the pages are cut. -/
theorem openWindowOpens : Obligations.OpenWindowOpens := by
  intro l seq p s r i hready hp each needed htier hfree hlowest hevents hquota hpages
  have hneeded : r.pages = needed := by
    cases hb : r.buffering with
    | single => simp only [needed, each, hb, OpenRequest.pages_single hb, Nat.one_mul]
    | double => simp only [needed, each, hb, OpenRequest.pages_double hb]
  have hpasses : (s.renewedLease l).openRefusal l r = none := by
    rw [State.renewedLease_openRefusal, State.openRefusal_eq, hneeded, if_neg htier, if_neg fun h => h i hfree,
      if_neg (Nat.not_le.2 hevents), if_neg, if_neg (by omega), if_neg (Nat.not_lt.2 hpages)]
    rintro ⟨heven, hover⟩
    rcases hquota with hopen | hroom
    · exact Bool.false_ne_true (heven.symm.trans hopen)
    · exact Nat.not_le.2 hover hroom
  have hslot : (s.renewedLease l).freeSlot = some i := State.freeSlot_eq_some_iff.2 ⟨hfree, hlowest⟩
  refine ⟨_, exec_openWindow l seq p s, State.command_answers hready ((openReply_opens hp hpasses hslot).trans ?_) rfl⟩
  have hcut : ((s.pool.free.take r.pages).drop (pagesPerBuffer r.width r.height)) =
      (s.pool.free.drop each).take (needed - each) := by
    rw [hneeded, List.drop_take]
    rfl
  have hopened : (s.window i).opened l r s.pool.free =
      { gen := (s.window i).gen, state := .hidden, owner := some l, width := r.width, height := r.height, x := r.x,
        y := r.y, tier := r.tier, buffering := r.buffering, buf0 := s.pool.free.take each,
        buf1 := (s.pool.free.drop each).take (needed - each), front := .zero, flipPending := none, weight := 16,
        key := none, touch := true, grants := PerLink.all false, onGlass := false, closeReason := none } := by
    rw [Window.opened, hcut]
    rfl
  rw [← hopened, ← hneeded]
  rfl

/-! ### The commands that change one window -/

theorem State.changeRefusal_of_mayChange {s : State} {l : Link} {h : Handle} (hmay : s.mayChange l h) :
    s.changeRefusal l h = none := by
  obtain ⟨hfree, hgen, hclosing, howner⟩ := hmay
  rw [State.changeRefusal_eq, if_neg (by simp [hfree, hgen]), if_neg hclosing, if_neg (by simp [howner])]

theorem State.changeWindow_of_mayChange {s : State} {l : Link} {h : Handle} (hmay : s.mayChange l h)
    (change : State → State) : s.changeWindow l h change = .answer (change s) .ok := by
  rw [State.changeWindow, State.changeRefusal_of_mayChange hmay]

/-- Settles O29: `changeWindow_of_mayChange` for three commands, and GRANT's own test of R18. -/
theorem windowChangesApplied : Obligations.WindowChangesApplied := by
  intro l seq p s h hready hmay
  have hmay' : (s.renewedLease l).mayChange l h := hmay
  refine ⟨fun x y hp => ⟨_, rfl, State.command_answers hready ?_ rfl⟩,
    fun weight key hp => ⟨_, rfl, State.command_answers hready ?_ rfl⟩,
    fun on hp => ⟨_, rfl, State.command_answers hready ?_ rfl⟩,
    fun links hp => ⟨fun hown => ⟨_, rfl, State.command_answers hready ?_ rfl⟩,
      fun hown => ⟨_, rfl, State.command_refuses hready ?_⟩⟩⟩
  · simp only [moveReply, hp, State.changeWindow_of_mayChange hmay']
    rfl
  · simp only [lookReply, hp, State.changeWindow_of_mayChange hmay']
    rfl
  · simp only [touchReply, hp, State.changeWindow_of_mayChange hmay']
    rfl
  · simp only [grantReply, hp, State.changeRefusal_of_mayChange hmay', hown]
    rfl
  · simp only [grantReply, hp, State.changeRefusal_of_mayChange hmay', hown, if_true]

/-! ### SHOW -/

theorem showReply_shows {l : Link} {p : List Byte} {h : Handle} {place : Placement} {t : State}
    (hp : showRequest p = some (h, place)) (hmay : t.mayChange l h) (hplace : t.placementRefusal h place = none) :
    showReply l p t = .answer (t.shownAt h place) .ok := by
  simp only [showReply, hp, State.changeRefusal_of_mayChange hmay, hplace]

theorem showReply_of_placementRefusal {l : Link} {p : List Byte} {h : Handle} {place : Placement} {t : State}
    {status : Status} (hp : showRequest p = some (h, place)) (hmay : t.mayChange l h)
    (hplace : t.placementRefusal h place = some status) : showReply l p t = .refuse t status := by
  simp only [showReply, hp, State.changeRefusal_of_mayChange hmay, hplace]

/-- Tests 5 to 8 of R42 on the records of the reference and the window. -/
theorem State.referenceRefusal_eq (s : State) (h ref : Handle) :
    s.referenceRefusal h ref =
      if (s.window ref.slot).state = .free ∨ (s.window ref.slot).gen ≠ ref.gen then some .staleHandle
      else if ref.slot = h.slot then some .badParam
      else if (s.window ref.slot).state = .hidden ∨ (s.window ref.slot).state = .closing then some .wrongState
      else if (s.window ref.slot).tier ≠ (s.window h.slot).tier then some .badParam
      else none := by
  unfold State.referenceRefusal
  simp only [State.current_eq_false_iff]
  by_cases hstale : (s.window ref.slot).state = .free ∨ (s.window ref.slot).gen ≠ ref.gen
  · rw [if_pos hstale, if_pos hstale]
  · have hshown : (s.window ref.slot).state ≠ .shown ↔
        (s.window ref.slot).state = .hidden ∨ (s.window ref.slot).state = .closing := by
      cases hstate : (s.window ref.slot).state <;> simp_all
    simp only [hshown]

/-- A window placed in the live stack stands between the windows that its placement names (R41). -/
theorem State.placed_spec (s : State) (i : Slot) (place : Placement) :
    ∃ lower upper, s.stack.filter (fun j => decide (j ≠ i)) = lower ++ upper ∧
      s.placed i place.placed = lower ++ i :: upper ∧
      (place = .topOfTier → (∀ j ∈ upper, (s.window i).tier < (s.window j).tier) ∧
        ∀ j, lower.getLast? = some j → (s.window j).tier ≤ (s.window i).tier) ∧
      (place = .bottomOfTier → (∀ j ∈ upper, (s.window i).tier ≤ (s.window j).tier) ∧
        ∀ j, lower.getLast? = some j → (s.window j).tier < (s.window i).tier) ∧
      (∀ ref, place = .above ref → ref.slot ∈ s.stack → ref.slot ≠ i → lower.getLast? = some ref.slot) ∧
      (∀ ref, place = .below ref → ref.slot ∈ s.stack → ref.slot ≠ i → upper.head? = some ref.slot) := by
  generalize hrest : s.stack.filter (fun j => decide (j ≠ i)) = rest
  have hstands : ∀ ref : Handle, ref.slot ∈ s.stack → ref.slot ≠ i → ref.slot ∈ rest := fun ref hin hne =>
    hrest ▸ List.mem_filter.2 ⟨hin, by simpa using hne⟩
  have hplaced : s.placed i place.placed = match place.placed with
      | .topOfTier => insertAbove i (fun j => decide ((s.window j).tier ≤ (s.window i).tier)) rest
      | .bottomOfTier => insertAbove i (fun j => decide ((s.window j).tier < (s.window i).tier)) rest
      | .above ref => insertAbove i (fun j => decide (j = ref)) rest
      | .below ref => insertBelow i ref rest := by
    rw [← hrest]
    rfl
  rw [hplaced]
  cases place with
  | topOfTier =>
    obtain ⟨lower, upper, hcut, hins, hup, hlow⟩ :=
      insertAbove_eq i (fun j => decide ((s.window j).tier ≤ (s.window i).tier)) rest
    exact ⟨lower, upper, hcut, hins, fun _ => ⟨fun j hj => by simpa using hup j hj, fun j hj => by simpa using hlow j hj⟩,
      nofun, nofun, nofun⟩
  | bottomOfTier =>
    obtain ⟨lower, upper, hcut, hins, hup, hlow⟩ :=
      insertAbove_eq i (fun j => decide ((s.window j).tier < (s.window i).tier)) rest
    exact ⟨lower, upper, hcut, hins, nofun,
      fun _ => ⟨fun j hj => by simpa using hup j hj, fun j hj => by simpa using hlow j hj⟩, nofun, nofun⟩
  | above ref =>
    obtain ⟨lower, upper, hcut, hins, hup, hlow⟩ := insertAbove_eq i (fun j => decide (j = ref.slot)) rest
    refine ⟨lower, upper, hcut, hins, nofun, nofun, ?_, nofun⟩
    rintro ref' ⟨⟩ hin hne
    have hlower : ref.slot ∈ lower := by
      rcases List.mem_append.1 (hcut ▸ hstands ref hin hne) with hl | hu
      · exact hl
      · simpa using hup _ hu
    obtain ⟨init, last, rfl⟩ := (List.eq_nil_or_concat' lower).resolve_left (List.ne_nil_of_mem hlower)
    have hlast : last = ref.slot := by simpa using hlow last (by simp)
    simp [hlast]
  | below ref =>
    obtain ⟨lower, upper, hcut, hins, -, hhead⟩ := insertBelow_eq i ref.slot rest
    refine ⟨lower, upper, hcut, hins, nofun, nofun, nofun, ?_⟩
    rintro ref' ⟨⟩ hin hne
    exact hhead (hstands ref hin hne)

/-- Settles O32: the place by `placed_spec`, the tests by `referenceRefusal_eq`. -/
theorem showPlacesWindow : Obligations.ShowPlacesWindow := by
  intro l seq p s h place hready hmay hp hreference
  obtain ⟨lower, upper, hcut, hplaced, htop, hbottom, habove, hbelow⟩ := s.placed_spec h.slot place
  have hpasses : ∀ ref, place = .above ref ∨ place = .below ref → s.referenceRefusal h ref = none := fun ref href => by
    obtain ⟨hshown, hgen, hself, htier, -⟩ := hreference ref href
    rw [State.referenceRefusal_eq, if_neg (by simp [hshown, hgen]), if_neg hself, if_neg (by simp [hshown]),
      if_neg (by simp [htier])]
  have hplace : (s.renewedLease l).placementRefusal h place = none := by
    cases place with
    | topOfTier => rfl
    | bottomOfTier => rfl
    | above ref => exact hpasses ref (.inl rfl)
    | below ref => exact hpasses ref (.inr rfl)
  have hmay' : (s.renewedLease l).mayChange l h := hmay
  refine ⟨lower, upper, _, hcut, rfl, State.command_answers hready ((showReply_shows hp hmay' hplace).trans ?_) rfl, htop,
    hbottom, fun ref href => ?_, fun ref href => ?_⟩
  · rw [← hplaced]
    rfl
  · obtain ⟨-, -, hself, -, hin⟩ := hreference ref (.inl href)
    exact habove ref href hin hself
  · obtain ⟨-, -, hself, -, hin⟩ := hreference ref (.inr href)
    exact hbelow ref href hin hself

/-- Settles O33: tests 5 to 8 of R42 are `referenceRefusal_eq`. -/
theorem showReferenceRefusals : Obligations.ShowReferenceRefusals := by
  intro l seq p s h ref status hready hmay hp htests
  have hrefused : (s.renewedLease l).referenceRefusal h ref = some status :=
    ((s.renewedLease l).referenceRefusal_eq h ref).trans htests
  have hmay' : (s.renewedLease l).mayChange l h := hmay
  rcases hp with hp | hp
  · exact ⟨_, rfl, State.command_refuses hready (showReply_of_placementRefusal hp hmay' hrefused)⟩
  · exact ⟨_, rfl, State.command_refuses hready (showReply_of_placementRefusal hp hmay' hrefused)⟩

/-! ### FREE_STAMP -/

theorem exec_freeStamp (l : Link) (seq : Byte) (p : List Byte) (s : State) :
    exec (.freeStamp l seq p) s = .next (s.command l seq 0x32#8 (freeReply l p)) := rfl

/-- A FREE_STAMP that names a stamp is refused by R121 or frees or retires it. -/
theorem freeReply_eq {slot gen : Byte} (hs : slot.toNat < 192) (extra : List Byte) (l : Link) (t : State) :
    (∀ status, t.stampChangeRefusal l ⟨⟨slot.toNat, hs⟩, gen⟩ = some status →
      freeReply l (slot :: gen :: extra) t = .refuse t status) ∧
    (t.stampChangeRefusal l ⟨⟨slot.toNat, hs⟩, gen⟩ = none →
      freeReply l (slot :: gen :: extra) t = t.freeOrRetire l ⟨⟨slot.toNat, hs⟩, gen⟩) := by
  have hfield : atLeast 2 (slot :: gen :: extra) (stampHandle (slot :: gen :: extra) 0) =
      some ⟨⟨slot.toNat, hs⟩, gen⟩ := by
    simp [atLeast, stampHandle, field8, hs]
  exact ⟨fun status h => by simp only [freeReply, hfield, h], fun h => by simp only [freeReply, hfield, h]⟩

/-- Settles O46: `freeReply_eq` by the tests of R121, and the two branches of `freeOrRetire`. -/
theorem freeStampResult : Obligations.FreeStampResult := by
  intro l seq p s hready
  refine ⟨fun hbad => ⟨_, exec_freeStamp l seq p s, State.command_refuses hready ?_⟩, ?_⟩
  · have hfield : atLeast 2 p (stampHandle p 0) = none := by
      unfold atLeast
      rcases hbad with hshort | hslot
      · exact if_neg (Nat.not_le.2 hshort)
      · rw [stampHandle_eq_none hslot, ite_self]
    rw [freeReply, hfield]
  · rintro slot gen extra hs rfl i st
    have hreply := freeReply_eq (gen := gen) hs extra l (s.renewedLease l)
    have hpasses : st.state = .loaded → st.gen = gen → st.owner = some l →
        (s.renewedLease l).stampChangeRefusal l ⟨i, gen⟩ = none := fun hloaded hgen howner => by
      rw [State.stampChangeRefusal_eq]
      have hstamp : (s.renewedLease l).stamp i = st := rfl
      rw [hstamp]
      simp [hloaded, hgen, howner]
    refine ⟨fun status htests => ?_, fun hloaded hgen howner => ⟨fun hunused => ?_, fun hused => ?_⟩⟩
    · exact ⟨_, exec_freeStamp l seq _ s,
        State.command_refuses hready (hreply.1 status (((s.renewedLease l).stampChangeRefusal_eq l ⟨i, gen⟩).trans htests))⟩
    · refine ⟨_, exec_freeStamp l seq _ s,
        State.command_answers hready ((hreply.2 (hpasses hloaded hgen howner)).trans ?_) rfl⟩
      rw [← hgen]
      exact (if_pos hunused).trans rfl
    · refine ⟨_, exec_freeStamp l seq _ s,
        State.command_answers hready ((hreply.2 (hpasses hloaded hgen howner)).trans ?_) rfl⟩
      exact (if_neg hused).trans rfl

end Sys2Proof.Machine
end

section
/-! Captures cancelled: what each contact's owner is told; HIDE; and the commands that leave other links' windows alone. -/

namespace Sys2Proof.Machine

open Sys2Proof

/-! ### Events handed to one link -/

theorem State.handUnreserved_eventsOf (s : State) (l : Link) (e : Event) (k : Link) :
    (s.handUnreserved l e).eventsOf k =
      if k = l ∧ s.isUp l = true then (s.eventsOf l).queueUnreserved e else s.eventsOf k := by
  unfold State.handUnreserved
  by_cases hup : s.isUp l = true
  · rw [if_pos hup, State.eventsOf_setEvents]
    simp [hup]
  · rw [if_neg hup, if_neg fun h => hup h.2]

theorem State.handReserved_eventsOf (s : State) (l : Link) (e : Event) (k : Link) :
    (s.handReserved l e).eventsOf k =
      if k = l ∧ s.isUp l = true then (s.eventsOf l).queueReserved e else s.eventsOf k := by
  unfold State.handReserved
  by_cases hup : s.isUp l = true
  · rw [if_pos hup, State.eventsOf_setEvents]
    simp [hup]
  · rw [if_neg hup, if_neg fun h => hup h.2]

/-! ### Captures cancelled -/

/-- Where a contact captured on a window was last: the position its TOUCH_CANCEL gives (R136). -/
def Contact.cancelledAt (c : Contact) (h : Handle) : Option Pos := if c.capture = some h then c.last else none

/-- The event queue after the TOUCH_CANCEL of one contact, if it was captured on the window with a position. -/
def EventQueue.told (q : EventQueue) (e : Option Event) : EventQueue := e.elim q q.queueUnreserved

/-- The TOUCH_CANCEL of one contact. -/
def State.cancelEvent (s : State) (h : Handle) (k : ContactNumber) : Option Event :=
  ((s.contact k).cancelledAt h).map (s.touchEvent .cancel k h)

/-- The owner of the window, if it is told of a cancelled capture: UP, and the cancel sends. -/
def State.hears (s : State) (h : Handle) (send : Bool) (l : Link) : Prop :=
  send = true ∧ (s.window h.slot).owner = some l ∧ s.isUp l = true

theorem State.cancelCapture_eventsOf (s : State) (h : Handle) (send : Bool) (k : ContactNumber) (l : Link) :
    (s.hears h send l → (s.cancelCapture h send k).eventsOf l = (s.eventsOf l).told (s.cancelEvent h k)) ∧
      (¬ s.hears h send l → (s.cancelCapture h send k).eventsOf l = s.eventsOf l) := by
  unfold State.cancelCapture State.cancelEvent Contact.cancelledAt
  dsimp only
  split
  · rename_i hcapture
    have hset : ∀ (t : State) (c : Contact), (t.setContact k c).eventsOf l = t.eventsOf l := fun _ _ => rfl
    rw [hset]
    split
    · rename_i p hlast
      unfold State.handTouch
      refine ⟨fun ⟨_, howner, hup⟩ => ?_, fun hdeaf => ?_⟩
      · simp only [howner, State.handUnreserved_eventsOf, hup, and_self, if_true, hlast, Option.map_some]
        rfl
      · split
        · rename_i o howner
          rw [State.handUnreserved_eventsOf, if_neg]
          rintro ⟨rfl, hup⟩
          exact hdeaf ⟨rfl, howner, hup⟩
        · rfl
    · rename_i hno
      refine ⟨fun ⟨hsend, _, _⟩ => ?_, fun _ => rfl⟩
      cases hlast : (s.contact k).last with
      | none => rfl
      | some p => exact (hno p hsend hlast).elim
  · exact ⟨fun _ => rfl, fun _ => rfl⟩

theorem State.foldl_cancelCapture_eventsOf (h : Handle) (send : Bool) (l : Link) (ks : List ContactNumber)
    (hn : ks.Nodup) (s : State) :
    (s.hears h send l → (ks.foldl (fun t k => t.cancelCapture h send k) s).eventsOf l =
      ks.foldl (fun q k => q.told (s.cancelEvent h k)) (s.eventsOf l)) ∧
    (¬ s.hears h send l → (ks.foldl (fun t k => t.cancelCapture h send k) s).eventsOf l = s.eventsOf l) := by
  induction ks generalizing s with
  | nil => exact ⟨fun _ => rfl, fun _ => rfl⟩
  | cons k ks ih =>
    obtain ⟨hk, hn'⟩ := List.nodup_cons.1 hn
    have hhears : (s.cancelCapture h send k).hears h send l ↔ s.hears h send l := by
      simp only [State.hears, State.cancelCapture_frame]
    have hevent : ∀ j ∈ ks, (s.cancelCapture h send k).cancelEvent h j = s.cancelEvent h j := fun j hj => by
      have hcontact : (s.cancelCapture h send k).contact j = s.contact j := by
        rw [State.cancelCapture_contact, if_neg]
        rintro ⟨rfl, -⟩
        exact hk hj
      have horigin : (s.cancelCapture h send k).touchOrigin h = s.touchOrigin h := by
        simp only [State.touchOrigin, State.cancelCapture_frame]
      unfold State.cancelEvent State.touchEvent
      rw [hcontact, horigin]
    obtain ⟨hheard, hdeaf⟩ := s.cancelCapture_eventsOf h send k l
    obtain ⟨hheard', hdeaf'⟩ := ih hn' (s.cancelCapture h send k)
    rw [hhears] at hheard' hdeaf'
    simp only [List.foldl_cons]
    refine ⟨fun hh => ?_, fun hh => (hdeaf' hh).trans (hdeaf hh)⟩
    rw [hheard' hh, hheard hh]
    exact List.foldl_ext _ _ _ fun q j hj => by rw [hevent j hj]

/-- Cancelled captures tell the window's owner, in ascending contact number, and no other link (R136). -/
theorem State.cancelCaptures_eventsOf (s : State) (h : Handle) (send : Bool) (l : Link) :
    (s.hears h send l → (s.cancelCaptures h send).eventsOf l =
      (List.finRange 5).foldl (fun q k => q.told (s.cancelEvent h k)) (s.eventsOf l)) ∧
    (¬ s.hears h send l → (s.cancelCaptures h send).eventsOf l = s.eventsOf l) :=
  s.foldl_cancelCapture_eventsOf h send l _ (nodup_finRange 5)

/-- What one contact's cancelled capture tells the owner, written out (R133, R136). -/
theorem State.told_cancelEvent {s t : State} {h : Handle} {k : ContactNumber} (hcontact : t.contact k = s.contact k)
    (horigin : t.touchOrigin h = s.touchOrigin h) (q : EventQueue) :
    q.told (t.cancelEvent h k) = match (s.contact k).capture, (s.contact k).last with
      | some g, some pos =>
        if g = h then q.queueUnreserved (.touch .cancel k h (pos.x - (s.touchOrigin h).1) (pos.y - (s.touchOrigin h).2))
        else q
      | _, _ => q := by
  unfold State.cancelEvent Contact.cancelledAt State.touchEvent
  rw [hcontact, horigin]
  cases (s.contact k).capture with
  | none => rfl
  | some g =>
    by_cases hg : g = h
    · subst hg
      cases (s.contact k).last <;> simp [EventQueue.told]
    · cases (s.contact k).last <;> simp [EventQueue.told, hg]

/-! ### HIDE -/

theorem State.withLinks_only {s off d : State} (h : { d with contacts := off.contacts, events := off.events } = off)
    (hcontacts : off.contacts = s.contacts) (hevents : off.events = s.events) :
    { d.withLinks s with contacts := s.contacts, events := s.events } = off.withLinks s := by
  rw [← hcontacts, ← hevents]
  exact congrArg (fun d => d.withLinks s) h

theorem exec_hide (l : Link) (seq : Byte) (p : List Byte) (s : State) :
    exec (.hide l seq p) s = .next (s.command l seq 0x13#8 (hideReply l p)) := rfl

theorem hideReply_hides {l : Link} {p : List Byte} {h : Handle} {t : State} (hp : handleField p = some h)
    (hmay : t.mayChange l h) : hideReply l p t = .answer (t.hidden h) .ok := by
  rw [hideReply, hp]
  exact State.changeWindow_of_mayChange hmay _

theorem State.hidden_links (s : State) (h : Handle) : (s.hidden h).links = s.links := by
  unfold State.hidden
  split
  · simp
  · rfl

/-- Settles O34: a SHOWN window leaves the stack and its captures are cancelled, as `cancelCaptures_eventsOf` and
`cancelCaptures_contact` say. -/
theorem hideResult : Obligations.HideResult := by
  intro l seq p s h hready hp hmay
  have hreply : hideReply l p (s.renewedLease l) = .answer ((s.renewedLease l).hidden h) .ok :=
    hideReply_hides hp hmay
  refine ⟨fun hhidden => ?_, fun hshown => ?_⟩
  · refine ⟨_, exec_hide l seq p s, State.command_answers hready ?_ rfl⟩
    rw [hreply, State.hidden, if_neg]
    · rfl
    · show ¬ (s.window h.slot).state = .shown
      simp [hhidden]
  · refine ⟨_, _, exec_hide l seq p s,
      State.command_answers_withLinks hready hreply ((s.renewedLease l).hidden_links h), ?_⟩
    have heq : (s.renewedLease l).hidden h =
        (((s.renewedLease l).setStack (s.stack.filter fun j => decide (j ≠ h.slot))).setWindow h.slot
          { s.window h.slot with state := .hidden }).cancelCaptures h true := if_pos hshown
    have hoff : ∃ off, ((s.renewedLease l).setStack (s.stack.filter fun j => decide (j ≠ h.slot))).setWindow
      h.slot { s.window h.slot with state := .hidden } = off ∧ off.window h.slot = { s.window h.slot with state := .hidden } :=
      ⟨_, rfl, by simp⟩
    obtain ⟨off, hoff, hwindow⟩ := hoff
    have hcontact : ∀ k, off.contact k = s.contact k := fun k => by rw [← hoff]; rfl
    have hevents : ∀ k, off.eventsOf k = s.eventsOf k := fun k => by rw [← hoff]; rfl
    have horigin : off.touchOrigin h = s.touchOrigin h := by
      rw [State.touchOrigin, hwindow, ← hoff]
      rfl
    have hup : off.isUp l = true := by
      rw [← hoff]
      simpa [State.isUp, LinkCtl.renewed] using hready.2.1
    have hhears : ∀ k, off.hears h true k → k = l := fun k ⟨_, howner, _⟩ => by
      rw [hwindow] at howner
      exact Option.some.inj (howner.symm.trans hmay.2.2.2)
    have honly : { (off.cancelCaptures h true).withLinks s with contacts := s.contacts, events := s.events } =
        (s.setStack (s.stack.filter fun j => decide (j ≠ h.slot))).setWindow h.slot
          { s.window h.slot with state := .hidden } := by
      rw [State.withLinks_only (off.cancelCaptures_only h true) (by rw [← hoff]; rfl) (by rw [← hoff]; rfl), ← hoff]
      rfl
    have hcleared : ∀ k, (off.cancelCaptures h true).contact k = if (s.contact k).capture = some h then
        { s.contact k with capture := none, lastSent := none } else s.contact k := fun k => by
      rw [State.cancelCaptures_contact, hcontact]
    have htold := (off.cancelCaptures_eventsOf h true l).1 ⟨rfl, by rw [hwindow]; exact hmay.2.2.2, hup⟩
    have hquiet : ∀ k, k ≠ l → (off.cancelCaptures h true).eventsOf k = s.eventsOf k := fun k hk =>
      ((off.cancelCaptures_eventsOf h true k).2 fun hh => hk (hhears k hh)).trans (hevents k)
    rw [heq, hoff]
    generalize off.cancelCaptures h true = d at honly hcleared htold hquiet ⊢
    refine ⟨honly, hcleared, htold.trans ?_, hquiet⟩
    rw [hevents]
    exact List.foldl_ext _ _ _ fun q k _ => State.told_cancelEvent (hcontact k) horigin q

/-! ### Other links' windows -/

theorem State.transmit_window (s : State) (l : Link) (i : Slot) : (s.transmit l).window i = s.window i := by
  rw [State.window, State.window, (s.transmit_frame l).2.2.2.2.2.1]

/-- What the windows are after an executed command, its block leaves them. -/
theorem State.command_window {s : State} {l : Link} {seq : Byte} (h : s.ready l seq) (code : Byte) (body : State → Reply)
    (i : Slot) : (s.command l seq code body).window i = (body (s.renewedLease l)).state.window i := by
  rw [State.command, if_pos h.1, State.takeFrame_of_ready h, State.transmit_window]
  rfl

/-- A window that is not FREE and not of the link stays under a block that keeps or restyles the link's own. -/
theorem command_other_window {s t u : State} {l : Link} {seq code : Byte} {body : State → Reply} (h : s.ready l seq)
    (ht : (Host.Outcome.next (s.command l seq code body) : Host.Outcome State Fault Refusal) = .next t) {i : Slot}
    (hu : u = s.renewedLease l) (hbody : (body u).state.window i = u.window i) : t.window i = s.window i := by
  cases ht
  subst hu
  exact (s.command_window h code body i).trans hbody

/-- Settles O35: each block's reply leaves the state, changes a window of the commanding link, or opens a FREE slot. -/
theorem otherWindowsUntouched : Obligations.OtherWindowsUntouched := by
  intro c l code seq p s t hframed hready hclose hsubmit ht i hfree howner
  obtain ⟨u, hu⟩ : ∃ u, u = s.renewedLease l := ⟨_, rfl⟩
  have hwindow : u.window i = s.window i := by rw [hu]; rfl
  have hother : ∀ h : Handle, u.changeRefusal l h = none → i ≠ h.slot := by
    rintro h hpasses rfl
    exact howner (hwindow ▸ (State.changeRefusal_eq_none hpasses).2.2.2)
  have hrestyles : ∀ body, (body = moveReply l p ∨ body = lookReply l p ∨ body = touchReply l p ∨ body = grantReply l p) →
      (body u).state.window i = u.window i := fun body hbody => by
    rcases restyleReply_state l p u body hbody with hsame | ⟨h, w, hpasses, -, hset⟩
    · rw [hsame]
    · rw [hset, State.window_setWindow, if_neg (hother h hpasses)]
  cases c <;> cases hframed
  case hello =>
    rw [exec_hello_of_up hready.2.1] at ht
    exact command_other_window hready ht hu rfl
  case closeWindow => exact absurd rfl (hclose p)
  case submit => exact absurd rfl (hsubmit p)
  case setNotify =>
    refine command_other_window hready ht hu ?_
    rcases notifyReply_state l p u with hsame | ⟨on, hset⟩
    · rw [hsame]
    · rw [hset]
      rfl
  case ackEvents =>
    refine command_other_window hready ht hu ?_
    rcases ackReply_state l p u with hsame | ⟨n, gone, rest, -, hretired⟩
    · rw [hsame]
    · rw [hretired]
      rfl
  case openWindow =>
    refine command_other_window hready ht hu ?_
    rcases openReply_state l p u with hsame | ⟨r, j, -, hslot, hopened⟩
    · rw [hsame]
    · have hij : i ≠ j := by
        rintro rfl
        exact hfree (hwindow ▸ State.freeSlot_eq_some hslot)
      rw [hopened]
      exact (State.window_setWindow u j i _).trans (if_neg hij)
  case moveWindow => exact command_other_window hready ht hu (hrestyles _ (.inl rfl))
  case setLook => exact command_other_window hready ht hu (hrestyles _ (.inr (.inl rfl)))
  case setTouch => exact command_other_window hready ht hu (hrestyles _ (.inr (.inr (.inl rfl))))
  case grant => exact command_other_window hready ht hu (hrestyles _ (.inr (.inr (.inr rfl))))
  case windowInfo => exact command_other_window hready ht hu (by rw [infoReply_state])
  case showWindow =>
    refine command_other_window hready ht hu ?_
    rcases showReply_state l p u with hsame | ⟨h, place, hpasses, -, hshown⟩
    · rw [hsame]
    · rw [hshown, State.shownAt, State.window_setWindow, if_neg (hother h hpasses)]
      rfl
  case hide =>
    refine command_other_window hready ht hu ?_
    rcases hideReply_state l p u with hsame | ⟨h, hpasses, hhidden⟩
    · rw [hsame]
    · rw [hhidden, State.hidden]
      split
      · simp [hother h hpasses]
      · rfl
  case loadStamp =>
    refine command_other_window hready ht hu ?_
    rcases loadReply_state l p u with hsame | ⟨r, j, -, -, hloaded⟩
    · rw [hsame]
    · rw [hloaded]
      rfl
  case reloadStamp =>
    refine command_other_window hready ht hu ?_
    rcases reloadReply_state l p u with hsame | ⟨h, data, -, hset⟩
    · rw [hsame]
    · rw [hset]
      rfl
  case freeStamp =>
    refine command_other_window hready ht hu ?_
    rcases freeReply_state l p u with hsame | ⟨h, -, hfreed⟩
    · rw [hsame]
    · rw [hfreed, State.window, State.window, State.freeOrRetire_windows]
  all_goals exact command_other_window hready ht hu rfl

end Sys2Proof.Machine
end

section
/-! The touch router: which reports are taken, what they make of the contacts, and the touch events they hand out. -/

namespace Sys2Proof.Machine

open Sys2Proof

/-! ### Which reports are taken -/

theorem reportEntries_eq_none {bytes : List Byte} (h : bytes.length % 4 ≠ 0) : reportEntries bytes = none := by
  induction bytes using reportEntries.induct with
  | case1 => simp at h
  | case2 b0 b1 b2 b3 rest ih =>
    rw [reportEntries, ih (by simp at h; omega), Option.map_none]
  | case3 bytes h0 h4 => exact reportEntries.eq_3 _ h0 h4

/-- Every number is 0 to 4 and none appears twice, position by position. -/
theorem entriesSound_iff (n : Nat) (entry : Nat → ReportEntry) :
    entriesSound ((List.range n).map entry) = true ↔
      (∀ k < n, (entry k).number ≤ 4) ∧ ∀ j k, j < k → k < n → (entry j).number ≠ (entry k).number := by
  rw [entriesSound, Bool.and_eq_true, List.all_eq_true, decide_eq_true_eq, List.map_map,
    List.nodup_map_iff_inj_on List.nodup_range]
  simp only [List.forall_mem_map, List.mem_range, decide_eq_true_eq, Function.comp_apply]
  refine and_congr_right fun _ => ⟨fun h j k hjk hk heq => ?_, fun h j hj k hk heq => ?_⟩
  · exact Nat.ne_of_lt hjk (h j (hjk.trans hk) k hk heq)
  · rcases Nat.lt_trichotomy j k with hlt | heq' | hgt
    · exact absurd heq (h j k hlt hk)
    · exact heq'
    · exact absurd heq.symm (h k j hgt hj)

/-- The entry that stands at four bytes of a report (R182). -/
def entryAt (bytes : List Byte) (k : Nat) : ReportEntry :=
  reportEntry (bytes.getD (4 * k) 0) (bytes.getD (4 * k + 1) 0) (bytes.getD (4 * k + 2) 0) (bytes.getD (4 * k + 3) 0)

/-- The report is discarded whole: its length, a number above 4, or a number twice (R127). -/
def Malformed (bytes : List Byte) : Prop :=
  bytes.length % 4 ≠ 0 ∨ (∃ k, 4 * k < bytes.length ∧ 4 < (bytes.getD (4 * k) 0).toNat) ∨
    ∃ j k, j < k ∧ 4 * k < bytes.length ∧ bytes.getD (4 * j) 0 = bytes.getD (4 * k) 0

theorem malformed_iff {bytes : List Byte} (h : bytes.length % 4 = 0) :
    Malformed bytes ↔ entriesSound ((List.range (bytes.length / 4)).map (entryAt bytes)) = false := by
  have hin : ∀ k, k < bytes.length / 4 ↔ 4 * k < bytes.length := fun k => by omega
  have hnumber : ∀ k, (entryAt bytes k).number = (bytes.getD (4 * k) 0).toNat := fun k => rfl
  rw [← Bool.not_eq_true, entriesSound_iff, Malformed]
  simp only [hin, hnumber, BitVec.toNat_inj, ne_eq, h, not_true, false_or, not_and_or, not_forall, Nat.not_le, not_not,
    exists_prop]

theorem takenReport_of_malformed {bytes : List Byte} (h : Malformed bytes) : takenReport bytes = none := by
  unfold takenReport
  by_cases hlength : bytes.length % 4 = 0
  · rw [reportEntries_eq bytes hlength]
    exact if_neg (Bool.eq_false_iff.1 ((malformed_iff hlength).1 h))
  · rw [reportEntries_eq_none hlength]

theorem takenReport_of_sound {bytes : List Byte} (h : ¬ Malformed bytes) :
    takenReport bytes = some ((List.range (bytes.length / 4)).map (entryAt bytes)) := by
  have hlength : bytes.length % 4 = 0 := not_not.1 fun hne => h (.inl hne)
  unfold takenReport
  rw [reportEntries_eq bytes hlength]
  exact if_pos (Bool.not_eq_false _ ▸ fun hsound => h ((malformed_iff hlength).2 hsound))

/-! ### The hit test and the listing, written out -/

theorem State.hits_eq (s : State) (p : Pos) (e : Latched) :
    s.hits p e = (e.touch && decide (0 < e.weight) &&
      decide (e.x ≤ (p.x : Int) ∧ (p.x : Int) ≤ e.x + e.width - 1 ∧ e.y ≤ (p.y : Int) ∧ (p.y : Int) ≤ e.y + e.height - 1) &&
      decide ((s.window e.handle.slot).gen = e.handle.gen ∧ (s.window e.handle.slot).state = .shown)) := by
  rw [Bool.eq_iff_iff]
  unfold State.hits Latched.covers
  simp only [Bool.and_eq_true, decide_eq_true_eq, State.current_eq_true_iff]
  constructor
  · rintro ⟨⟨⟨htouch, ⟨⟨hx, hx'⟩, hy⟩, hy'⟩, -, hgen⟩, hshown⟩
    exact ⟨⟨htouch, hx, hx', hy, hy'⟩, hgen, hshown⟩
  · rintro ⟨⟨htouch, hx, hx', hy, hy'⟩, hgen, hshown⟩
    exact ⟨⟨⟨htouch, ⟨⟨hx, hx'⟩, hy⟩, hy'⟩, by simp [hshown], hgen⟩, hshown⟩

theorem State.hitTest_eq (s : State) (p : Pos) :
    s.hitTest p = (s.scanout.record.reverse.find? fun e =>
      e.touch && decide (0 < e.weight) &&
        decide (e.x ≤ (p.x : Int) ∧ (p.x : Int) ≤ e.x + e.width - 1 ∧ e.y ≤ (p.y : Int) ∧
          (p.y : Int) ≤ e.y + e.height - 1) &&
        decide ((s.window e.handle.slot).gen = e.handle.gen ∧ (s.window e.handle.slot).state = .shown)).map
      fun e => e.handle := by
  rw [State.hitTest, show s.hits p = _ from funext (s.hits_eq p)]

/-! ### CONTACT_REPORT -/

theorem exec_contactReport {s : State} (hreset : s.resetN = true) (bytes : List Byte) :
    (takenReport bytes = none → exec (.contactReport bytes) s = .next s) ∧
      ∀ es, takenReport bytes = some es → exec (.contactReport bytes) s = .next (s.applyReport es).transmitAll := by
  have hexec : exec (.contactReport bytes) s = .next (if s.resetN then
      match takenReport bytes with
      | some es => (s.applyReport es).transmitAll
      | none => s
    else s) := rfl
  rw [hexec, if_pos hreset]
  exact ⟨fun h => by rw [h], fun es h => by rw [h]⟩

theorem State.reported_only (s : State) (es : List ReportEntry) :
    { (s.applyReport es).transmitAll with contacts := s.contacts, events := s.events, links := s.links } = s := by
  have happlied := s.applyReport_only es
  have hlinks : (s.applyReport es).links = s.links := by simp
  have hchosen := (s.applyReport es).transmitAll_only
  generalize s.applyReport es = a at happlied hlinks hchosen ⊢
  rw [← hlinks]
  exact (congrArg (fun t : State => { t with contacts := s.contacts, events := s.events }) hchosen).trans happlied

/-- Settles O48: which reports are taken by `malformed_iff`, what they make of each contact by `applyReport_contact`. -/
theorem reportApplied : Obligations.ReportApplied := by
  intro bytes s hreset malformed byte es
  obtain ⟨hdiscards, happlies⟩ := exec_contactReport hreset bytes
  refine ⟨fun h => ⟨takenReport_of_malformed h, hdiscards (takenReport_of_malformed h)⟩, fun h => ?_⟩
  have htaken : takenReport bytes = some es := takenReport_of_sound h
  refine ⟨htaken, _, happlies es htaken, State.reported_only s es, ?_⟩
  intro k listed hit
  have hlisted : presentAt s.pins.panel es k = listed := rfl
  have hhit : s.hitTest = hit := funext s.hitTest_eq
  have hcontact : (s.applyReport es).transmitAll.contact k = (s.applyReport es).contact k := by simp
  rw [hcontact, State.applyReport_contact, hlisted, hhit]
  unfold Contact.reported
  generalize s.contact k = c
  obtain ⟨state, capture, last, lastSent⟩ := c
  cases state <;> cases listed <;> rfl

/-! ### Touch events -/

theorem State.applyContact_of_listed {u : State} {es : List ReportEntry} {k : ContactNumber} {p : Pos}
    (hp : presentAt u.pins.panel es k = some p) :
    ((u.contact k).state = .none → u.applyContact es k =
      u.setContact k { u.contact k with state := .settling, last := some p }) ∧
    ((u.contact k).state = .settling → u.applyContact es k = u.contactDown k p) ∧
    ((u.contact k).state = .held → (∀ h, (u.contact k).capture = some h → u.applyContact es k = u.contactMove k h p) ∧
      ((u.contact k).capture = none → u.applyContact es k = u.setContact k { u.contact k with last := some p })) := by
  unfold State.applyContact
  dsimp only
  rw [hp]
  exact ⟨fun h => by rw [h], fun h => by rw [h], fun h => ⟨fun g hg => by rw [h, hg], fun hg => by rw [h, hg]⟩⟩

theorem State.applyContact_of_absent {u : State} {es : List ReportEntry} {k : ContactNumber}
    (hp : presentAt u.pins.panel es k = none) :
    ((u.contact k).state = .none → u.applyContact es k = u) ∧
    ((u.contact k).state = .settling → u.applyContact es k = u.setContact k Contact.atReset) ∧
    ((u.contact k).state = .held → (∀ h, (u.contact k).capture = some h → u.applyContact es k = u.contactUp k h) ∧
      ((u.contact k).capture = none → u.applyContact es k = u.setContact k Contact.atReset)) := by
  unfold State.applyContact
  dsimp only
  rw [hp]
  exact ⟨fun h => by rw [h], fun h => by rw [h], fun h => ⟨fun g hg => by rw [h, hg], fun hg => by rw [h, hg]⟩⟩

/-- A touch event handed over after a contact has changed: the owner's queue takes it, with the position measured from the
window's origin (R133, R134). -/
theorem State.setContact_handTouch {u : State} {h : Handle} {l : Link} (howner : (u.window h.slot).owner = some l)
    (hup : u.isUp l = true) (kind : TouchKind) (k : ContactNumber) (c : Contact) (p : Pos) :
    (u.setContact k c).handTouch kind k h p = (u.setContact k c).setEvents l
      ((u.eventsOf l).queueUnreserved (.touch kind k h (p.x - (u.touchOrigin h).1) (p.y - (u.touchOrigin h).2))) := by
  have howner' : ((u.setContact k c).window h.slot).owner = some l := howner
  have hup' : (u.setContact k c).isUp l = true := hup
  unfold State.handTouch
  rw [howner']
  exact if_pos hup'

/-- The origin of a window with one entry in the frame record is that entry's (R133). -/
theorem State.touchOrigin_of_entry {u : State} {h : Handle} {e : Latched} (hin : e ∈ u.scanout.record)
    (hhandle : e.handle = h) (honly : ∀ d ∈ u.scanout.record, d.handle = h → d = e) : u.touchOrigin h = (e.x, e.y) := by
  have hfind : u.scanout.record.find? (fun e => decide (e.handle = h)) = some e := by
    cases hfind : u.scanout.record.find? (fun e => decide (e.handle = h)) with
    | none => exact absurd hhandle (by simpa using List.find?_eq_none.1 hfind e hin)
    | some d => rw [honly d (List.mem_of_find?_eq_some hfind) (by simpa using List.find?_some hfind)]
  rw [State.touchOrigin, hfind]

/-- A contact that goes nowhere new hands out no event. -/
theorem State.applyContact_events {u : State} {es : List ReportEntry} {k : ContactNumber}
    (h : (u.contact k).state = .none ∨
      ((u.contact k).state = .settling ∧ ∀ p, presentAt u.pins.panel es k = some p → u.hitTest p = none) ∨
      ((u.contact k).state = .held ∧ (u.contact k).capture = none) ∨
      ((u.contact k).state = .held ∧ ∃ p, presentAt u.pins.panel es k = some p ∧ (u.contact k).lastSent = some p)) :
    (u.applyContact es k).events = u.events := by
  cases hp : presentAt u.pins.panel es k with
  | none =>
    obtain ⟨hnone, hsettling, hheld⟩ := State.applyContact_of_absent hp
    rcases h with h | ⟨h, -⟩ | ⟨h, hcapture⟩ | ⟨h, p, hlisted, -⟩
    · rw [hnone h]
    · rw [hsettling h, State.setContact_events]
    · rw [(hheld h).2 hcapture, State.setContact_events]
    · exact absurd (hlisted.symm.trans hp) nofun
  | some p =>
    obtain ⟨hnone, hsettling, hheld⟩ := State.applyContact_of_listed hp
    rcases h with h | ⟨h, hmisses⟩ | ⟨h, hcapture⟩ | ⟨h, p', hlisted, hsent⟩
    · rw [hnone h, State.setContact_events]
    · rw [hsettling h, State.contactDown, hmisses p hp, State.setContact_events]
    · rw [(hheld h).2 hcapture, State.setContact_events]
    · cases hlisted.symm.trans hp
      cases hcapture : (u.contact k).capture with
      | none => rw [(hheld h).2 hcapture, State.setContact_events]
      | some g => rw [(hheld h).1 g hcapture, State.contactMove, if_pos hsent, State.setContact_events]

/-- Settles O49: the three kinds of event by `setContact_handTouch`, and no other by `applyContact_events`. -/
theorem touchEventsHanded : Obligations.TouchEventsHanded := by
  refine ⟨fun bytes s es hreset htaken => (exec_contactReport hreset bytes).2 es htaken, ?_,
    fun u es k h => State.applyContact_events h, fun u es k p => ⟨rfl, u.hitTest_eq p⟩⟩
  intro u es k h e l hin hhandle honly howner hup listed handed
  have horigin := State.touchOrigin_of_entry hin hhandle honly
  have hhanded : ∀ kind p c, (u.setContact k c).handTouch kind k h p = (u.setContact k c).setEvents l
      ((u.eventsOf l).queueUnreserved (.touch kind k h (p.x - e.x) (p.y - e.y))) := fun kind p c => by
    rw [State.setContact_handTouch howner hup, horigin]
  refine ⟨fun p hstate hlisted hhit => ?_, fun p hstate hcapture hlisted hmoved => ?_,
    fun p hstate hcapture hlisted hlast => ?_⟩
  · show u.applyContact es k = _
    rw [(State.applyContact_of_listed hlisted).2.1 hstate, State.contactDown, hhit]
    exact hhanded _ _ _
  · show u.applyContact es k = _
    rw [((State.applyContact_of_listed hlisted).2.2 hstate).1 h hcapture, State.contactMove, if_neg hmoved]
    exact hhanded _ _ _
  · show u.applyContact es k = _
    rw [((State.applyContact_of_absent hlisted).2.2 hstate).1 h hcapture, State.contactUp, hlast]
    exact hhanded _ _ _

end Sys2Proof.Machine
end

section
/-! The draw engine's rows: what a row end writes, which values a row holds, and a row end that is not the last. -/

namespace Sys2Proof.Machine

open Sys2Proof

/-! ### The values that a run of pixels overwrites -/

/-- The address and the old value of a pixel that a run writes at a buffer index; none where it writes nothing. -/
def overwrittenAt (op : JobOp) (pages : List Nat) (m : Memory) (v : SourceValue) (index : Nat) : Option (Nat × Pixel) :=
  match pixelAddr pages index with
  | some a => (op.formed v (readPixel m a)).map fun _ => (a, readPixel m a)
  | none => none

theorem drawPixels_earlier (op : JobOp) (pages : List Nat) (hn : pages.Nodup) (vs : List SourceValue) (index : Nat)
    (m : Memory) (earlier : List (Nat × Pixel)) (hm : Memory.wf m) :
    (drawPixels op pages vs index m earlier).2 =
      earlier ++ (vs.zipIdx index).filterMap fun c => overwrittenAt op pages m c.1 c.2 := by
  induction vs generalizing index m earlier with
  | nil => simp [drawPixels]
  | cons v vs ih =>
    rw [List.zipIdx_cons, List.filterMap_cons]
    unfold drawPixels
    cases ha : pixelAddr pages index with
    | none =>
      have hv : overwrittenAt op pages m v index = none := by rw [overwrittenAt, ha]
      rw [hv]
      exact ih _ _ _ hm
    | some a =>
      have hv : overwrittenAt op pages m v index = (op.formed v (readPixel m a)).map fun _ => (a, readPixel m a) := by
        rw [overwrittenAt, ha]
      rw [hv]
      cases hc : op.formed v (readPixel m a) with
      | none => simpa only [hc, Option.map_none] using ih _ _ _ hm
      | some c =>
        have hlater : ∀ d ∈ vs.zipIdx (index + 1),
            overwrittenAt op pages (writePixel m a c) d.1 d.2 = overwrittenAt op pages m d.1 d.2 := fun d hd => by
          have hindex := List.le_snd_of_mem_zipIdx hd
          unfold overwrittenAt
          split
          · rename_i b hb
            obtain ⟨h1, h2, h3⟩ := pixelAddr_inj hn hb ha (by omega)
            rw [readPixel_writePixel_ne m a b c hm h1 h2 h3]
          · rfl
        simp only [Option.map_some, hc]
        rw [ih _ _ _ (Memory.wf_writePixel _ _ _ hm), List.append_assoc, List.singleton_append,
          List.filterMap_congr hlater]

/-! ### A row worked -/

theorem State.rowBase_eq {s : State} {f : InFlight} {h : Handle} {r : Rect} (ht : f.job.op.target = some h)
    (hr : f.job.op.rect = some r) : s.rowBase f = (r.y + f.row) * (s.window h.slot).width + r.x := by
  rw [State.rowBase, ht, hr]

theorem State.rowRoom_eq {s : State} {f : InFlight} {h : Handle} {r : Rect} (ht : f.job.op.target = some h)
    (hr : f.job.op.rect = some r) :
    s.rowRoom f = if r.y + f.row < (s.window h.slot).height then (s.window h.slot).width - r.x else 0 := by
  rw [State.rowRoom, ht, hr]

/-- Each pixel of the row in the window is formed once from its source value and its old value. -/
theorem State.drawRow_pixel {s : State} {f : InFlight} (hm : MemoryLaw s) (hn : f.writePages.Nodup) {i : Nat}
    {v : SourceValue} {a : Nat} (hi : i < s.rowRoom f) (hv : f.rowStore[i]? = some v)
    (ha : pixelAddr f.writePages (s.rowBase f + i) = some a) :
    readPixel (s.drawRow f).mem a = (f.job.op.formed v (readPixel s.mem a)).getD (readPixel s.mem a) :=
  drawPixels_pixel f.job.op f.writePages hn _ _ s.mem _ hm i v a (by rw [List.getElem?_take, if_pos hi, hv]) ha

/-- Every byte outside the row's pixels in the window stays. -/
theorem State.drawRow_byte {s : State} {f : InFlight} (hm : MemoryLaw s) {b : Nat}
    (h : ∀ i a, i < s.rowRoom f → i < f.rowStore.length → pixelAddr f.writePages (s.rowBase f + i) = some a →
      b ≠ a ∧ b ≠ a + 1) : readByte (s.drawRow f).mem b = readByte s.mem b := by
  refine drawPixels_frame f.job.op f.writePages _ _ s.mem _ hm b fun i a hi ha => h i a ?_ ?_ ha
  · rw [List.length_take] at hi
    omega
  · rw [List.length_take] at hi
    omega

/-- The record of overwritten values gains the row's. -/
theorem State.drawRow_earlier {s : State} {f : InFlight} (hm : MemoryLaw s) (hn : f.writePages.Nodup) :
    (s.drawRow f).scanout.earlier = s.scanout.earlier ++ (f.rowStore.take (s.rowRoom f)).zipIdx.filterMap fun c =>
      overwrittenAt f.job.op f.writePages s.mem c.1 (s.rowBase f + c.2) := by
  refine (drawPixels_earlier f.job.op f.writePages hn _ _ s.mem _ hm).trans ?_
  rw [List.zipIdx_eq_map_add, List.filterMap_map]
  rfl

/-! ### The values of a row -/

theorem getElem?_map_range {α : Type} (g : Nat → α) (n i : Nat) :
    ((List.range n).map g)[i]? = if i < n then some (g i) else none := by
  split <;> simp [*]

theorem State.sourcePixel_eq (s : State) (f : InFlight) (src : Handle) (x y : Nat) :
    s.sourcePixel f src x y =
      if x < (s.window src.slot).width ∧ y < (s.window src.slot).height then
        bufferPixel s.mem f.readPages (y * (s.window src.slot).width + x)
      else Config.absentPixel s.scanout.choice x y := by
  simp only [State.sourcePixel, Window.hasPixel_iff]

theorem InFlight.row_eq {f : InFlight} {r : Rect} (hr : f.job.op.rect = some r) :
    f.row = match f.job.op with
      | .copy _ _ _ _ _ sy _ _ => if f.readPages = f.writePages ∧ sy < r.y then r.h - 1 - f.progress else f.progress
      | _ => f.progress := by
  have hheight : f.height = r.h := by rw [InFlight.height, hr]
  have hbottom : f.bottomUp = match f.job.op.sourceRow with
      | some sy => decide (f.readPages = f.writePages) && decide (sy < r.y)
      | none => false := by
    rw [InFlight.bottomUp, hr]
    cases f.job.op.sourceRow <;> rfl
  rw [InFlight.row, hheight, hbottom]
  cases f.job.op with
  | copy t r' src sel sx sy c skip =>
    simp only [JobOp.sourceRow, Bool.and_eq_true, decide_eq_true_eq]
  | _ => rfl

/-- Settles O40: the three parts of a worked row, the values of a row kind by kind, and what each kind forms. -/
theorem rowPixels : Obligations.RowPixels := by
  refine ⟨fun s f hm => ⟨State.drawRow_of_no_target, ?_, rfl⟩,
    fun f r hr => InFlight.row_eq hr, fun s f j i => ?_, fun t st h sh r sel sx sy colour fg c d bg skip combine mask pixels b => ?_⟩
  · intro h r ht hr hn base room
    have hbase : s.rowBase f = base := State.rowBase_eq ht hr
    have hroom : s.rowRoom f = room := State.rowRoom_eq ht hr
    rw [← hbase, ← hroom]
    exact ⟨fun i v a hi hv ha => State.drawRow_pixel hm hn hi hv ha, fun b h => State.drawRow_byte hm h,
      State.drawRow_earlier hm hn⟩
  · unfold State.sourceRow
    cases f.job.op with
    | fill t r colour c => exact List.getElem?_replicate
    | present h => rfl
    | mark => rfl
    | copy t r src sel sx sy c skip => simp only [getElem?_map_range, State.sourcePixel_eq]
    | read src sel r => simp only [getElem?_map_range, State.sourcePixel_eq]
    | tile t r st c skip => exact getElem?_map_range _ _ _
    | stampExpand t r st fg bg => exact getElem?_map_range _ _ _
    | maskExpand t r fg bg mask => exact getElem?_map_range _ _ _
    | write t r c skip pixels => exact getElem?_map_range _ _ _
  · exact ⟨rfl, rfl, rfl, rfl, rfl, rfl, rfl⟩

/-! ### A row end that is not the last -/

theorem State.drawRow_settled {s : State} (h : TransmitterLaw s) (f : InFlight) (e : Option InFlight) :
    TransmitterLaw ((s.drawRow f).setEngine e) := fun l => (State.settled_congr rfl rfl).2 (h l)

theorem exec_rowEnd {s : State} {f : InFlight} (hreset : s.resetN = true) (hf : s.engine = some f) :
    exec .rowEnd s = .next (s.endRow f).transmitAll := by
  show Host.Outcome.next _ = _
  rw [if_pos hreset, hf]

/-- Settles O41: the row is worked and the next one begins; no transmitter has anything to take. -/
theorem rowDrawn : Obligations.RowDrawn := by
  intro s f hreset hsettled hf habandon hmore
  have hrow : s.endRow f = (s.drawRow f).setEngine (some ((s.drawRow f).beginRow f.rowEnded)) := by
    unfold State.endRow
    rw [habandon]
    exact if_neg (Nat.not_le.2 hmore)
  rw [exec_rowEnd hreset hf, hrow, State.transmitAll_of_settled (State.drawRow_settled hsettled f _)]
  obtain ⟨link, ⟨tag, notify, op⟩, abandon, progress, writePages, readPages, rowStore, result⟩ := f
  cases op <;> rfl

end Sys2Proof.Machine
end

section
/-! The frame on the panel port: its size, and how each of its pixels is composed from the latched entries. -/

namespace Sys2Proof.Machine

open Sys2Proof

/-! ### The composition -/

theorem Latched.coversPixel_iff {e : Latched} {sx sy : Nat} : e.coversPixel sx sy = true ↔
    e.x ≤ (sx : Int) ∧ (sx : Int) ≤ e.x + e.width - 1 ∧ e.y ≤ (sy : Int) ∧ (sy : Int) ≤ e.y + e.height - 1 := by
  simp only [Latched.coversPixel, Bool.and_eq_true, decide_eq_true_eq, and_assoc]

/-- The entries from a place on are laid over the running colour one after the other. -/
theorem State.composeFrom_eq (s : State) (sx sy : Nat) (es : List Latched) (place : Nat) (running : Pixel) :
    s.composeFrom sx sy es place running = (es.zipIdx place).foldl (fun running c =>
      if c.1.coversPixel sx sy then c.1.over (s.shownValue sx sy c.2 c.1.pages (c.1.bufferIndex sx sy)) running
      else running) running := by
  induction es generalizing place running with
  | nil => rfl
  | cons e es ih =>
    rw [State.composeFrom, ih, List.zipIdx_cons, List.foldl_cons]

/-- Where no place matters the entries alone are laid over the colour. -/
theorem foldl_zipIdx {α β : Type} (g : β → α → β) (xs : List α) (n : Nat) (b : β) :
    (xs.zipIdx n).foldl (fun b c => g b c.1) b = xs.foldl g b := by
  conv_rhs => rw [← List.zipIdx_map_fst n xs, List.foldl_map]

/-! ### The value shown of a buffer pixel -/

theorem State.shownValue_of_no_addr {s : State} {sx sy place index : Nat} {pages : List Nat}
    (h : pixelAddr pages index = none) : s.shownValue sx sy place pages index = 0x0000#16 := by
  rw [State.shownValue, h]

/-- A value shown is the present one, one held earlier in the frame, or the one that the row under way gives. -/
theorem State.shownValue_cases {s : State} {sx sy place index a : Nat} {pages : List Nat}
    (h : pixelAddr pages index = some a) :
    s.shownValue sx sy place pages index = readPixel s.mem a ∨
      (a, s.shownValue sx sy place pages index) ∈ s.scanout.earlier ∨
      ∃ f, s.engine = some f ∧ s.shownValue sx sy place pages index = readPixel (s.drawRow f).mem a := by
  have hmem := s.shownValue_mem sx sy place pages index a h
  generalize s.shownValue sx sy place pages index = v at hmem
  rw [State.heldValues, List.cons_append, List.mem_cons, List.mem_append] at hmem
  rcases hmem with hpresent | hearlier | hrow
  · exact .inl hpresent
  · obtain ⟨c, hc, rfl⟩ := List.mem_map.1 hearlier
    obtain ⟨hin, ha⟩ := List.mem_filter.1 hc
    rw [← of_decide_eq_true ha]
    exact .inr (.inl hin)
  · right
    right
    unfold State.valueUnderWay at hrow
    split at hrow
    · rename_i f hf
      exact ⟨f, hf, List.mem_singleton.1 hrow⟩
    · cases hrow

/-- Where nothing has been overwritten or is being drawn, the present value is shown. -/
theorem State.shownValue_of_present {s : State} (hfresh : s.scanout.earlier = [])
    (hidle : ∀ f, s.engine = some f → f.job.op.target = none) (sx sy place index : Nat) (pages : List Nat) :
    s.shownValue sx sy place pages index = bufferPixel s.mem pages index := by
  unfold bufferPixel
  cases ha : pixelAddr pages index with
  | none => exact State.shownValue_of_no_addr ha
  | some a =>
    rcases State.shownValue_cases (s := s) (sx := sx) (sy := sy) (place := place) ha with h | h | ⟨f, hf, h⟩
    · exact h
    · rw [hfresh] at h
      cases h
    · rw [h, State.drawRow_of_no_target (hidle f hf)]

/-! ### The frame -/

theorem State.panelFrame_length (s : State) :
    s.panelFrame.length = if s.resetN then screenHeight s.pins.panel else 0 := by
  unfold State.panelFrame
  split <;> simp

theorem State.panelFrame_row_length {s : State} {row : List Pixel} (h : row ∈ s.panelFrame) :
    row.length = screenWidth s.pins.panel := by
  unfold State.panelFrame at h
  split at h
  · obtain ⟨sy, -, rfl⟩ := List.mem_map.1 h
    simp
  · cases h

theorem State.panelFrame_pixel (s : State) (sx sy : Nat) :
    (s.panelFrame[sy]?).bind (fun row => row[sx]?) = s.framePixel sx sy := by
  rw [State.panelFrame_getElem?, State.framePixel]
  by_cases hrow : s.resetN = true ∧ sy < screenHeight s.pins.panel
  · rw [if_pos hrow, Option.bind_some, getElem?_map_range]
    simp only [State.sendsPixel_iff, hrow.1, hrow.2, true_and, and_true]
  · rw [if_neg hrow, Option.bind_none, if_neg fun h => ?_]
    obtain ⟨hreset, -, hy⟩ := (s.sendsPixel_iff sx sy).1 h
    exact hrow ⟨hreset, hy⟩

theorem State.framePixel_composed {s : State} {sx sy : Nat} {c : Pixel} (h : s.framePixel sx sy = some c) :
    c = s.composed sx sy := ((s.framePixel_eq_some sx sy c).1 h).2.symm

/-- Settles O12: the frame's size by `panelFrame_getElem?`, its pixels by `composeFrom_eq`, the values by
`shownValue_cases`. -/
theorem composedPixel : Obligations.ComposedPixel := by
  refine ⟨fun s => ⟨s.panelFrame_length, fun row => State.panelFrame_row_length, s.panelFrame_pixel, fun sx sy => ?_⟩,
    fun s sx sy c hc => ?_, fun s sx sy c hc hfresh hidle => ?_, fun s sx sy place index a pages ha =>
      State.shownValue_cases ha, fun s sx sy place index pages ha => State.shownValue_of_no_addr ha,
    fun mem pages index a => ⟨rfl, rfl, ?_⟩⟩
  · rw [State.framePixel, Option.isSome_ite]
    exact s.sendsPixel_iff sx sy
  · rw [State.framePixel_composed hc, State.composed, State.composeFrom_eq]
    simp only [Latched.coversPixel_iff]
    rfl
  · rw [State.framePixel_composed hc, State.composed, State.composeFrom_eq]
    simp only [Latched.coversPixel_iff, State.shownValue_of_present hfresh hidle]
    exact foldl_zipIdx (fun (running : Pixel) (e : Latched) =>
      if e.x ≤ (sx : Int) ∧ (sx : Int) ≤ e.x + e.width - 1 ∧ e.y ≤ (sy : Int) ∧ (sy : Int) ≤ e.y + e.height - 1 then
        e.over (bufferPixel s.mem e.pages (e.bufferIndex sx sy)) running
      else running) _ 0 _
  · unfold bufferPixel
    cases pixelAddr pages index <;> rfl

end Sys2Proof.Machine
end

section
/-! A COPY within one buffer: no row end overwrites a pixel that a later row still reads. -/

namespace Sys2Proof.Machine

open Sys2Proof

/-- The fields of a COPY within one buffer. -/
structure CopyFields where
  target : Handle
  rect : Rect
  source : Handle
  select : BufferSelect
  sx : Nat
  sy : Nat
  combine : Combine
  skip : Option Pixel

/-- The job in flight is a COPY with these fields, of one window's buffer onto itself. -/
structure SelfCopy (f : InFlight) (c : CopyFields) : Prop where
  op : f.job.op = .copy c.target c.rect c.source c.select c.sx c.sy c.combine c.skip
  slot : c.target.slot = c.source.slot
  pages : f.readPages = f.writePages
  nodup : f.writePages.Nodup

/-- The row of the rectangle that is worked after n row ends (R95, R101). -/
def CopyFields.rowAt (c : CopyFields) (n : Nat) : Nat := if c.sy < c.rect.y then c.rect.h - 1 - n else n

section
variable {c : CopyFields} {n k : Nat}

theorem CopyFields.rowAt_lt (hn : n < c.rect.h) : c.rowAt n < c.rect.h := by
  unfold CopyFields.rowAt
  split <;> omega

theorem CopyFields.rowAt_inj (hn : n < c.rect.h) (hk : k < c.rect.h) (h : c.rowAt n = c.rowAt k) : n = k := by
  unfold CopyFields.rowAt at h
  split at h <;> omega

theorem CopyFields.rowAt_rowAt (hn : n < c.rect.h) : c.rowAt (c.rowAt n) = n := by
  unfold CopyFields.rowAt
  split <;> omega

/-- No row worked before is the source of the row worked now: the order of the rows sees to it (R101). -/
theorem CopyFields.rowAt_ne_source (hn : n < c.rect.h) (hk : k < n) :
    c.rect.y + c.rowAt k ≠ c.sy + c.rowAt n := by
  unfold CopyFields.rowAt
  split <;> omega

end

theorem SelfCopy.row_eq {f : InFlight} {c : CopyFields} (h : SelfCopy f c) {g : InFlight} (hjob : g.job = f.job)
    (hwrite : g.writePages = f.writePages) (hread : g.readPages = f.readPages) : g.row = c.rowAt g.progress := by
  have hop : g.job.op = .copy c.target c.rect c.source c.select c.sx c.sy c.combine c.skip := by rw [hjob, h.op]
  have hrect : g.job.op.rect = some c.rect := by rw [hop]; rfl
  rw [InFlight.row_eq hrect, hop]
  simp only [hwrite, hread, h.pages, true_and]
  rfl

/-! ### Where the rectangle's pixels lie -/

/-- The pixel (i, j) of the rectangle lies in the window, at an address of the buffer. -/
structure CopyPlace (s : State) (f : InFlight) (c : CopyFields) (j i a : Nat) : Prop where
  column : c.rect.x + i < (s.window c.target.slot).width
  row : c.rect.y + j < (s.window c.target.slot).height
  addr : pixelAddr f.writePages ((c.rect.y + j) * (s.window c.target.slot).width + (c.rect.x + i)) = some a

theorem row_of_index {w x x' y y' : Nat} (hx : x < w) (hx' : x' < w) (h : y * w + x = y' * w + x') : y = y' := by
  have hw : 0 < w := Nat.lt_of_le_of_lt (Nat.zero_le x) hx
  have hdiv := congrArg (· / w) h
  simpa [Nat.mul_add_div hw, Nat.mul_comm _ w, Nat.div_eq_of_lt hx, Nat.div_eq_of_lt hx'] using hdiv

/-- A pixel of another row of the window shares no byte with the pixel. -/
theorem CopyPlace.apart {s : State} {f : InFlight} {c : CopyFields} (hcopy : SelfCopy f c) {j i a : Nat}
    (h : CopyPlace s f c j i a) {x y b : Nat} (hx : x < (s.window c.target.slot).width) (hy : c.rect.y + j ≠ y)
    (hb : pixelAddr f.writePages (y * (s.window c.target.slot).width + x) = some b) :
    b ≠ a ∧ b ≠ a + 1 ∧ b + 1 ≠ a :=
  pixelAddr_inj hcopy.nodup hb h.addr fun heq => hy (row_of_index hx h.column heq).symm

/-! ### The memory after some rows -/

/-- The value a COPY reads for its pixel (i, j), as the buffer held it at the start. -/
def CopyFields.sourceAt (c : CopyFields) (s : State) (f : InFlight) (j i : Nat) : Pixel :=
  s.sourcePixel f c.source (c.sx + i) (c.sy + j)

/-- Surface memory after n row ends: the rows worked are formed from the values at the start, every other byte is as it was. -/
structure RowsCopied (s : State) (f : InFlight) (c : CopyFields) (n : Nat) (m : Memory) : Prop where
  formed : ∀ k < n, ∀ i < c.rect.w, ∀ a, CopyPlace s f c (c.rowAt k) i a →
    readPixel m a = (f.job.op.formed (.pixel (c.sourceAt s f (c.rowAt k) i)) (readPixel s.mem a)).getD (readPixel s.mem a)
  kept : ∀ x, (∀ k < n, ∀ i < c.rect.w, ∀ a, CopyPlace s f c (c.rowAt k) i a → x ≠ a ∧ x ≠ a + 1) →
    readByte m x = readByte s.mem x

/-- A pixel of a row of the window that has not been worked is as it was. -/
theorem RowsCopied.unworked {s : State} {f : InFlight} {c : CopyFields} {n : Nat} {m : Memory}
    (h : RowsCopied s f c n m) (hcopy : SelfCopy f c) {x y b : Nat} (hx : x < (s.window c.target.slot).width)
    (hy : ∀ k < n, c.rect.y + c.rowAt k ≠ y)
    (hb : pixelAddr f.writePages (y * (s.window c.target.slot).width + x) = some b) :
    readPixel m b = readPixel s.mem b := by
  have hapart : ∀ k < n, ∀ i a, CopyPlace s f c (c.rowAt k) i a → b ≠ a ∧ b ≠ a + 1 ∧ b + 1 ≠ a :=
    fun k hk i a ha => ha.apart hcopy hx (hy k hk) hb
  rw [readPixel, readPixel, h.kept b fun k hk i _ a ha => ⟨(hapart k hk i a ha).1, (hapart k hk i a ha).2.1⟩,
    h.kept (b + 1) fun k hk i _ a ha =>
      ⟨(hapart k hk i a ha).2.2, fun heq => (hapart k hk i a ha).1 (Nat.succ.inj heq)⟩]

/-! ### One row -/

/-- What a state in the middle of a COPY within one buffer has of its start: n rows are worked, and the row store holds the
next one's source values of the start. -/
structure CopyUnderWay (s : State) (f : InFlight) (c : CopyFields) (n : Nat) (t : State) (g : InFlight) : Prop where
  windows : t.windows = s.windows
  choice : t.scanout.choice = s.scanout.choice
  canonical : MemoryLaw t
  rows : RowsCopied s f c n t.mem
  job : g.job = f.job
  abandon : g.abandon = none
  progress : g.progress = n
  writePages : g.writePages = f.writePages
  readPages : g.readPages = f.readPages
  store : g.rowStore = (List.range c.rect.w).map fun i => .pixel (c.sourceAt s f (c.rowAt n) i)

section
variable {s t : State} {f g : InFlight} {c : CopyFields} {n : Nat}

theorem CopyUnderWay.window (h : CopyUnderWay s f c n t g) (i : Slot) : t.window i = s.window i := by
  rw [State.window, h.windows, State.window]

theorem CopyUnderWay.rowBase (h : CopyUnderWay s f c n t g) (hcopy : SelfCopy f c) :
    t.rowBase g = (c.rect.y + c.rowAt n) * (s.window c.target.slot).width + c.rect.x := by
  have hop := hcopy.op
  rw [State.rowBase_eq (h := c.target) (r := c.rect) (by rw [h.job, hop]; rfl) (by rw [h.job, hop]; rfl),
    hcopy.row_eq h.job h.writePages h.readPages, h.progress, h.window]

theorem CopyUnderWay.rowRoom (h : CopyUnderWay s f c n t g) (hcopy : SelfCopy f c) :
    t.rowRoom g = if c.rect.y + c.rowAt n < (s.window c.target.slot).height then
      (s.window c.target.slot).width - c.rect.x else 0 := by
  have hop := hcopy.op
  rw [State.rowRoom_eq (h := c.target) (r := c.rect) (by rw [h.job, hop]; rfl) (by rw [h.job, hop]; rfl),
    hcopy.row_eq h.job h.writePages h.readPages, h.progress, h.window]

/-- The pixels that the row writes are those of its row of the rectangle in the window. -/
theorem CopyUnderWay.place_iff (h : CopyUnderWay s f c n t g) (hcopy : SelfCopy f c) (i a : Nat) :
    CopyPlace s f c (c.rowAt n) i a ↔ i < t.rowRoom g ∧ pixelAddr g.writePages (t.rowBase g + i) = some a := by
  rw [h.rowBase hcopy, h.rowRoom hcopy, h.writePages, Nat.add_assoc]
  constructor
  · rintro ⟨hcolumn, hrow, haddr⟩
    rw [if_pos hrow]
    exact ⟨by omega, haddr⟩
  · rintro ⟨hroom, haddr⟩
    split at hroom
    · rename_i hrow
      exact ⟨by omega, hrow, haddr⟩
    · omega

/-- A byte outside the row is as it was before the row. -/
theorem CopyUnderWay.drawRow_byte (h : CopyUnderWay s f c n t g) (hcopy : SelfCopy f c) {x : Nat}
    (hx : ∀ i < c.rect.w, ∀ a, CopyPlace s f c (c.rowAt n) i a → x ≠ a ∧ x ≠ a + 1) :
    readByte (t.drawRow g).mem x = readByte t.mem x := by
  refine State.drawRow_byte h.canonical fun i a hroom hi ha => hx i ?_ a ((h.place_iff hcopy i a).2 ⟨hroom, ha⟩)
  simpa [h.store] using hi

/-- The row worked: one more row is formed from the values of the start. -/
theorem CopyUnderWay.rows_drawRow (h : CopyUnderWay s f c n t g) (hcopy : SelfCopy f c) (hn : n < c.rect.h) :
    RowsCopied s f c (n + 1) (t.drawRow g).mem := by
  have hnodup : g.writePages.Nodup := h.writePages ▸ hcopy.nodup
  have hrows : ∀ k, k < n → c.rect.y + c.rowAt k ≠ c.rect.y + c.rowAt n := fun k hk heq =>
    Nat.ne_of_lt hk (CopyFields.rowAt_inj (hk.trans hn) hn (Nat.add_left_cancel heq))
  constructor
  case formed =>
    intro k hk i hi a hplace
    rcases Nat.lt_succ_iff_lt_or_eq.1 hk with hlt | rfl
    · have hapart : ∀ i' a', CopyPlace s f c (c.rowAt n) i' a' → a ≠ a' ∧ a ≠ a' + 1 ∧ a + 1 ≠ a' :=
        fun i' a' hplace' => hplace'.apart hcopy hplace.column (Ne.symm (hrows k hlt)) hplace.addr
      have hlow := h.drawRow_byte hcopy fun i' _ a' hp => ⟨(hapart i' a' hp).1, (hapart i' a' hp).2.1⟩
      have hhigh := h.drawRow_byte hcopy fun i' _ a' hp =>
        ⟨(hapart i' a' hp).2.2, fun heq => (hapart i' a' hp).1 (Nat.succ.inj heq)⟩
      rw [readPixel, hlow, hhigh, ← readPixel]
      exact h.rows.formed k hlt i hi a hplace
    · obtain ⟨hroom, haddr⟩ := (h.place_iff hcopy i a).1 hplace
      have hold : readPixel t.mem a = readPixel s.mem a := h.rows.unworked hcopy hplace.column hrows hplace.addr
      have hvalue : g.rowStore[i]? = some (.pixel (c.sourceAt s f (c.rowAt k) i)) := by
        rw [h.store, getElem?_map_range, if_pos hi]
      rw [State.drawRow_pixel h.canonical hnodup hroom hvalue haddr, hold, h.job]
  case kept =>
    intro x hx
    rw [h.drawRow_byte hcopy fun i hi a hp => hx n (Nat.lt_succ_self n) i hi a hp]
    exact h.rows.kept x fun k hk => hx k (Nat.lt_succ_of_lt hk)

/-- The next row's source values are still those of the start. -/
theorem CopyUnderWay.sourceRow_next {u : State} {g' : InFlight} (hcopy : SelfCopy f c) (hn : n < c.rect.h)
    (hwindows : u.windows = s.windows) (hchoice : u.scanout.choice = s.scanout.choice)
    (hrows : RowsCopied s f c n u.mem) (hjob : g'.job = f.job) (hread : g'.readPages = f.readPages) :
    u.sourceRow g' (c.rowAt n) = (List.range c.rect.w).map fun i => .pixel (c.sourceAt s f (c.rowAt n) i) := by
  have hwindow : u.window c.source.slot = s.window c.source.slot := by rw [State.window, hwindows, State.window]
  have hpixel : ∀ i, u.sourcePixel g' c.source (c.sx + i) (c.sy + c.rowAt n) = c.sourceAt s f (c.rowAt n) i := fun i => by
    rw [CopyFields.sourceAt, State.sourcePixel_eq, State.sourcePixel_eq, hwindow, hchoice, hread]
    split
    · rename_i hin
      unfold bufferPixel
      cases haddr : pixelAddr f.readPages
          ((c.sy + c.rowAt n) * (s.window c.source.slot).width + (c.sx + i)) with
      | none => rfl
      | some b =>
        rw [hcopy.pages, ← hcopy.slot] at haddr
        rw [← hcopy.slot] at hin
        exact hrows.unworked hcopy hin.1 (fun k hk => CopyFields.rowAt_ne_source hn hk) haddr
    · rfl
  have hrow : u.sourceRow g' (c.rowAt n) =
      (List.range c.rect.w).map fun i => .pixel (u.sourcePixel g' c.source (c.sx + i) (c.sy + c.rowAt n)) := by
    unfold State.sourceRow
    rw [hjob, hcopy.op]
  rw [hrow]
  simp only [hpixel]

theorem CopyUnderWay.height (h : CopyUnderWay s f c n t g) (hcopy : SelfCopy f c) : g.height = c.rect.h := by
  rw [InFlight.height, h.job, hcopy.op]
  rfl

/-- A row end that is not the last leaves the COPY under way with one more row worked. -/
theorem CopyUnderWay.endRow (h : CopyUnderWay s f c n t g) (hcopy : SelfCopy f c) (hn : n + 1 < c.rect.h) :
    t.endRow g = (t.drawRow g).setEngine (some ((t.drawRow g).beginRow g.rowEnded)) ∧
      CopyUnderWay s f c (n + 1) (t.endRow g) ((t.drawRow g).beginRow g.rowEnded) := by
  have hend : t.endRow g = (t.drawRow g).setEngine (some ((t.drawRow g).beginRow g.rowEnded)) := by
    unfold State.endRow
    rw [h.abandon]
    refine if_neg (Nat.not_le.2 ?_)
    rw [h.height hcopy]
    exact (congrArg (· + 1) h.progress).trans_lt hn
  have hrows := h.rows_drawRow hcopy (Nat.lt_of_succ_lt hn)
  have hprogress : g.rowEnded.progress = n + 1 := congrArg (· + 1) h.progress
  have hrow : g.rowEnded.row = c.rowAt (n + 1) := by
    rw [hcopy.row_eq (g := g.rowEnded) h.job h.writePages h.readPages, hprogress]
  have hstore := CopyUnderWay.sourceRow_next (u := t.drawRow g) (g' := g.rowEnded) hcopy hn h.windows h.choice hrows h.job
    h.readPages
  refine ⟨hend, ?_⟩
  rw [hend]
  exact ⟨h.windows, h.choice, drawPixels_wf _ _ _ _ _ _ h.canonical, hrows, h.job, h.abandon, hprogress, h.writePages,
    h.readPages, (congrArg _ hrow).trans hstore⟩

/-! ### The whole run -/

theorem step_rowEnd {t : State} {g : InFlight} {rest : List Instr} (hpending : t.pending = .rowEnd :: rest)
    (hreset : t.resetN = true) (hg : t.engine = some g) :
    step t = .next (({ t with pending := rest } : State).endRow g).transmitAll := by
  unfold step
  rw [hpending]
  exact exec_rowEnd (s := { t with pending := rest }) hreset hg

theorem run_succ {t u : State} (h : step t = .next u) (n : Nat) :
    Sys2Proof.core.run (n + 1) t = Sys2Proof.core.run n u := by
  have hstep : Sys2Proof.core.step t = .next u := h
  simp only [Host.Core.run, hstep]

/-- From a COPY under way, as many row ends as rows are left work every row. -/
theorem CopyUnderWay.run (hcopy : SelfCopy f c) (d : Nat) {n : Nat} {t : State} {g : InFlight}
    (h : CopyUnderWay s f c n t g) (hd : n + (d + 1) = c.rect.h) (hreset : t.resetN = true) (hg : t.engine = some g)
    (hpending : t.pending = List.replicate (d + 1) .rowEnd) :
    ∃ u, Sys2Proof.core.run (d + 1) t = .next u ∧ RowsCopied s f c c.rect.h u.mem := by
  induction d generalizing n t g with
  | zero =>
    have hstep := step_rowEnd hpending hreset hg
    refine ⟨_, run_succ hstep 0, ?_⟩
    have hmem : (({ t with pending := [] } : State).endRow g).transmitAll.mem = (t.drawRow g).mem := by
      simp only [State.transmitAll_frame, State.endRow_mem]
      rfl
    rw [List.replicate_zero, hmem, ← hd]
    exact h.rows_drawRow hcopy (by omega)
  | succ d ih =>
    have hstep := step_rowEnd hpending hreset hg
    have hrest : CopyUnderWay s f c n { t with pending := List.replicate (d + 1) .rowEnd } g :=
      ⟨h.windows, h.choice, h.canonical, h.rows, h.job, h.abandon, h.progress, h.writePages, h.readPages, h.store⟩
    obtain ⟨hend, hnext⟩ := hrest.endRow hcopy (by omega)
    generalize hg' : (({ t with pending := List.replicate (d + 1) .rowEnd } : State).drawRow g).beginRow g.rowEnded = g'
      at hend hnext
    generalize hu : (({ t with pending := List.replicate (d + 1) .rowEnd } : State).endRow g) = u at hend hnext hstep
    have hchosen : CopyUnderWay s f c (n + 1) u.transmitAll g' :=
      ⟨by simpa using hnext.windows, by simpa using hnext.choice, by simpa [MemoryLaw] using hnext.canonical,
        by simpa using hnext.rows, hnext.job, hnext.abandon, hnext.progress, hnext.writePages, hnext.readPages, hnext.store⟩
    obtain ⟨v, hrun, hrows⟩ := ih hchosen (by omega) (by rw [State.transmitAll_frame u |>.2.1, hend]; exact hreset)
      (by simp [hend]) (by simp [hend, State.drawRow])
    exact ⟨v, (run_succ hstep (d + 1)).trans hrun, hrows⟩

end

/-- Settles O43: `CopyUnderWay.run` from the start, and what a COPY forms. -/
theorem copyAsIfReadFirst : Obligations.CopyAsIfReadFirst := by
  intro s f h src r sel sx sy c skip pages hreset hmem hengine hop hslot habandon hprogress hwrite hread hnodup hstore hh
    width height
  obtain ⟨d, hd⟩ : ∃ d, r.h = d + 1 := ⟨r.h - 1, by omega⟩
  obtain ⟨fields, hfields⟩ : ∃ fields : CopyFields, fields = ⟨h, r, src, sel, sx, sy, c, skip⟩ := ⟨_, rfl⟩
  have hcopy : SelfCopy f fields := by
    subst hfields
    exact ⟨hop, hslot, hread.trans hwrite.symm, hwrite ▸ hnodup⟩
  have hrows : RowsCopied s f fields 0 s.mem := ⟨nofun, fun _ _ => rfl⟩
  have hrow : f.row = fields.rowAt 0 := by rw [hcopy.row_eq rfl rfl rfl, hprogress]
  have hfirst := CopyUnderWay.sourceRow_next (u := s) (g' := f) (n := 0) hcopy
    (by rw [hfields]; show 0 < r.h; omega) rfl rfl hrows rfl rfl
  have hstart : CopyUnderWay s f fields 0 { s with pending := List.replicate r.h .rowEnd } f :=
    ⟨rfl, rfl, hmem, hrows, rfl, habandon, hprogress, rfl, rfl, by rw [hstore, hrow]; exact hfirst⟩
  rw [hd] at hstart ⊢
  obtain ⟨u, hrun, hcopied⟩ := CopyUnderWay.run hcopy d hstart (by rw [hfields, ← hd]; exact Nat.zero_add _) hreset hengine
    rfl
  have hplace : ∀ i j a, r.x + i < width → r.y + j < height →
      pixelAddr pages ((r.y + j) * width + (r.x + i)) = some a → CopyPlace s f fields j i a := fun i j a hx hy ha => by
    subst hfields
    exact ⟨hx, hy, hwrite ▸ ha⟩
  have hfound : ∀ j, j < r.h → ∃ k, k < fields.rect.h ∧ fields.rowAt k = j := fun j hj => by
    have hj' : j < fields.rect.h := by rw [hfields]; exact hj
    exact ⟨fields.rowAt j, CopyFields.rowAt_lt hj', CopyFields.rowAt_rowAt hj'⟩
  refine ⟨u, hrun, fun i j a hi hj hx hy ha => ?_, fun x hx => hcopied.kept x fun k hk i hi a hp => ?_⟩
  · obtain ⟨k, hk, rfl⟩ := hfound j (hd ▸ hj)
    have hformed := hcopied.formed k hk i (by rw [hfields]; exact hi) a (hplace i _ a hx hy ha)
    rw [hop] at hformed
    have hsource : fields.sourceAt s f (fields.rowAt k) i =
        if sx + i < width ∧ sy + fields.rowAt k < height then
          bufferPixel s.mem pages ((sy + fields.rowAt k) * width + (sx + i))
        else Config.absentPixel s.scanout.choice (sx + i) (sy + fields.rowAt k) := by
      rw [CopyFields.sourceAt, State.sourcePixel_eq, hread, hfields]
      simp only [← hslot]
      rfl
    rw [hsource] at hformed
    intro source
    rw [hformed]
    show (combinedSkip skip c source (readPixel s.mem a)).getD (readPixel s.mem a) = _
    unfold combinedSkip
    split <;> rfl
  · subst hfields
    exact hx i _ a hi (hd ▸ CopyFields.rowAt_lt hk) hp.column hp.row (hwrite ▸ hp.addr)

end Sys2Proof.Machine
end

section
/-! The head of a queue and the arbiter: what an examination does case by case, and which head is granted. -/

namespace Sys2Proof.Machine

open Sys2Proof

/-! ### Live handles and pending flips -/

theorem State.liveHandle_iff {s : State} {h : Handle} : s.liveHandle h = true ↔
    (s.window h.slot).gen = h.gen ∧ ((s.window h.slot).state = .hidden ∨ (s.window h.slot).state = .shown) := by
  rw [State.liveHandle, Bool.and_eq_true, State.current_eq_true_iff, Window.live, Bool.or_eq_true, decide_eq_true_eq,
    decide_eq_true_eq]
  constructor
  · rintro ⟨⟨-, hgen⟩, hlive⟩
    exact ⟨hgen, hlive⟩
  · rintro ⟨hgen, hlive⟩
    exact ⟨⟨by rcases hlive with hlive | hlive <;> simp [hlive], hgen⟩, hlive⟩

theorem State.waitsForFlip_iff {s : State} {op : JobOp} : s.waitsForFlip op = true ↔
    ∃ h, op.target = some h ∧ (s.window h.slot).gen = h.gen ∧ (s.window h.slot).state ≠ .free ∧
      (s.window h.slot).flipPending ≠ none := by
  unfold State.waitsForFlip
  cases op.target with
  | none => simp
  | some h =>
    simp only [Bool.and_eq_true, State.current_eq_true_iff, Option.isSome_iff_ne_none, Option.some.injEq, exists_eq_left']
    constructor
    · rintro ⟨⟨hfree, hgen⟩, hflip⟩
      exact ⟨hgen, hfree, hflip⟩
    · rintro ⟨hgen, hfree, hflip⟩
      exact ⟨⟨hfree, hgen⟩, hflip⟩

/-! ### Examination, case by case -/

/-- A head that does not rest is examined on its queue's entries (R80). -/
theorem State.examineHead_eq {s : State} {l : Link} (h : (s.queue l).head = .empty ∨ (s.queue l).head = .waitFlip) :
    s.examineHead l = s.examine l (s.queue l).entries := by
  unfold State.examineHead
  rcases h with h | h <;> rw [h]

/-- The next entry of a queue that a job has left is examined. -/
theorem State.examine_eq_examineHead {s : State} {l : Link} {rest : List Job} (hhead : (s.queue l).head = .empty)
    (hentries : (s.queue l).entries = rest) : s.examine l rest = s.examineHead l := by
  rw [State.examineHead_eq (.inl hhead), hentries]

section
variable {s : State} {l : Link} {j : Job} {rest : List Job}

theorem State.examine_waits (h : s.waitsForFlip j.op = true) :
    s.examine l (j :: rest) = s.setQueue l { s.queue l with head := .waitFlip } := by
  rw [State.examine, if_pos h]

theorem State.examine_engine (h : s.waitsForFlip j.op = false) (hop : j.op.forEngine = true) :
    s.examine l (j :: rest) = s.setQueue l { s.queue l with head := .eligible } := by
  rw [State.examine, if_neg (by simp [h])]
  cases hj : j.op with
  | present t => rw [hj] at hop; cases hop
  | mark => rw [hj] at hop; cases hop
  | _ => rfl

theorem State.examine_mark (h : s.waitsForFlip j.op = false) (hop : j.op = .mark) :
    s.examine l (j :: rest) = (s.completeHead l j .done []).examine l rest := by
  rw [State.examine, if_neg (by simp [h]), hop]

theorem State.examine_present (h : s.waitsForFlip j.op = false) {t : Handle} (hop : j.op = .present t) :
    s.examine l (j :: rest) = (s.takePresent l j t).examine l rest := by
  rw [State.examine, if_neg (by simp [h]), hop]

theorem State.completeHead_examine (hentries : (s.queue l).entries = j :: rest) (e : Ending) (result : List Pixel) :
    (s.completeHead l j e result).examine l rest = (s.completeHead l j e result).examineHead l := by
  refine State.examine_eq_examineHead ?_ ?_ <;> rw [State.completeHead_queue]
  rw [hentries, List.tail_cons]

/-- A PRESENT of a live window leaves its queue and arms the flip (R63, R83). -/
theorem State.takePresent_live {h : Handle} (hlive : s.liveHandle h = true) (hentries : (s.queue l).entries = j :: rest) :
    s.takePresent l j h = (s.setQueue l { s.queue l with entries := rest, head := .empty }).setWindow h.slot
      { s.window h.slot with flipPending := some ⟨j.tag, j.notify⟩ } := by
  rw [State.takePresent, if_pos hlive, hentries]
  rfl

theorem State.takePresent_gone {h : Handle} (hlive : s.liveHandle h = false) :
    s.takePresent l j h = s.completeHead l j (.failed .targetGone) [] := by
  rw [State.takePresent, if_neg (by simp [hlive])]

end

/-! ### Which head is granted -/

/-- How far behind the last served link a link stands in the search (R84). -/
def searchPlace (lastServed k : Link) : Nat := ((linkCode k).toNat + 3 - (linkCode lastServed).toNat) % 4

theorem linksAfter_pairwise (lastServed : Link) :
    (linksAfter lastServed).Pairwise fun k k' => searchPlace lastServed k < searchPlace lastServed k' := by
  cases lastServed <;> decide

/-- The search finds the first ELIGIBLE head after the last served link (R84). -/
theorem State.nextEligible_of_first {s : State} {l : Link} (heligible : (s.queue l).head = .eligible)
    (hfirst : ∀ k, searchPlace s.lastServed k < searchPlace s.lastServed l → (s.queue k).head ≠ .eligible) :
    s.nextEligible = some l := by
  have hin : l ∈ linksAfter s.lastServed := by cases s.lastServed <;> cases l <;> decide
  obtain ⟨before, after, hcut⟩ := List.append_of_mem hin
  have horder := linksAfter_pairwise s.lastServed
  rw [hcut] at horder
  have hbefore : ∀ k ∈ before, (s.queue k).head ≠ .eligible := fun k hk =>
    hfirst k ((List.pairwise_append.1 horder).2.2 k hk l List.mem_cons_self)
  rw [State.nextEligible, hcut, List.find?_append,
    List.find?_eq_none.2 fun k hk => by simpa using hbefore k hk, Option.none_or, List.find?_cons_of_pos]
  simpa using heligible

/-- A job that fails its start checks leaves fewer jobs queued. -/
theorem State.queuedJobs_failed {s : State} {l : Link} {j : Job} {rest : List Job}
    (hentries : (s.queue l).entries = j :: rest) (status : Status) :
    (((s.granted l).completeHead l j (.failed status) []).examineHead l).queuedJobs < s.queuedJobs := by
  refine State.queuedJobs_lt l ?_ fun k => ?_
  · refine (State.examineHead_length _ l l).trans_lt ?_
    rw [State.completeHead_queue, State.granted_queue, if_pos rfl, hentries]
    simp
  · refine (State.examineHead_length _ l k).trans ?_
    by_cases hk : k = l
    · subst hk
      rw [State.completeHead_queue, State.granted_queue, if_pos rfl]
      simp
    · rw [State.completeHead_queue_ne _ hk, State.granted_queue, if_neg hk]

/-- One grant: the job starts, or fails a start check and the search goes on (R84, R86). -/
theorem State.grants_succ {s : State} {l : Link} {j : Job} {rest : List Job} (hidle : s.engine = none)
    (hnext : s.nextEligible = some l) (hentries : (s.queue l).entries = j :: rest) (n : Nat) :
    (∀ status, (s.granted l).startFailure l j.op = some status →
      State.grants (n + 1) s = State.grants n (((s.granted l).completeHead l j (.failed status) []).examineHead l)) ∧
    ((s.granted l).startFailure l j.op = none →
      State.grants (n + 1) s = (s.granted l).setEngine (some ((s.granted l).startedJob l j))) := by
  rw [State.grants]
  split
  · rename_i l' _ hnext'
    obtain rfl : l' = l := Option.some.inj (hnext'.symm.trans hnext)
    split
    · rename_i hempty
      cases hempty.symm.trans hentries
    · rename_i j' rest' hentries'
      cases hentries'.symm.trans hentries
      dsimp only
      split
      · rename_i status hfails
        refine ⟨fun status' h => ?_, fun h => ?_⟩
        · obtain rfl : status' = status := Option.some.inj (h.symm.trans hfails)
          rfl
        · cases h.symm.trans hfails
      · rename_i hpasses
        refine ⟨fun status h => ?_, fun _ => rfl⟩
        cases h.symm.trans hpasses
  · rename_i hno
    exact absurd hnext (hno l hidle)

/-- Beyond the number of queued jobs more grants change nothing. -/
theorem State.grants_enough (n : Nat) {s : State} (h : s.queuedJobs ≤ n) : State.grants (n + 1) s = State.grants n s := by
  induction n generalizing s with
  | zero =>
    rw [State.grants, State.grants]
    split
    · rename_i l _ _
      have hempty : (s.queue l).entries = [] := by
        have hsum := s.queuedJobs_eq
        refine List.length_eq_zero_iff.1 ?_
        cases l <;> omega
      rw [hempty]
    · rfl
  | succ n ih =>
    rw [State.grants]
    conv_rhs => rw [State.grants]
    split
    · rename_i l hidle hnext
      split
      · rfl
      · rename_i j rest hentries
        dsimp only
        split
        · rename_i status _
          have hfewer := State.queuedJobs_failed hentries status
          exact ih (Nat.le_of_lt_succ (hfewer.trans_le h))
        · rfl
    · rfl

theorem State.grants_eq_arbitrate {s : State} {n : Nat} (h : s.queuedJobs ≤ n) : State.grants n s = s.arbitrate := by
  obtain ⟨k, rfl⟩ := Nat.exists_eq_add_of_le h
  induction k with
  | zero => rfl
  | succ k ih => rw [← Nat.add_assoc, State.grants_enough _ (Nat.le_add_right _ _), ih (Nat.le_add_right _ _)]

/-- What the arbiter makes of a state whose first ELIGIBLE head is link l's. -/
theorem State.arbitrate_eq {s : State} {l : Link} {j : Job} {rest : List Job} (hidle : s.engine = none)
    (hnext : s.nextEligible = some l) (hentries : (s.queue l).entries = j :: rest) :
    (∀ status, (s.granted l).startFailure l j.op = some status →
      s.arbitrate = (((s.granted l).completeHead l j (.failed status) []).examineHead l).arbitrate) ∧
    ((s.granted l).startFailure l j.op = none →
      s.arbitrate = (s.granted l).setEngine (some ((s.granted l).startedJob l j))) := by
  have hpositive : 0 < s.queuedJobs := by
    have hsum := s.queuedJobs_eq
    have hlength := congrArg List.length hentries
    rw [List.length_cons] at hlength
    cases l <;> omega
  obtain ⟨n, hn⟩ : ∃ n, s.queuedJobs = n + 1 := ⟨s.queuedJobs - 1, by omega⟩
  have hstep := State.grants_succ hidle hnext hentries n
  rw [State.arbitrate, hn]
  refine ⟨fun status h => ?_, hstep.2⟩
  rw [hstep.1 status h]
  have hfewer := State.queuedJobs_failed hentries status
  exact State.grants_eq_arbitrate (by omega)

/-! ### The start checks -/

/-- The handle names no live window (R86). -/
def State.Gone (s : State) (h : Handle) : Prop :=
  (s.window h.slot).gen ≠ h.gen ∨ ((s.window h.slot).state ≠ .hidden ∧ (s.window h.slot).state ≠ .shown)

/-- The window's record does not let the link read it (R86). -/
def State.Denies (s : State) (l : Link) (h : Handle) : Prop :=
  (s.window h.slot).owner ≠ some l ∧ (s.window h.slot).grants.get l = false

theorem State.gone_iff {s : State} {h : Handle} : s.Gone h ↔ s.liveHandle h = false := by
  rw [← Bool.not_eq_true, State.liveHandle_iff, not_and_or, not_or, State.Gone]

theorem State.denies_iff {s : State} {l : Link} {h : Handle} :
    s.Denies l h ↔ (s.window h.slot).readableBy l = false := by
  simp [State.Denies, Window.readableBy]

open Classical in
theorem State.startFailure_eq (s : State) (l : Link) (op : JobOp) :
    s.startFailure l op =
      if ∃ h, op.target = some h ∧ s.Gone h then some .targetGone
      else if ∃ h, op.source = some h ∧ s.Gone h then some .sourceGone
      else if ∃ h, op.source = some h ∧ s.Denies l h then some .denied
      else none := by
  simp only [State.startFailure, Option.any_eq_true, Bool.not_eq_true', State.gone_iff, State.denies_iff]

/-! ### The job at its start -/

/-- The job in flight at its start (R86, R94, R95): its buffers resolved from a state, its first row in the row store. -/
structure Started (s : State) (l : Link) (j : Job) (f : InFlight) : Prop where
  link : f.link = l
  job : f.job = j
  abandon : f.abandon = none
  progress : f.progress = 0
  result : f.result = []
  rowStore : f.rowStore = s.sourceRow f f.row
  writePages : ∀ h, j.op.target = some h → f.writePages = (s.window h.slot).drawingPages
  readPages : ∀ h, j.op.source = some h →
    f.readPages = if (s.window h.slot).owner = some l ∧ j.op.select = .drawing then (s.window h.slot).drawingPages
      else (s.window h.slot).frontPages

theorem Window.readBuffer_eq (w : Window) (l : Link) (select : BufferSelect) :
    w.readBuffer l select = if w.owner = some l ∧ select = .drawing then w.drawingPages else w.frontPages := by
  unfold Window.readBuffer
  by_cases howner : w.owner = some l
  · cases select <;> simp [howner]
  · simp [howner]

theorem State.startedJob_started (s : State) (l : Link) (j : Job) : Started s l j (s.startedJob l j) where
  link := rfl
  job := rfl
  abandon := rfl
  progress := rfl
  result := rfl
  rowStore := rfl
  writePages h ht := by
    show s.writeBufferOf j.op = _
    rw [State.writeBufferOf, ht]
  readPages h hs := by
    show s.readBufferOf l j.op = _
    rw [State.readBufferOf, hs]
    exact Window.readBuffer_eq _ _ _

/-- The source values of a row are read from surface memory, the windows, the free choice and the stamps' contents. -/
theorem State.sourceRow_congr {s t : State} (hmem : t.mem = s.mem) (hwindow : ∀ i, t.window i = s.window i)
    (hchoice : t.scanout.choice = s.scanout.choice) (hcontents : ∀ i, (t.stamp i).contents = (s.stamp i).contents)
    (f : InFlight) (j : Nat) : t.sourceRow f j = s.sourceRow f j := by
  have hpixel : ∀ src x y, t.sourcePixel f src x y = s.sourcePixel f src x y := fun src x y => by
    simp only [State.sourcePixel, hwindow, hmem, hchoice]
  unfold State.sourceRow
  cases f.job.op <;> simp only [hpixel, hcontents]

theorem Started.congr {s t : State} {l : Link} {j : Job} {f : InFlight} (h : Started t l j f) (hmem : t.mem = s.mem)
    (hwindow : ∀ i, t.window i = s.window i) (hchoice : t.scanout.choice = s.scanout.choice)
    (hcontents : ∀ i, (t.stamp i).contents = (s.stamp i).contents) : Started s l j f := by
  refine ⟨h.link, h.job, h.abandon, h.progress, h.result, ?_, fun g hg => ?_, fun g hg => ?_⟩
  · rw [← State.sourceRow_congr hmem hwindow hchoice hcontents, ← h.rowStore]
  · rw [h.writePages g hg, hwindow]
  · rw [h.readPages g hg, hwindow]

end Sys2Proof.Machine
end

section
/-! The renewal of a lease commutes with what a SUBMIT does to the queues; SUBMIT's results. -/

namespace Sys2Proof.Machine

open Sys2Proof

/-! ### Other controllers with the same link states -/

/-- The state with other controllers. -/
def State.onLinks (s : State) (ls : PerLink LinkCtl) : State := { s with links := ls }

/-- The controllers have the same link states. -/
def SameStates (ks ls : PerLink LinkCtl) : Prop := ∀ k, (ls.get k).state = (ks.get k).state

section
variable {s : State} {ls : PerLink LinkCtl} (h : SameStates s.links ls)
include h

theorem State.isUp_onLinks (k : Link) : (s.onLinks ls).isUp k = s.isUp k :=
  State.isUp_eq_of_state (h k)

theorem State.handReserved_onLinks (l : Link) (e : Event) :
    (s.onLinks ls).handReserved l e = (s.handReserved l e).onLinks ls := by
  unfold State.handReserved
  rw [State.isUp_onLinks h]
  split <;> rfl

theorem State.handSilent_onLinks (l : Link) : (s.onLinks ls).handSilent l = (s.handSilent l).onLinks ls := by
  unfold State.handSilent
  rw [State.isUp_onLinks h]
  split <;> rfl

theorem State.handUnreserved_onLinks (l : Link) (e : Event) :
    (s.onLinks ls).handUnreserved l e = (s.handUnreserved l e).onLinks ls := by
  unfold State.handUnreserved
  rw [State.isUp_onLinks h]
  split <;> rfl

theorem State.handOutcome_onLinks (l : Link) (j : Job) (e : Ending) (result : List Pixel) :
    (s.onLinks ls).handOutcome l j e result = (s.handOutcome l j e result).onLinks ls := by
  unfold State.handOutcome
  split
  · exact State.handReserved_onLinks h l _
  · split
    · exact State.handReserved_onLinks h l _
    · split
      · exact State.handReserved_onLinks h l _
      · exact State.handSilent_onLinks h l

theorem State.endRetirement_onLinks (i : StampSlot) :
    (s.onLinks ls).endRetirement i = (s.endRetirement i).onLinks ls := by
  unfold State.endRetirement
  dsimp only
  have hstamp : (s.onLinks ls).stamp i = s.stamp i := rfl
  rw [hstamp]
  cases (s.stamp i).owner with
  | none => rfl
  | some o =>
    exact State.handUnreserved_onLinks (s := (s.setStamp i (s.stamp i).freed).setOwned o _) h o _

theorem State.releaseReference_onLinks (g : StampHandle) :
    (s.onLinks ls).releaseReference g = (s.releaseReference g).onLinks ls := by
  unfold State.releaseReference
  dsimp only
  have hstamp : (s.onLinks ls).stamp g.slot = s.stamp g.slot := rfl
  rw [hstamp]
  split
  · exact State.endRetirement_onLinks (s := s.setStamp g.slot _) h g.slot
  · rfl

theorem State.releaseStampOf_onLinks (j : Job) : (s.onLinks ls).releaseStampOf j = (s.releaseStampOf j).onLinks ls := by
  unfold State.releaseStampOf
  split
  · exact State.releaseReference_onLinks h _
  · rfl

theorem State.completeHead_onLinks (l : Link) (j : Job) (e : Ending) (result : List Pixel) :
    (s.onLinks ls).completeHead l j e result = (s.completeHead l j e result).onLinks ls := by
  unfold State.completeHead
  dsimp only
  have hleft : ((s.onLinks ls).setQueue l
      { (s.onLinks ls).queue l with entries := ((s.onLinks ls).queue l).entries.tail, head := .empty }) =
      (s.setQueue l { s.queue l with entries := (s.queue l).entries.tail, head := .empty }).onLinks ls := rfl
  have hsame : SameStates (s.setQueue l { s.queue l with entries := (s.queue l).entries.tail, head := .empty }).links ls := h
  rw [hleft]
  generalize s.setQueue l _ = left at hsame ⊢
  rw [State.handOutcome_onLinks hsame]
  have htold : SameStates (left.handOutcome l j e result).links ls := by simpa using hsame
  generalize left.handOutcome l j e result = told at htold ⊢
  exact State.releaseStampOf_onLinks (s := told.setQueue l _) htold j

theorem State.takePresent_onLinks (l : Link) (j : Job) (g : Handle) :
    (s.onLinks ls).takePresent l j g = (s.takePresent l j g).onLinks ls := by
  have hlive : (s.onLinks ls).liveHandle g = s.liveHandle g := rfl
  unfold State.takePresent
  rw [hlive]
  split
  · rfl
  · exact State.completeHead_onLinks h l j _ _

omit h in
theorem State.examine_onLinks (l : Link) (js : List Job) {s : State} (h : SameStates s.links ls) :
    (s.onLinks ls).examine l js = (s.examine l js).onLinks ls := by
  induction js generalizing s with
  | nil => rfl
  | cons j js ih =>
    have hwaits : (s.onLinks ls).waitsForFlip j.op = s.waitsForFlip j.op := rfl
    unfold State.examine
    rw [hwaits]
    split
    · rfl
    · split
      · rw [State.completeHead_onLinks h]
        exact ih (by simpa using h)
      · rw [State.takePresent_onLinks h]
        exact ih (by simpa using h)
      · rfl

theorem State.examineHead_onLinks (l : Link) : (s.onLinks ls).examineHead l = (s.examineHead l).onLinks ls := by
  have hqueue : (s.onLinks ls).queue l = s.queue l := rfl
  unfold State.examineHead
  rw [hqueue]
  split
  · rfl
  · rfl
  · exact State.examine_onLinks l _ h
  · exact State.examine_onLinks l _ h

end

/-- Where the engine is busy, no head ELIGIBLE, or the granted queue without a job, a grant changes nothing. -/
theorem State.grants_stays {s : State} (h : ∀ l j rest, s.engine = none → s.nextEligible = some l →
    (s.queue l).entries ≠ j :: rest) (n : Nat) : State.grants n s = s := by
  cases n with
  | zero => rfl
  | succ n =>
    rw [State.grants]
    split
    · rename_i l hidle hnext
      split
      · rfl
      · rename_i j rest hentries
        exact absurd hentries (h l j rest hidle hnext)
    · rfl

theorem State.grants_onLinks {ls : PerLink LinkCtl} (n : Nat) {s : State} (h : SameStates s.links ls) :
    State.grants n (s.onLinks ls) = (State.grants n s).onLinks ls := by
  induction n generalizing s with
  | zero => rfl
  | succ n ih =>
    by_cases hgrants : ∃ l j rest, s.engine = none ∧ s.nextEligible = some l ∧ (s.queue l).entries = j :: rest
    · obtain ⟨l, j, rest, hidle, hnext, hentries⟩ := hgrants
      obtain ⟨hfails, hstarts⟩ := State.grants_succ hidle hnext hentries n
      obtain ⟨hfails', hstarts'⟩ := State.grants_succ (s := s.onLinks ls) hidle hnext hentries n
      cases hcheck : (s.granted l).startFailure l j.op with
      | none => rw [hstarts hcheck, hstarts' hcheck]; rfl
      | some status =>
        rw [hfails status hcheck, hfails' status hcheck]
        have hgranted : (s.onLinks ls).granted l = (s.granted l).onLinks ls := rfl
        have hsame : SameStates (s.granted l).links ls := h
        rw [hgranted, State.completeHead_onLinks hsame]
        have hcompleted : SameStates ((s.granted l).completeHead l j (.failed status) []).links ls := by simpa using hsame
        rw [State.examineHead_onLinks hcompleted]
        exact ih (by simpa using hcompleted)
    · have hstays : ∀ l j rest, s.engine = none → s.nextEligible = some l → (s.queue l).entries ≠ j :: rest :=
        fun l j rest hidle hnext hentries => hgrants ⟨l, j, rest, hidle, hnext, hentries⟩
      rw [State.grants_stays hstays, State.grants_stays (s := s.onLinks ls) hstays]

theorem State.schedule_onLinks {s : State} {ls : PerLink LinkCtl} (h : SameStates s.links ls) (l : Link) :
    (s.onLinks ls).schedule l = (s.schedule l).onLinks ls := by
  unfold State.schedule State.arbitrate
  rw [State.examineHead_onLinks h]
  exact State.grants_onLinks _ (by simpa using h)

theorem sameStates_renewed (s : State) (l : Link) : SameStates s.links (s.links.set l (s.link l).renewed) := fun k => by
  rw [PerLink.get_set]
  split
  · rename_i hk
    rw [hk]
    rfl
  · rfl

/-- Scheduling after the renewal of a lease renews the lease of the scheduled state. -/
theorem State.schedule_renewedLease (s : State) (l k : Link) :
    (s.renewedLease l).schedule k = (s.schedule k).renewedLease l := by
  have hlinks : (s.schedule k).links = s.links := by simp
  have honlinks := State.schedule_onLinks (sameStates_renewed s l) k
  refine honlinks.trans ?_
  simp only [State.renewedLease, State.setLink, State.link, hlinks, State.onLinks]

/-! ### SUBMIT -/

theorem State.admitJob_renewedLease (s : State) (l k : Link) (j : Job) :
    (s.renewedLease l).admitJob k j = (s.admitJob k j).renewedLease l := by
  unfold State.admitJob State.referStamp
  cases j.op.stamp <;> rfl

theorem submitReply_accepts {l : Link} {p : List Byte} {j : Job} {s : State} (hp : jobRequest p = some j)
    (hpasses : s.submitRefusal l j.op = none) :
    submitReply l p (s.renewedLease l) = ⟨((s.admitJob l j).schedule l).renewedLease l, .accepted, .none⟩ := by
  have hpasses' : (s.renewedLease l).submitRefusal l j.op = none :=
    (s.renewedLease_submitRefusal l l j.op).trans hpasses
  rw [← State.schedule_renewedLease, ← State.admitJob_renewedLease]
  simp only [submitReply, hp, hpasses']
  rfl

/-- Outside the sequence the cache keeps at most 4 entries, with the new one the last (R158). -/
theorem cached_eq (cache : List (Byte × Response)) (e : Byte × Response) :
    cached cache e = (cache ++ [e]).drop (cache.length - 3) := by
  rw [cached, List.length_append, List.length_singleton, Config.backlogLimit]
  rfl

/-- An executed command's answer on a link whose controller was that of s with the lease renewed. -/
theorem Reply.deliver_renewed {s u : State} {l : Link} {seq code : Byte} {status : Status} {result : Result}
    (hlink : u.link l = s.link l) (hseq : seq = (s.link l).expected) :
    (⟨u.renewedLease l, status, result⟩ : Reply).deliver l seq code = u.setLink l
      { s.link l with timer := (s.link l).timer.map fun _ => 0, expected := seq + 1,
                      backlog := (s.link l).backlog ++ [executedResponse seq code status result],
                      cache := ((s.link l).cache ++ [(seq, executedResponse seq code status result)]).drop
                        ((s.link l).cache.length - 3) } := by
  rw [Reply.deliver, State.renewedLease_link_self, State.renewedLease, State.setLink_setLink, hlink, hseq, ← cached_eq]
  rfl

theorem exec_submit_accepted {l : Link} {seq : Byte} {p : List Byte} {s : State} {j : Job} (hready : s.ready l seq)
    (hp : jobRequest p = some j) (hpasses : s.submitRefusal l j.op = none) :
    exec (.submit l seq p) s = .next
      ((⟨((s.admitJob l j).schedule l).renewedLease l, .accepted, .none⟩ : Reply).deliver l seq 0x20#8).transmitAll := by
  rw [exec_submit, State.commandAll, if_pos hready.1, State.takeFrame_of_ready hready, submitReply_accepts hp hpasses]

/-- A SUBMIT that passes every test answers ACCEPTED on the state with the job admitted and scheduled. -/
theorem exec_submit_answers {l : Link} {seq : Byte} {p : List Byte} {s u : State} {j : Job} (hready : s.ready l seq)
    (hsettled : TransmitterLaw s) (hp : jobRequest p = some j) (hpasses : s.submitRefusal l j.op = none)
    (hu : (s.admitJob l j).schedule l = u) (hevents : ∀ k, k ≠ l → u.eventsOf k = s.eventsOf k) :
    ∃ t, exec (.submit l seq p) s = .next t ∧ Answers u t l seq 0x20#8 .accepted .none := by
  have hlink : ∀ k, u.link k = s.link k := fun k => by
    rw [← hu]
    simp [State.link, s.admitJob_links l j]
  exact ⟨_, exec_submit l seq p s, State.commandAll_answers hready (by rw [submitReply_accepts hp hpasses, hu])
    (by rw [hlink]) fun k hk => (State.settled_congr (hlink k) (hevents k hk)).2 (hsettled k)⟩

end Sys2Proof.Machine
end

section
/-! An admitted job at its link's head: it waits, is taken at once, or becomes ELIGIBLE. -/

namespace Sys2Proof.Machine

open Sys2Proof

/-! ### The state with the job admitted -/

/-- The state with a job's reservation taken and the job at its queue's tail (R77). -/
def State.joinQueue (s : State) (l : Link) (j : Job) : State :=
  (s.setQueue l { s.queue l with entries := (s.queue l).entries ++ [j],
                                 staging := (s.queue l).staging + j.op.staging }).takeReservation l

theorem State.admitJob_of_no_stamp {s : State} {l : Link} {j : Job} (hstamp : j.op.stamp = none) :
    s.admitJob l j = s.joinQueue l j := by
  unfold State.admitJob State.referStamp
  rw [hstamp]
  rfl

theorem State.admitJob_queue (s : State) (l : Link) (j : Job) (k : Link) :
    (s.admitJob l j).queue k = if k = l then
      { s.queue l with entries := (s.queue l).entries ++ [j], staging := (s.queue l).staging + j.op.staging }
      else s.queue k := by
  unfold State.admitJob State.referStamp
  split <;> simp [State.queue_setQueue]

theorem State.admitJob_engine (s : State) (l : Link) (j : Job) : (s.admitJob l j).engine = s.engine := by
  unfold State.admitJob State.referStamp
  split <;> simp

theorem State.admitJob_window (s : State) (l : Link) (j : Job) (i : Slot) : (s.admitJob l j).window i = s.window i := by
  rw [State.window, State.window, s.admitJob_windows l j]

theorem State.waitsForFlip_congr {s t : State} (h : ∀ i, t.window i = s.window i) (op : JobOp) :
    t.waitsForFlip op = s.waitsForFlip op := by
  rw [Bool.eq_iff_iff, State.waitsForFlip_iff, State.waitsForFlip_iff]
  simp only [h]

/-- No pending flip of its target holds the job. -/
theorem State.waitsForFlip_eq_false {s : State} {op : JobOp}
    (h : ∀ g, op.target = some g → (s.window g.slot).flipPending = none) : s.waitsForFlip op = false := by
  rw [← Bool.not_eq_true, State.waitsForFlip_iff]
  rintro ⟨g, htarget, -, -, hflip⟩
  exact hflip (h g htarget)

/-! ### An admitted job that leaves the head as it is -/

/-- A head that stays where it is stays when a job joins the tail. -/
theorem State.admitJob_headRests {s : State} {l : Link} {j : Job}
    (h : (s.queue l).head = .inFlight ∨ (s.queue l).head = .eligible ∨
      ((s.queue l).head = .waitFlip ∧ ∃ first rest h, (s.queue l).entries = first :: rest ∧ first.op.target = some h ∧
        s.current h = true ∧ (s.window h.slot).flipPending ≠ none)) : (s.admitJob l j).headRests l := by
  have hqueue := s.admitJob_queue l j l
  rw [if_pos rfl] at hqueue
  rw [State.headRests, hqueue]
  rcases h with h | h | ⟨h, first, rest, g, hentries, htarget, hcurrent, hflip⟩
  · exact .inr (.inl h)
  · exact .inl h
  · refine .inr (.inr (.inr ⟨h, first, rest ++ [j], by rw [hentries]; rfl, ?_⟩))
    rw [State.waitsForFlip_congr (s.admitJob_window l j), State.waitsForFlip_iff]
    have hnamed := State.current_eq_true_iff.1 hcurrent
    exact ⟨g, htarget, hnamed.2, hnamed.1, hflip⟩

theorem State.schedule_of_rests {s : State} {l : Link} (hrests : s.headRests l) (hbusy : s.engine ≠ none) :
    s.schedule l = s := by
  rw [State.schedule, State.examineHead_of_rests hrests, State.arbitrate_of_busy hbusy]

/-- A job admitted to an empty queue is its only entry. -/
theorem State.admitJob_queue_of_empty {s : State} {l : Link} (hentries : (s.queue l).entries = []) (j : Job) :
    (s.admitJob l j).queue l =
      { entries := [j], head := (s.queue l).head, staging := (s.queue l).staging + j.op.staging } := by
  rw [State.admitJob_queue, if_pos rfl, hentries]
  rfl

/-- The only entry of a queue is examined at once. -/
theorem State.admitJob_examineHead {s : State} {l : Link} (hentries : (s.queue l).entries = [])
    (hhead : (s.queue l).head = .empty) (j : Job) : (s.admitJob l j).examineHead l = (s.admitJob l j).examine l [j] := by
  have hqueue := State.admitJob_queue_of_empty hentries j
  rw [State.examineHead_eq (.inl (by rw [hqueue, hhead])), hqueue]

/-- An engine job admitted to an empty queue becomes its ELIGIBLE head (R80). -/
theorem State.admitJob_eligible {s : State} {l : Link} (hentries : (s.queue l).entries = [])
    (hhead : (s.queue l).head = .empty) {j : Job} (hengine : j.op.forEngine = true)
    (hflip : ∀ h, j.op.target = some h → (s.window h.slot).flipPending = none) :
    (s.admitJob l j).examineHead l =
      (s.admitJob l j).setQueue l { (s.admitJob l j).queue l with head := .eligible } := by
  rw [State.admitJob_examineHead hentries hhead, State.examine_engine ?_ hengine]
  rw [State.waitsForFlip_congr (s.admitJob_window l j)]
  exact State.waitsForFlip_eq_false hflip

theorem State.admitJob_eventsOf_ne (s : State) {l k : Link} (hk : k ≠ l) (j : Job) :
    (s.admitJob l j).eventsOf k = s.eventsOf k := by
  unfold State.admitJob State.referStamp
  split <;> simp [State.takeReservation, hk]

/-- Settles O37: the exact answer, and the cases in which the scheduling after the admission changes at most the head. -/
theorem submitAdmits : Obligations.SubmitAdmits := by
  unfold Obligations.SubmitAdmits
  intro l seq p s j hready hp hpasses queued admitted r
  have hadmitted : s.admitJob l j = admitted := by
    unfold State.admitJob State.referStamp
    cases hstamp : j.op.stamp <;> simp only [admitted, hstamp] <;> rfl
  have hlink : ((s.admitJob l j).schedule l).link l = s.link l := by
    simp [State.link, s.admitJob_links l j]
  refine ⟨?_, fun hsettled hbusy => ⟨fun hhead => ?_, fun hhead hentries hengine hflip => ?_⟩⟩
  · rw [exec_submit_accepted hready hp hpasses, Reply.deliver_renewed hlink hready.2.2.2.2, hadmitted]
    rfl
  · rw [← hadmitted]
    have hbusy' : (s.admitJob l j).engine ≠ none := by rwa [State.admitJob_engine]
    exact exec_submit_answers hready hsettled hp hpasses
      (State.schedule_of_rests (State.admitJob_headRests hhead) hbusy') fun k hk => s.admitJob_eventsOf_ne hk j
  · rw [← hadmitted]
    refine exec_submit_answers hready hsettled hp hpasses ?_ fun k hk => s.admitJob_eventsOf_ne hk j
    rw [State.schedule, State.admitJob_eligible hentries hhead hengine hflip, State.arbitrate_of_busy]
    rwa [State.setQueue_engine, State.admitJob_engine]

end Sys2Proof.Machine
end

section
/-! A MARK or a PRESENT admitted to an empty queue is taken at once. -/

namespace Sys2Proof.Machine

open Sys2Proof

/-- A queue without entries is examined: nothing changes where its head is EMPTY already. -/
theorem State.examine_nil_of_empty {s : State} {l : Link} (h : (s.queue l).head = .empty) : s.examine l [] = s := by
  rw [State.examine]
  refine Eq.trans (congrArg (s.setQueue l) ?_) (s.setQueue_queue l)
  rw [← h]

/-- Under the law of the job queues the arbiter has nothing to grant. -/
theorem JobLaw.arbitrate_eq {s t : State} (h : JobLaw s) (hengine : t.engine = s.engine)
    (hqueue : ∀ k, t.queue k = s.queue k) : t.arbitrate = t := by
  by_cases hidle : s.engine = none
  · refine State.arbitrate_of_none fun k => ?_
    rw [hqueue]
    exact h.engineBusy hidle k
  · exact State.arbitrate_of_busy (hengine ▸ hidle)

/-! ### The queue that a job joins and leaves in one rule -/

section
variable {s : State} {l : Link} {j : Job}

theorem State.joinQueue_queue (hentries : (s.queue l).entries = []) (hhead : (s.queue l).head = .empty)
    (hstaging : j.op.staging = 0) :
    (s.joinQueue l j).queue l = { entries := [j], head := .empty, staging := (s.queue l).staging } := by
  rw [State.joinQueue, State.takeReservation, State.queue_setEvents, State.queue_setQueue_self]
  dsimp only
  rw [hentries, hhead, hstaging]
  rfl

/-- A job without staging that has joined an empty queue and left it has left a reservation. -/
theorem State.joinQueue_left (hentries : (s.queue l).entries = []) (hhead : (s.queue l).head = .empty)
    (hstaging : j.op.staging = 0) :
    (s.joinQueue l j).setQueue l { (s.joinQueue l j).queue l with entries := [], head := .empty } =
      s.takeReservation l := by
  have hself : s.queue l = { entries := [], head := .empty, staging := (s.queue l).staging } := by
    rw [← hentries, ← hhead]
  rw [State.joinQueue_queue hentries hhead hstaging, State.joinQueue, State.takeReservation, ← State.setQueue_setEvents,
    State.setQueue_setQueue]
  have hsame := s.setQueue_queue l
  rw [hself] at hsame
  exact congrArg (fun t : State => t.setEvents l _) hsame

end

/-! ### MARK -/

/-- A queue without a lost count after a job that joined it has completed with DONE (R90, R143). -/
def EventQueue.afterMark (q : EventQueue) (j : Job) : EventQueue :=
  if j.notify then
    { q with records := q.records ++ [⟨q.nextSeq, .jobDone j.tag .mark, false⟩], nextSeq := q.nextSeq + 1 }
  else q

theorem EventQueue.reserve_silentRelease {q : EventQueue} (hlost : q.lost = 0) : q.reserve.silentRelease = q :=
  EventQueue.reportLost_of_none hlost

theorem EventQueue.reserve_queueReserved {q : EventQueue} (hlost : q.lost = 0) (e : Event) :
    q.reserve.queueReserved e =
      { q with records := q.records ++ [⟨q.nextSeq, e, false⟩], nextSeq := q.nextSeq + 1 } := by
  rw [EventQueue.queueReserved, if_neg (show q.reserve.reserved ≠ 0 from Nat.succ_ne_zero _)]
  exact EventQueue.reportLost_of_none hlost

theorem State.handOutcome_mark {s : State} {l : Link} {j : Job} (hup : s.isUp l = true) (hop : j.op = .mark)
    (hlost : (s.eventsOf l).lost = 0) :
    (s.takeReservation l).handOutcome l j .done [] = s.setEvents l ((s.eventsOf l).afterMark j) := by
  have hup' : (s.takeReservation l).isUp l = true := hup
  unfold State.handOutcome
  rw [hop, EventQueue.afterMark]
  dsimp only
  cases j.notify
  · rw [if_neg (by decide), if_neg (by decide), State.handSilent, if_pos hup', State.takeReservation,
      State.eventsOf_setEvents_self, State.setEvents_setEvents, EventQueue.reserve_silentRelease hlost]
  · rw [if_pos rfl, if_pos rfl, State.handReserved, if_pos hup', State.takeReservation, State.eventsOf_setEvents_self,
      State.setEvents_setEvents, EventQueue.reserve_queueReserved hlost]
    rfl

/-- A MARK alone in its queue completes: what is left is the outcome's events. -/
theorem State.completeHead_mark {s : State} {l : Link} {j : Job} (hup : s.isUp l = true) (hop : j.op = .mark)
    (hlost : (s.eventsOf l).lost = 0) (hentries : (s.queue l).entries = []) (hhead : (s.queue l).head = .empty) :
    (s.joinQueue l j).completeHead l j .done [] = s.setEvents l ((s.eventsOf l).afterMark j) := by
  have hstaging : j.op.staging = 0 := by rw [hop]; rfl
  have hreleased : j.stagingReleased .done = 0 := by simp [Job.stagingReleased, hop, JobOp.staging]
  have hleft := State.joinQueue_left hentries hhead hstaging
  unfold State.completeHead
  rw [State.joinQueue_queue hentries hhead hstaging] at hleft ⊢
  dsimp only [List.tail_cons] at hleft ⊢
  rw [hleft, State.handOutcome_mark hup hop hlost, hreleased]
  generalize s.setEvents l ((s.eventsOf l).afterMark j) = told
  unfold State.releaseStampOf
  rw [hop]
  exact told.setQueue_queue l

/-! ### PRESENT -/

theorem State.takePresent_joined {s : State} {l : Link} {j : Job} {h : Handle} (hop : j.op = .present h)
    (hlive : s.liveHandle h = true) (hentries : (s.queue l).entries = []) (hhead : (s.queue l).head = .empty) :
    (s.joinQueue l j).takePresent l j h =
      (s.setWindow h.slot { s.window h.slot with flipPending := some ⟨j.tag, j.notify⟩ }).setEvents l
        { s.eventsOf l with reserved := (s.eventsOf l).reserved + 1 } := by
  have hstaging : j.op.staging = 0 := by rw [hop]; rfl
  have hqueue := State.joinQueue_queue hentries hhead hstaging
  have hlive' : (s.joinQueue l j).liveHandle h = true := hlive
  rw [State.takePresent_live (rest := []) hlive' (by rw [hqueue]), State.joinQueue_left hentries hhead hstaging]
  rfl

/-! ### O39 -/

/-- A job that passes the tests of R76 as a PRESENT names a live window. -/
theorem State.liveHandle_of_passes {s : State} {l : Link} {op : JobOp} (hpasses : s.submitRefusal l op = none)
    {h : Handle} (htarget : op.target = some h) : s.liveHandle h = true := by
  obtain ⟨hwindow, -, -⟩ := State.submitRefusal_eq_none hpasses
  unfold State.windowRefusal at hwindow
  rw [htarget] at hwindow
  split_ifs at hwindow with hstale _ hclosing
  simp only [Option.any_some, Bool.not_eq_true', Bool.not_eq_false, decide_eq_true_eq] at hstale hclosing
  have hcurrent := State.current_eq_true_iff.1 hstale
  refine State.liveHandle_iff.2 ⟨hcurrent.2, ?_⟩
  have hfree := hcurrent.1
  cases hstate : (s.window h.slot).state with
  | free => exact absurd hstate hfree
  | hidden => exact .inl rfl
  | shown => exact .inr rfl
  | closing => exact absurd hstate hclosing

/-- What a MARK or a PRESENT leaves, alone in its queue, is not scheduled further. -/
theorem JobLaw.schedule_joined {s u : State} {l : Link} {j : Job} (h : JobLaw s) (hentries : (s.queue l).entries = [])
    (hstamp : j.op.stamp = none) (hexamined : (s.joinQueue l j).examine l [j] = u.examine l [])
    (hqueue : ∀ k, u.queue k = s.queue k) (hengine : u.engine = s.engine) : (s.admitJob l j).schedule l = u := by
  have hhead := (h.emptyHead l).2 hentries
  rw [State.schedule, State.admitJob_examineHead hentries hhead, State.admitJob_of_no_stamp hstamp, hexamined,
    State.examine_nil_of_empty (by rw [hqueue, hhead]), h.arbitrate_eq hengine hqueue]

/-- Settles O39: MARK and PRESENT alone in their queue, then the examination of a head case by case. -/
theorem markAndPresentTakenAtOnce : Obligations.MarkAndPresentTakenAtOnce := by
  unfold Obligations.MarkAndPresentTakenAtOnce
  refine ⟨fun l seq p s j hready hsettled hjobs hp hpasses hentries hlost => ?_, fun s l hhead => ?_,
    fun s l hhead => ⟨fun hentries => ?_, fun j rest hentries => ?_⟩⟩
  · have hhead := (hjobs.emptyHead l).2 hentries
    have hup : s.isUp l = true := State.isUp_iff.2 hready.2.1
    refine ⟨fun hop => ?_, fun h hop hflip => ?_⟩
    · have hu : s.setEvents l ((s.eventsOf l).afterMark j) = if j.notify then
          s.setEvents l { s.eventsOf l with
            records := (s.eventsOf l).records ++ [⟨(s.eventsOf l).nextSeq, .jobDone j.tag .mark, false⟩],
            nextSeq := (s.eventsOf l).nextSeq + 1 } else s := by
        rw [EventQueue.afterMark]
        split
        · rfl
        · exact s.setEvents_eventsOf l
      rw [← hu]
      refine exec_submit_answers hready hsettled hp hpasses
        (hjobs.schedule_joined hentries (by rw [hop]; rfl) ?_ (fun _ => rfl) rfl) fun k hk => by
          rw [State.eventsOf_setEvents, if_neg hk]
      rw [State.examine_mark (State.waitsForFlip_eq_false (by simp [hop, JobOp.target])) hop,
        State.completeHead_mark hup hop hlost hentries hhead]
    · have htarget : j.op.target = some h := by rw [hop]; rfl
      have hlive := State.liveHandle_of_passes hpasses htarget
      refine exec_submit_answers hready hsettled hp hpasses
        (hjobs.schedule_joined hentries (by rw [hop]; rfl) ?_ (fun _ => rfl) rfl) fun k hk => by
          rw [State.eventsOf_setEvents, if_neg hk]
          rfl
      have hwaits : (s.joinQueue l j).waitsForFlip j.op = false := State.waitsForFlip_eq_false fun g hg => by
        obtain rfl : h = g := Option.some.inj (htarget.symm.trans hg)
        exact hflip
      rw [State.examine_present hwaits hop, State.takePresent_joined hop hlive hentries hhead]
  · refine State.examineHead_of_rests ?_
    rcases hhead with hhead | hhead
    · exact .inl hhead
    · exact .inr (.inl hhead)
  · rw [State.examineHead_eq hhead, hentries, State.examine]
  · intro live waits
    have hwaits : waits ↔ s.waitsForFlip j.op = true := State.waitsForFlip_iff.symm
    have hlive : ∀ h, live h ↔ s.liveHandle h = true := fun h => State.liveHandle_iff.symm
    rw [State.examineHead_eq hhead, hentries]
    refine ⟨fun hw => State.examine_waits (hwaits.1 hw), fun hw => ?_⟩
    have hfree : s.waitsForFlip j.op = false := by rwa [hwaits, Bool.not_eq_true] at hw
    refine ⟨State.examine_engine hfree, fun hop => ?_, fun h hop => ⟨fun hl => ?_, fun hl => ?_⟩⟩
    · rw [State.examine_mark hfree hop, State.completeHead_examine hentries]
    · rw [State.examine_present hfree hop, State.takePresent_live ((hlive h).1 hl) hentries]
      refine State.examine_eq_examineHead ?_ ?_ <;> rw [State.queue_setWindow, State.queue_setQueue_self]
    · rw [hlive, Bool.not_eq_true] at hl
      rw [State.examine_present hfree hop, State.takePresent_gone hl, State.completeHead_examine hentries]

end Sys2Proof.Machine
end

section
/-! The start of an admitted engine job. -/

namespace Sys2Proof.Machine

open Sys2Proof

/-! ### The queue of the admitted job -/

/-- An admitted job's queue can be written before the reservation and the reference are taken. -/
theorem State.admitJob_setQueue (s : State) (l : Link) (j : Job) (q : JobQueue) :
    (s.admitJob l j).setQueue l q = ((s.setQueue l q).takeReservation l).referStamp j.op := by
  unfold State.admitJob State.referStamp
  cases j.op.stamp with
  | none => simp [State.takeReservation, ← State.setQueue_setEvents]
  | some h => simp [State.takeReservation, State.takeReference, ← State.setQueue_setEvents, ← State.setQueue_setStamp]

/-- The state in which the job in flight of a link is alone in its queue, as the arbiter leaves it. -/
def State.startedAlone (s : State) (l : Link) (j : Job) (f : InFlight) : State :=
  ((({ s with lastServed := l, engine := some f }).setQueue l
    { entries := [j], head := .inFlight, staging := (s.queue l).staging + j.op.staging }).takeReservation l).referStamp j.op

/-- The head of an engine job that is alone in its queue and waits for the engine. -/
def State.eligibleAlone (s : State) (l : Link) (j : Job) : State :=
  (s.admitJob l j).setQueue l { entries := [j], head := .eligible, staging := (s.queue l).staging + j.op.staging }

theorem State.eligibleAlone_granted (s : State) (l : Link) (j : Job) (f : InFlight) :
    ((s.eligibleAlone l j).granted l).setEngine (some f) = s.startedAlone l j f := by
  unfold State.granted
  rw [State.eligibleAlone, State.queue_setQueue_self]
  show ((({ s.admitJob l j with lastServed := l }).setQueue l _).setQueue l _).setEngine _ = _
  rw [State.setQueue_setQueue]
  have hset := s.admitJob_setQueue l j
    { entries := [j], head := .inFlight, staging := (s.queue l).staging + j.op.staging }
  refine (congrArg (fun t : State => { t with lastServed := l, engine := some f }) hset).trans ?_
  unfold State.startedAlone State.referStamp
  cases j.op.stamp <;> rfl

/-! ### The windows that an admitted job names -/

/-- Every window that an admitted job names is live, and its link may read the source. -/
theorem State.startFailure_of_passes {s : State} {l : Link} {op : JobOp} (hpasses : s.submitRefusal l op = none) :
    s.startFailure l op = none := by
  obtain ⟨hwindow, -, -⟩ := State.submitRefusal_eq_none hpasses
  have hlive : ∀ h, s.current h = true → (s.window h.slot).state ≠ .closing → ¬ s.Gone h := fun h hcurrent hclosing => by
    rw [State.gone_iff, Bool.not_eq_false, State.liveHandle_iff]
    obtain ⟨hfree, hgen⟩ := State.current_eq_true_iff.1 hcurrent
    refine ⟨hgen, ?_⟩
    cases hstate : (s.window h.slot).state with
    | free => exact absurd hstate hfree
    | hidden => exact .inl rfl
    | shown => exact .inr rfl
    | closing => exact absurd hstate hclosing
  unfold State.windowRefusal at hwindow
  split_ifs at hwindow with htcurrent hscurrent htclosing hsclosing _ hdenied
  simp only [Option.any_eq_true, Bool.not_eq_true', decide_eq_true_eq, not_exists, not_and, Bool.not_eq_false]
    at htcurrent hscurrent htclosing hsclosing hdenied
  rw [State.startFailure_eq, if_neg, if_neg, if_neg]
  · rintro ⟨h, hs, hdenies⟩
    rw [State.denies_iff, hdenied h hs] at hdenies
    cases hdenies
  · rintro ⟨h, hs, hgone⟩
    exact hlive h (hscurrent h hs) (hsclosing h hs) hgone
  · rintro ⟨h, ht, hgone⟩
    exact hlive h (htcurrent h ht) (htclosing h ht) hgone

theorem State.startFailure_congr {s t : State} (h : ∀ i, t.window i = s.window i) (l : Link) (op : JobOp) :
    t.startFailure l op = s.startFailure l op := by
  have hwindow : t.window = s.window := funext h
  unfold State.startFailure State.liveHandle State.current
  rw [hwindow]

/-! ### The engine job that starts at once -/

section
variable {s : State} {l : Link} {j : Job}

theorem State.eligibleAlone_window (i : Slot) : (s.eligibleAlone l j).window i = s.window i := s.admitJob_window l j i

theorem State.eligibleAlone_head_ne (hjobs : JobLaw s) (hidle : s.engine = none) {k : Link} (hk : k ≠ l) :
    ((s.eligibleAlone l j).queue k).head ≠ .eligible := by
  rw [State.eligibleAlone, State.queue_setQueue, if_neg hk, State.admitJob_queue, if_neg hk]
  exact hjobs.engineBusy hidle k

/-- Alone in its queue and first in the search, the job is granted the idle engine. -/
theorem State.eligibleAlone_arbitrate (hjobs : JobLaw s) (hidle : s.engine = none)
    (hpasses : s.submitRefusal l j.op = none) :
    (s.eligibleAlone l j).arbitrate =
      s.startedAlone l j (((s.eligibleAlone l j).granted l).startedJob l j) := by
  have hqueue : (s.eligibleAlone l j).queue l =
      { entries := [j], head := .eligible, staging := (s.queue l).staging + j.op.staging } :=
    State.queue_setQueue_self _ _ _
  have hnext : (s.eligibleAlone l j).nextEligible = some l :=
    State.nextEligible_of_first (by rw [hqueue]) fun k hk =>
      State.eligibleAlone_head_ne hjobs hidle fun h => absurd hk (h ▸ lt_irrefl _)
  have hidle' : (s.eligibleAlone l j).engine = none := (s.admitJob_engine l j).trans hidle
  have hstart : ((s.eligibleAlone l j).granted l).startFailure l j.op = none :=
    (State.startFailure_congr (fun i => State.eligibleAlone_window i) l j.op).trans (State.startFailure_of_passes hpasses)
  rw [(State.arbitrate_eq (rest := []) hidle' hnext (by rw [hqueue])).2 hstart, State.eligibleAlone_granted]

theorem State.referStamp_contents (t : State) (op : JobOp) (i : StampSlot) :
    ((t.referStamp op).stamp i).contents = (t.stamp i).contents := by
  unfold State.referStamp
  split
  · rw [State.takeReference, State.stamp_setStamp]
    split
    · rename_i hi
      rw [hi]
    · rfl
  · rfl

/-- The job started alone has its buffers and its first row from the state before the admission. -/
theorem State.eligibleAlone_started : Started s l j (((s.eligibleAlone l j).granted l).startedJob l j) := by
  refine (State.startedJob_started _ l j).congr (s.admitJob_mem l j) (fun i => State.eligibleAlone_window i) ?_ fun i => ?_
  · show (s.admitJob l j).scanout.choice = _
    unfold State.admitJob State.referStamp
    split <;> rfl
  · show ((s.admitJob l j).stamp i).contents = _
    exact State.referStamp_contents _ _ i

theorem State.admitJob_schedule_eligible (hjobs : JobLaw s) (hentries : (s.queue l).entries = [])
    (hengine : j.op.forEngine = true) (hflip : ∀ h, j.op.target = some h → (s.window h.slot).flipPending = none) :
    (s.admitJob l j).schedule l = (s.eligibleAlone l j).arbitrate := by
  rw [State.schedule, State.admitJob_eligible hentries ((hjobs.emptyHead l).2 hentries) hengine hflip,
    State.admitJob_queue_of_empty hentries]
  rfl

/-- An engine job whose target has a flip pending waits for it, alone in its queue. -/
theorem State.admitJob_schedule_waits (hjobs : JobLaw s) (hidle : s.engine = none) (hentries : (s.queue l).entries = [])
    (hwaits : s.waitsForFlip j.op = true) : (s.admitJob l j).schedule l =
      ((s.setQueue l { entries := [j], head := .waitFlip, staging := (s.queue l).staging + j.op.staging }).takeReservation
        l).referStamp j.op := by
  rw [← State.waitsForFlip_congr (s.admitJob_window l j)] at hwaits
  rw [State.schedule, State.admitJob_examineHead hentries ((hjobs.emptyHead l).2 hentries), State.examine_waits hwaits,
    State.admitJob_queue_of_empty hentries, State.arbitrate_of_none, State.admitJob_setQueue]
  intro k
  rw [State.queue_setQueue]
  split
  · exact HeadState.noConfusion
  · rename_i hk
    rw [State.admitJob_queue, if_neg hk]
    exact hjobs.engineBusy hidle k

theorem State.referStamp_eventsOf (t : State) (op : JobOp) (k : Link) : (t.referStamp op).eventsOf k = t.eventsOf k := by
  unfold State.referStamp
  split <;> rfl

end

/-- The reference that a job takes on its stamp, as O38 writes it. -/
theorem State.referStamp_eq {s t : State} (h : t.stamps = s.stamps) (op : JobOp) :
    t.referStamp op = match op.stamp with
      | some g => t.setStamp g.slot { s.stamp g.slot with references := (s.stamp g.slot).references + 1 }
      | none => t := by
  unfold State.referStamp
  cases op.stamp with
  | none => rfl
  | some g =>
    dsimp only
    rw [State.takeReference, State.stamp, State.stamp, h]

/-- Settles O38: the admission to an empty queue of an idle engine, then the arbiter's grant case by case. -/
theorem submitStartsJob : Obligations.SubmitStartsJob := by
  unfold Obligations.SubmitStartsJob
  refine ⟨fun l seq p s j hready hsettled hjobs hp hpasses hengine hentries hidle => ?_, fun s hno => ?_,
    fun s l j rest hidle heligible hentries => ?_, fun w => ?_⟩
  · intro referred reserved
    refine ⟨fun hflip => ?_, fun ⟨h, htarget, hflip⟩ => ?_⟩
    · have hstarted : Started s l j (((s.eligibleAlone l j).granted l).startedJob l j) := State.eligibleAlone_started
      have hschedule := State.admitJob_schedule_eligible hjobs hentries hengine hflip
      rw [State.eligibleAlone_arbitrate hjobs hidle hpasses] at hschedule
      generalize ((s.eligibleAlone l j).granted l).startedJob l j = f at hstarted hschedule
      obtain ⟨t, hexec, hanswers⟩ := exec_submit_answers hready hsettled hp hpasses hschedule fun k hk => by
        rw [State.startedAlone, State.referStamp_eventsOf, State.takeReservation, State.eventsOf_setEvents, if_neg hk]
        rfl
      rw [State.startedAlone, State.referStamp_eq (s := s) (by rfl)] at hanswers
      exact ⟨t, f, hexec, hstarted.link, hstarted.job, hstarted.abandon, hstarted.progress, hstarted.result,
        hstarted.rowStore, hstarted.writePages, hstarted.readPages, hanswers⟩
    · have hlive := State.liveHandle_iff.1 (State.liveHandle_of_passes hpasses htarget)
      have hwaits : s.waitsForFlip j.op = true := State.waitsForFlip_iff.2
        ⟨h, htarget, hlive.1, by rcases hlive.2 with hstate | hstate <;> simp [hstate], hflip⟩
      obtain ⟨t, hexec, hanswers⟩ := exec_submit_answers hready hsettled hp hpasses
        (State.admitJob_schedule_waits hjobs hidle hentries hwaits) fun k hk => by
          rw [State.referStamp_eventsOf, State.takeReservation, State.eventsOf_setEvents, if_neg hk]
          rfl
      rw [State.referStamp_eq (s := s) (by rfl)] at hanswers
      exact ⟨t, hexec, hanswers⟩
  · exact hno.elim State.arbitrate_of_busy State.arbitrate_of_none
  · intro hfirst granted gone denied failsWith
    obtain ⟨hfails, hstarts⟩ := State.arbitrate_eq hidle (State.nextEligible_of_first heligible hfirst) hentries
    have hchecks : (s.granted l).startFailure l j.op = s.startFailure l j.op :=
      State.startFailure_congr (fun _ => rfl) l j.op
    rw [hchecks, State.startFailure_eq] at hstarts
    simp only [hchecks, State.startFailure_eq] at hfails
    refine ⟨fun ht => ?_, fun ht hs => ?_, fun hn hd => ?_, fun hn hd => ?_⟩
    · exact hfails _ (if_pos ht)
    · refine hfails _ ?_
      rw [if_neg fun ⟨h, hh, hgone⟩ => ht h hh hgone]
      exact if_pos hs
    · refine hfails _ ?_
      rw [if_neg fun ⟨h, hh, hgone⟩ => hn h (.inl hh) hgone, if_neg fun ⟨h, hh, hgone⟩ => hn h (.inr hh) hgone]
      exact if_pos hd
    · have hstart := hstarts (by
        rw [if_neg fun ⟨h, hh, hgone⟩ => hn h (.inl hh) hgone, if_neg fun ⟨h, hh, hgone⟩ => hn h (.inr hh) hgone,
          if_neg fun ⟨h, hh, hdenied⟩ => hd h hh hdenied])
      have hstarted : Started s l j ((s.granted l).startedJob l j) :=
        (State.startedJob_started (s.granted l) l j).congr rfl (fun _ => rfl) rfl fun _ => rfl
      exact ⟨_, hstart, hstarted.link, hstarted.job, hstarted.abandon, hstarted.progress, hstarted.result,
        hstarted.rowStore, hstarted.writePages, hstarted.readPages⟩
  · unfold Window.frontPages Window.drawingPages
    cases w.buffering <;> cases w.front <;> exact ⟨rfl, rfl⟩

end Sys2Proof.Machine
end

section
/-! The end of a job: its completion and the release tests of the windows it named. -/

namespace Sys2Proof.Machine

open Sys2Proof

/-! ### The outcome -/

/-- The event that tells of a job's outcome, if it is told (R90). -/
def Job.outcome (j : Job) (e : Ending) (pixels : List Pixel) : Option Event :=
  match e, j.op with
  | .failed status, _ => some (.jobFailed j.tag status)
  | .done, .read _ _ r => some (.readData j.tag r.w r.h pixels)
  | .done, op => if j.notify then some (.jobDone j.tag op.kind) else none

/-- An event queue after a reservation has been used for an event, or silently (R143). -/
def EventQueue.settleReservation (q : EventQueue) : Option Event → EventQueue
  | some e => q.queueReserved e
  | none => q.silentRelease

/-- The queue a link holds after a reservation has been settled: a link that is not UP takes nothing (R151). -/
def State.settledEvents (s : State) (l : Link) (e : Option Event) : EventQueue :=
  if s.isUp l then (s.eventsOf l).settleReservation e else s.eventsOf l

theorem State.handReserved_eq (s : State) (l : Link) (e : Event) :
    s.handReserved l e = s.setEvents l (s.settledEvents l (some e)) := by
  rw [State.handReserved, State.settledEvents]
  split
  · rfl
  · exact (s.setEvents_eventsOf l).symm

theorem State.handSilent_eq (s : State) (l : Link) : s.handSilent l = s.setEvents l (s.settledEvents l none) := by
  rw [State.handSilent, State.settledEvents]
  split
  · rfl
  · exact (s.setEvents_eventsOf l).symm

theorem State.handOutcome_eq (s : State) (l : Link) (j : Job) (e : Ending) (pixels : List Pixel) :
    s.handOutcome l j e pixels = s.setEvents l (s.settledEvents l (j.outcome e pixels)) := by
  unfold State.handOutcome Job.outcome
  cases e with
  | failed status => exact s.handReserved_eq l _
  | done =>
    cases hop : j.op with
    | read _ _ r => exact s.handReserved_eq l _
    | _ =>
      dsimp only
      split
      · exact s.handReserved_eq l _
      · exact s.handSilent_eq l

theorem EventQueue.queueReserved_eq {q : EventQueue} (h : 0 < q.reserved) (e : Event) :
    q.queueReserved e = ({ q with records := q.records ++ [⟨q.nextSeq, e, false⟩], nextSeq := q.nextSeq + 1,
                                  reserved := q.reserved - 1 } : EventQueue).reportLost :=
  if_neg (Nat.ne_of_gt h)

/-! ### The completion at the head -/

/-- Steps 1 to 3 of a completion (R89): the job has left its queue, its outcome is queued, its staging is given back. -/
def State.leftWith (s : State) (l : Link) (j : Job) (e : Ending) (pixels : List Pixel) : State :=
  (s.setQueue l
    { entries := (s.queue l).entries.tail, head := .empty, staging := (s.queue l).staging - j.stagingReleased e }).setEvents
    l (s.settledEvents l (j.outcome e pixels))

theorem State.completeHead_eq (s : State) (l : Link) (j : Job) (e : Ending) (pixels : List Pixel) :
    s.completeHead l j e pixels = (s.leftWith l j e pixels).releaseStampOf j := by
  unfold State.completeHead
  dsimp only
  refine congrArg (fun t : State => t.releaseStampOf j) ?_
  rw [State.handOutcome_eq, State.queue_setEvents, State.queue_setQueue_self, State.leftWith, ← State.setQueue_setEvents,
    State.setQueue_setQueue]
  rfl

/-- A stamp whose last reference is released: FREE if it was RETIRING (R122, R123). -/
theorem State.releaseReference_eq (s : State) (h : StampHandle) :
    s.releaseReference h =
      if (s.stamp h.slot).state = .retiring ∧ (s.stamp h.slot).references ≤ 1 then
        match (s.stamp h.slot).owner with
        | none => s.setStamp h.slot (s.stamp h.slot).freed
        | some o =>
          ((s.setStamp h.slot (s.stamp h.slot).freed).setOwned o (s.ownedStamps.get o - 1)).handUnreserved o
            (.stampFreed ⟨h.slot, (s.stamp h.slot).gen⟩)
      else s.setStamp h.slot { s.stamp h.slot with references := (s.stamp h.slot).references - 1 } := by
  have hlast : (s.stamp h.slot).references - 1 = 0 ↔ (s.stamp h.slot).references ≤ 1 := by omega
  unfold State.releaseReference
  simp only [hlast]
  split
  · rw [State.endRetirement, State.stamp_setStamp_self, State.setStamp_setStamp]
    cases (s.stamp h.slot).owner <;> rfl
  · rfl

/-! ### Reports and releases -/

theorem State.endTest_eq (s : State) (l : Link) : s.endTest l = s.setLink l (s.link l).endTested := by
  unfold State.endTest LinkCtl.endTested
  dsimp only
  split
  · rfl
  · exact (s.setLink_link l).symm

theorem State.reportRelease_eq (s : State) (l : Link) : s.reportRelease l = s.setLink l (s.link l).releaseReported := by
  rw [State.reportRelease, State.endTest_eq, State.link_setLink_self, State.setLink_setLink]
  rfl

theorem State.reportJobEnd_eq (s : State) (l : Link) : s.reportJobEnd l = s.setLink l (s.link l).jobEndReported := by
  rw [State.reportJobEnd, State.endTest_eq, State.link_setLink_self, State.setLink_setLink]
  rfl

/-- A reported release lowers the count and ends a teardown that waits for nothing else (R169, R171). -/
theorem LinkCtl.releaseReported_record (c : LinkCtl) :
    c.releaseReported =
      { c with toRelease := c.toRelease - 1
               state := if c.state = .teardown ∧ c.toRelease ≤ 1 ∧ c.jobPending = false then .down else c.state } := by
  have hlast : c.toRelease - 1 = 0 ↔ c.toRelease ≤ 1 := by omega
  unfold LinkCtl.releaseReported LinkCtl.endTested
  simp only [hlast]
  split <;> rfl

/-- A link in TEARDOWN learns that its job has ended. -/
theorem LinkCtl.jobEndReported_eq {c : LinkCtl} (h : c.state = .teardown) :
    c.jobEndReported =
      { c with jobPending := false, state := if c.toRelease = 0 then .down else .teardown } := by
  unfold LinkCtl.jobEndReported LinkCtl.endTested
  simp only [h, true_and, and_true]
  split <;> simp

theorem Pool.release_eq (p : Pool) (owner : Option Link) (pages : List Nat) (needed : Nat) :
    p.release owner pages needed =
      { p with scrub := p.scrub ++ pages, busy := decide (p.scrub ++ pages ≠ []),
               held := match owner with
                 | some o => p.held.set o (p.held.get o - needed)
                 | none => p.held } := by
  have hbusy : (!(p.scrub ++ pages).isEmpty) = decide (p.scrub ++ pages ≠ []) := by
    rw [Bool.eq_iff_iff, Bool.not_eq_true', List.isEmpty_eq_false_iff, decide_eq_true_eq]
  rw [← hbusy]
  unfold Pool.release Pool.startScrub
  cases owner <;> rfl

/-! ### A completion of the job in flight -/

/-- The release tests of the windows that the job named are made while the engine is idle. -/
theorem foldl_releaseTest_idle {step : State → Slot → State}
    (hstep : ∀ (u : State) (i : Slot), u.engine = none → u.releaseTest i = step u i) (is : List Slot) {s : State}
    (hidle : s.engine = none) : is.foldl State.releaseTest s = is.foldl step s := by
  induction is generalizing s with
  | nil => rfl
  | cons i is ih =>
    rw [List.foldl_cons, List.foldl_cons, ← hstep s i hidle]
    exact ih (by simp [hidle])

theorem State.completeInFlight_eq {s : State} {f : InFlight} (e : Ending) {step : State → Slot → State}
    (hstep : ∀ (u : State) (i : Slot), u.engine = none → u.releaseTest i = step u i) {tested : State}
    (htested : tested = f.slots.foldl step ((s.completeHead f.link f.job e f.result).setEngine none)) :
    s.completeInFlight f e =
      if (tested.link f.link).state = .teardown then
        tested.setLink f.link
          { tested.link f.link with jobPending := false
                                    state := if (tested.link f.link).toRelease = 0 then .down else .teardown }
      else tested := by
  have hfold : f.slots.foldl State.releaseTest ((s.completeHead f.link f.job e f.result).setEngine none) = tested :=
    (foldl_releaseTest_idle hstep _ rfl).trans htested.symm
  unfold State.completeInFlight
  dsimp only
  rw [hfold]
  split
  · rename_i htorn
    rw [State.reportJobEnd_eq, LinkCtl.jobEndReported_eq htorn]
  · rfl

/-- A release test while the engine is idle, as O42 writes it. -/
def State.testedIdle (u : State) (i : Slot) : State :=
  let w := u.window i
  let scrub := u.pool.scrub ++ w.buf0 ++ w.buf1
  let held := match w.owner with
    | some o => u.pool.held.set o (u.pool.held.get o - w.pages)
    | none => u.pool.held
  let released := (u.setWindow i
      { w with gen := w.gen + 1, state := .free, owner := none, flipPending := none, key := none, closeReason := none,
               buf0 := [], buf1 := [] }).setPool { u.pool with scrub := scrub, busy := decide (scrub ≠ []), held := held }
  if w.state = .closing ∧ w.onGlass = false then
    match w.owner, w.closeReason with
    | some o, some .owner =>
      if u.isUp o then released.setEvents o ((u.eventsOf o).queueReserved (.windowClosed ⟨i, w.gen⟩)) else released
    | some o, some .teardown =>
      released.setLink o
        { u.link o with
            toRelease := (u.link o).toRelease - 1
            state := if (u.link o).state = .teardown ∧ (u.link o).toRelease ≤ 1 ∧ (u.link o).jobPending = false then .down
              else (u.link o).state }
    | _, _ => released
  else u

/-- With the engine idle no window is named in flight. -/
theorem State.releaseTest_idle {u : State} (hidle : u.engine = none) (i : Slot) : u.releaseTest i = u.testedIdle i := by
  have hunnamed : u.namedInFlight ⟨i, (u.window i).gen⟩ = false := by rw [State.namedInFlight, hidle]
  unfold State.testedIdle
  dsimp only
  rw [State.releaseTest_eq]
  simp only [hunnamed, and_true]
  split
  · unfold State.release
    dsimp only
    rw [Pool.release_eq, ← List.append_assoc]
    cases howner : (u.window i).owner with
    | none => rfl
    | some o =>
      cases hreason : (u.window i).closeReason with
      | none => rfl
      | some reason =>
        cases reason with
        | owner => rfl
        | teardown =>
          dsimp only
          rw [State.reportRelease_eq, LinkCtl.releaseReported_record]
          rfl
  · rfl

/-! ### O42 -/

theorem State.endRow_ends {s : State} {f : InFlight} (hends : f.abandon ≠ none ∨ f.height ≤ f.progress + 1) :
    s.endRow f = ((s.drawRow f).completeInFlight f.rowEnded
      (match f.abandon with
        | some a => .failed a.status
        | none => .done)).schedule f.link := by
  unfold State.endRow
  cases habandon : f.abandon with
  | some a => rfl
  | none =>
    have hlast : f.height ≤ f.rowEnded.progress := hends.resolve_left (· habandon)
    dsimp only
    rw [if_pos hlast]

/-- Settles O42: the completion at the head, then the row end that completes the job in flight. -/
theorem jobEnds : Obligations.JobEnds := by
  unfold Obligations.JobEnds
  refine ⟨fun s l j rest e pixels hentries hreserved => ?_, fun s f rest hreset hf hentries hends => ?_⟩
  · intro q outcome staging left
    have hleft : s.leftWith l j e pixels = left := by
      have hstaging : j.stagingReleased e = staging := by
        unfold Job.stagingReleased
        cases e <;> cases hop : j.op <;> simp only [staging, hop]
      have hevents : s.settledEvents l (j.outcome e pixels) = if s.isUp l then
          match outcome with
          | some ev => ({ q with records := q.records ++ [(⟨q.nextSeq, ev, false⟩ : EventRecord)],
                                 nextSeq := q.nextSeq + 1, reserved := q.reserved - 1 } : EventQueue).reportLost
          | none => ({ q with reserved := q.reserved - 1 } : EventQueue).reportLost
          else q := by
        have houtcome : j.outcome e pixels = outcome := rfl
        rw [State.settledEvents, houtcome]
        split
        · rename_i hup
          cases outcome with
          | none => rfl
          | some ev => exact EventQueue.queueReserved_eq (hreserved hup) ev
        · rfl
      unfold State.leftWith
      rw [hentries, hstaging, hevents]
      rfl
    rw [State.completeHead_eq, hleft, State.releaseStampOf]
    cases j.op.stamp with
    | none => rfl
    | some h =>
      dsimp only
      rw [State.releaseReference_eq]
      rfl
  · intro ending pixels idle named tested told
    have hending : (match f.abandon with
        | some a => .failed a.status
        | none => .done) = ending := by
      cases habandon : f.abandon with
      | none => simp only [ending, habandon]
      | some a => cases a <;> simp only [ending, habandon] <;> rfl
    have hresult : f.rowEnded.result = pixels := by
      show f.resultAfter = pixels
      unfold InFlight.resultAfter
      cases hop : f.job.op <;> simp only [pixels, hop]
    have hslots : f.rowEnded.slots = named := by
      show f.slots = named
      simp only [InFlight.slots, named, Bool.decide_or]
    have htested : tested = f.rowEnded.slots.foldl State.testedIdle
        (((s.drawRow f).completeHead f.rowEnded.link f.rowEnded.job ending f.rowEnded.result).setEngine none) := by
      rw [hslots, hresult]
      rfl
    rw [exec_rowEnd hreset hf, State.endRow_ends hends, hending,
      State.completeInFlight_eq ending (fun u i hu => State.releaseTest_idle hu i) htested]
    rfl

end Sys2Proof.Machine
end

section
/-! What the law of the sessions reads of a state, and the changes that leave it alone. -/

namespace Sys2Proof.Machine

open Sys2Proof

/-! ### The law between two reports -/

/-- The law of the sessions beside that of the job queues, where a link's job has ended and that is still to be reported to its
teardown record (R93, R169). -/
structure State.SessionHeld (unreported : Option Link) (s : State) : Prop where
  freeOwnerless : ∀ i, (s.window i).state = .free ↔ (s.window i).owner = none
  closingInUp : ∀ i l, (s.window i).state = .closing → (s.window i).owner = some l → s.isUp l = true →
    (s.window i).closeReason = some .owner
  closingInTeardown : ∀ i l, (s.window i).state = .closing → (s.window i).owner = some l → (s.link l).state = .teardown →
    (s.window i).closeReason = some .teardown
  eventsInUp : ∀ l, s.isUp l = false → (s.eventsOf l).records = [] ∧ (s.eventsOf l).reserved = 0
  stampsInUp : ∀ l, s.isUp l = false → ∀ i, (s.stamp i).owner ≠ some l
  jobsInUp : ∀ l, s.isUp l = false → (s.queue l).entries ≠ [] →
    (s.queue l).head = .inFlight ∧ (s.queue l).entries.length = 1 ∧ s.ownsEngine l = true
  awaitedWindows : ∀ l, (s.link l).state = .teardown → (s.link l).toRelease = s.ownedWindows l
  awaitedJob : ∀ l, (s.link l).state = .teardown →
    (s.link l).jobPending = (s.ownsEngine l || decide (unreported = some l))
  nothingInDown : ∀ l, (s.link l).state = .down → (∀ i, (s.window i).owner ≠ some l) ∧ (s.queue l).entries = []

theorem State.ownsEngine_iff {s : State} {l : Link} : s.ownsEngine l = true ↔ ∃ f, s.engine = some f ∧ f.link = l := by
  unfold State.ownsEngine
  cases s.engine <;> simp

theorem State.isUp_eq_false_iff {s : State} {l : Link} : s.isUp l = false ↔ (s.link l).state ≠ .up := by
  rw [← Bool.not_eq_true, State.isUp_iff]

theorem State.isUp_of_teardown {s : State} {l : Link} (h : (s.link l).state = .teardown) : s.isUp l = false :=
  State.isUp_eq_false_iff.2 (by rw [h]; nofun)

theorem State.isUp_of_down {s : State} {l : Link} (h : (s.link l).state = .down) : s.isUp l = false :=
  State.isUp_eq_false_iff.2 (by rw [h]; nofun)

/-- Beside the law of the job queues, the law of the sessions is that of the live windows' owners and this. -/
theorem sessionLaw_iff {s : State} (hjobs : JobLaw s) : SessionLaw s ↔ LiveOwned s ∧ s.SessionHeld none := by
  constructor
  · intro h
    refine ⟨h.liveOwned, h.freeOwnerless, h.closingInUp, h.closingInTeardown, h.eventsInUp, h.stampsInUp,
      fun l hl hentries => ?_, fun l hl => (h.awaited l hl).1, fun l hl => ?_, h.nothingInDown⟩
    · obtain ⟨hhead, hlength⟩ := h.jobsInUp l hl hentries
      exact ⟨hhead, hlength, State.ownsEngine_iff.2 ((hjobs.flightHead l).1 hhead)⟩
    · rw [(h.awaited l hl).2]
      simp
  · rintro ⟨hlive, h⟩
    refine ⟨hlive, h.freeOwnerless, h.closingInUp, h.closingInTeardown, h.eventsInUp, h.stampsInUp,
      fun l hl hentries => ?_, fun l hl => ⟨h.awaitedWindows l hl, ?_⟩, h.nothingInDown⟩
    · obtain ⟨hhead, hlength, -⟩ := h.jobsInUp l hl hentries
      exact ⟨hhead, hlength⟩
    · rw [h.awaitedJob l hl]
      simp

/-! ### Steady changes -/

/-- From s to t nothing changes of what the law of the sessions reads, but for what links that are UP may hold. -/
structure State.Steady (s t : State) : Prop where
  free : ∀ i, ((t.window i).state = .free ↔ (t.window i).owner = none) ∨
    ((t.window i).owner = (s.window i).owner ∧ ((t.window i).state = .free ↔ (s.window i).state = .free))
  owner : ∀ i l, s.isUp l = false → ((t.window i).owner = some l ↔ (s.window i).owner = some l)
  closing : ∀ i, (t.window i).state = .closing →
    ((s.window i).state = .closing ∧ (t.window i).closeReason = (s.window i).closeReason ∧
      (t.window i).owner = (s.window i).owner) ∨
    ((t.window i).closeReason = some .owner ∧ ∀ l, s.isUp l = false → (t.window i).owner ≠ some l)
  linkState : ∀ l, (t.link l).state = (s.link l).state
  toRelease : ∀ l, (t.link l).toRelease = (s.link l).toRelease
  jobPending : ∀ l, (t.link l).jobPending = (s.link l).jobPending
  events : ∀ l, s.isUp l = false → t.eventsOf l = s.eventsOf l
  stamps : ∀ i l, s.isUp l = false → (t.stamp i).owner = some l → (s.stamp i).owner = some l
  queues : ∀ l, s.isUp l = false → (t.queue l).entries = [] ∨ t.queue l = s.queue l
  engine : ∀ l, s.isUp l = false → t.ownsEngine l = s.ownsEngine l

section
variable {s t u : State}

theorem State.Steady.isUp (h : s.Steady t) (l : Link) : t.isUp l = s.isUp l := State.isUp_eq_of_state (h.linkState l)

theorem State.Steady.refl (s : State) : s.Steady s where
  free _ := .inr ⟨rfl, Iff.rfl⟩
  owner _ _ _ := Iff.rfl
  closing _ h := .inl ⟨h, rfl, rfl⟩
  linkState _ := rfl
  toRelease _ := rfl
  jobPending _ := rfl
  events _ _ := rfl
  stamps _ _ _ h := h
  queues _ _ := .inr rfl
  engine _ _ := rfl

theorem State.Steady.trans (h : s.Steady t) (h' : t.Steady u) : s.Steady u where
  free i := by
    rcases h'.free i with hu | ⟨howner, hfree⟩
    · exact .inl hu
    · rcases h.free i with ht | ⟨howner', hfree'⟩
      · exact .inl (by rw [hfree, howner, ht])
      · exact .inr ⟨howner.trans howner', hfree.trans hfree'⟩
  owner i l hl := (h'.owner i l ((h.isUp l).trans hl)).trans (h.owner i l hl)
  closing i hu := by
    rcases h'.closing i hu with ⟨ht, hreason, howner⟩ | ⟨hreason, howner⟩
    · rcases h.closing i ht with ⟨hs, hreason', howner'⟩ | ⟨hreason', howner'⟩
      · exact .inl ⟨hs, hreason.trans hreason', howner.trans howner'⟩
      · exact .inr ⟨hreason.trans hreason', fun l hl => howner ▸ howner' l hl⟩
    · exact .inr ⟨hreason, fun l hl => howner l ((h.isUp l).trans hl)⟩
  linkState l := (h'.linkState l).trans (h.linkState l)
  toRelease l := (h'.toRelease l).trans (h.toRelease l)
  jobPending l := (h'.jobPending l).trans (h.jobPending l)
  events l hl := (h'.events l ((h.isUp l).trans hl)).trans (h.events l hl)
  stamps i l hl hu := h.stamps i l hl (h'.stamps i l ((h.isUp l).trans hl) hu)
  queues l hl := by
    rcases h'.queues l ((h.isUp l).trans hl) with hu | hu
    · exact .inl hu
    · exact (h.queues l hl).imp (fun ht => by rw [hu, ht]) hu.trans
  engine l hl := (h'.engine l ((h.isUp l).trans hl)).trans (h.engine l hl)

theorem State.Steady.foldl {α : Type} {f : State → α → State} (h : ∀ (t : State) x, t.Steady (f t x)) (xs : List α)
    (s : State) : s.Steady (xs.foldl f s) :=
  foldl_keeps (fun t => s.Steady t) f (fun t x ht => ht.trans (h t x)) xs (.refl s)

/-- The windows that a link that is not UP owns are as many. -/
theorem State.Steady.ownedWindows (h : s.Steady t) (hs : ∀ i, (s.window i).state = .free ↔ (s.window i).owner = none)
    (ht : ∀ i, (t.window i).state = .free ↔ (t.window i).owner = none) {l : Link} (hl : s.isUp l = false) :
    t.ownedWindows l = s.ownedWindows l := by
  unfold State.ownedWindows
  refine List.countP_congr fun i _ => ?_
  have howner := h.owner i l hl
  have hsfree := hs i
  have htfree := ht i
  simp only [Bool.and_eq_true, decide_eq_true_eq]
  constructor
  · rintro ⟨ho, -⟩
    have := howner.1 ho
    exact ⟨this, fun hfree => by simp [hsfree.1 hfree] at this⟩
  · rintro ⟨ho, -⟩
    have := howner.2 ho
    exact ⟨this, fun hfree => by simp [htfree.1 hfree] at this⟩

theorem State.SessionHeld.steady {unreported : Option Link} (h : s.SessionHeld unreported) (hst : s.Steady t) :
    t.SessionHeld unreported := by
  have hfree : ∀ i, (t.window i).state = .free ↔ (t.window i).owner = none := fun i => by
    rcases hst.free i with ht | ⟨howner, hfree⟩
    · exact ht
    · rw [hfree, howner, h.freeOwnerless]
  have hup : ∀ l, t.isUp l = s.isUp l := hst.isUp
  refine ⟨hfree, fun i l hclosing howner hl => ?_, fun i l hclosing howner hl => ?_, fun l hl => ?_, fun l hl i hi => ?_,
    fun l hl hentries => ?_, fun l hl => ?_, fun l hl => ?_, fun l hl => ⟨fun i hi => ?_, ?_⟩⟩
  · rcases hst.closing i hclosing with ⟨hs, hreason, howner'⟩ | ⟨hreason, -⟩
    · rw [hreason]
      exact h.closingInUp i l hs (howner' ▸ howner) (hup l ▸ hl)
    · exact hreason
  · rw [hst.linkState] at hl
    rcases hst.closing i hclosing with ⟨hs, hreason, howner'⟩ | ⟨-, hothers⟩
    · rw [hreason]
      exact h.closingInTeardown i l hs (howner' ▸ howner) hl
    · exact absurd howner (hothers l (State.isUp_of_teardown hl))
  · rw [hup] at hl
    rw [hst.events l hl]
    exact h.eventsInUp l hl
  · rw [hup] at hl
    exact h.stampsInUp l hl i (hst.stamps i l hl hi)
  · rw [hup] at hl
    have hqueue := (hst.queues l hl).resolve_left hentries
    rw [hqueue] at hentries ⊢
    rw [hst.engine l hl]
    exact h.jobsInUp l hl hentries
  · rw [hst.linkState] at hl
    rw [hst.toRelease, hst.ownedWindows h.freeOwnerless hfree (State.isUp_of_teardown hl)]
    exact h.awaitedWindows l hl
  · rw [hst.linkState] at hl
    rw [hst.jobPending, hst.engine l (State.isUp_of_teardown hl)]
    exact h.awaitedJob l hl
  · rw [hst.linkState] at hl
    exact (h.nothingInDown l hl).1 i ((hst.owner i l (State.isUp_of_down hl)).1 hi)
  · rw [hst.linkState] at hl
    rcases hst.queues l (State.isUp_of_down hl) with hempty | hqueue
    · exact hempty
    · rw [hqueue]
      exact (h.nothingInDown l hl).2

/-! ### What is steady -/

/-- A record with the same holder, that is FREE or CLOSING as before. -/
structure Window.SameHolder (w v : Window) : Prop where
  owner : v.owner = w.owner
  free : v.state = .free ↔ w.state = .free
  closing : v.state = .closing → w.state = .closing ∧ v.closeReason = w.closeReason

theorem Window.SameHolder.refl (w : Window) : w.SameHolder w := ⟨rfl, Iff.rfl, fun h => ⟨h, rfl⟩⟩

theorem Window.Refreshed.sameHolder {w v : Window} (h : w.Refreshed v) : w.SameHolder v :=
  ⟨h.owner, by rw [h.state], fun hv => ⟨h.state ▸ hv, (congrArg Window.closeReason h :)⟩⟩

theorem Window.Rearmed.sameHolder {w v : Window} (h : w.Rearmed v) : w.SameHolder v := by
  unfold Window.Rearmed at h
  rw [← h]
  exact ⟨rfl, Iff.rfl, fun hv => ⟨hv, rfl⟩⟩

theorem Window.Restyled.sameHolder {w v : Window} (h : w.Restyled v) : w.SameHolder v := by
  unfold Window.Restyled at h
  rw [← h]
  exact ⟨rfl, Iff.rfl, fun hv => ⟨hv, rfl⟩⟩

/-- The records of all windows have the same holders. -/
def State.SameHolders (s t : State) : Prop := ∀ i, (s.window i).SameHolder (t.window i)

theorem State.SameHolders.of_eq (h : t.windows = s.windows) : s.SameHolders t := fun i => by
  rw [State.window, State.window, h]
  exact .refl _

theorem State.sameHolders_setWindow {i : Slot} {w : Window} (h : (s.window i).SameHolder w) :
    s.SameHolders (s.setWindow i w) := by
  intro j
  rw [State.window_setWindow]
  split
  · rename_i hj
    subst hj
    exact h
  · exact .refl _

/-- What the queues of links that are not UP, and their stamps, keep. -/
structure State.SameHeld (s t : State) : Prop where
  stamps : ∀ i l, s.isUp l = false → (t.stamp i).owner = some l → (s.stamp i).owner = some l
  queues : ∀ l, s.isUp l = false → (t.queue l).entries = [] ∨ t.queue l = s.queue l
  engine : ∀ l, s.isUp l = false → t.ownsEngine l = s.ownsEngine l

theorem State.SameHeld.of_eq (hstamps : t.stamps = s.stamps) (hqueues : t.queues = s.queues)
    (hengine : t.engine = s.engine) : s.SameHeld t where
  stamps i l _ h := by rwa [State.stamp, hstamps] at h
  queues l _ := .inr (by rw [State.queue, State.queue, hqueues])
  engine l _ := by rw [State.ownsEngine, State.ownsEngine, hengine]

theorem State.steady_of (hwindows : s.SameHolders t) (hlinks : ∀ l, (t.link l).state = (s.link l).state ∧
      (t.link l).toRelease = (s.link l).toRelease ∧ (t.link l).jobPending = (s.link l).jobPending)
    (hevents : ∀ l, s.isUp l = false → t.eventsOf l = s.eventsOf l) (hheld : s.SameHeld t) : s.Steady t where
  free i := .inr ⟨(hwindows i).owner, (hwindows i).free⟩
  owner i l _ := by rw [(hwindows i).owner]
  closing i h := by
    obtain ⟨hs, hreason⟩ := (hwindows i).closing h
    exact .inl ⟨hs, hreason, (hwindows i).owner⟩
  linkState l := (hlinks l).1
  toRelease l := (hlinks l).2.1
  jobPending l := (hlinks l).2.2
  events := hevents
  stamps := hheld.stamps
  queues := hheld.queues
  engine := hheld.engine

/-- Changes outside the controllers that tell UP links only. -/
theorem State.steady_of_told (hwindows : s.SameHolders t) (hlinks : t.links = s.links) (htold : s.Told t)
    (hheld : s.SameHeld t) : s.Steady t :=
  State.steady_of hwindows (fun l => by rw [State.link, State.link, hlinks]; exact ⟨rfl, rfl, rfl⟩) htold.quiet hheld

/-- A new controller with the same state and teardown record. -/
theorem State.steady_setLink {l : Link} {c : LinkCtl} (hstate : c.state = (s.link l).state)
    (hrelease : c.toRelease = (s.link l).toRelease) (hjob : c.jobPending = (s.link l).jobPending) :
    s.Steady (s.setLink l c) := by
  refine State.steady_of (.of_eq rfl) (fun k => ?_) (fun _ _ => rfl) (.of_eq rfl rfl rfl)
  rw [State.link_setLink]
  split
  · rename_i hk
    subst hk
    exact ⟨hstate, hrelease, hjob⟩
  · exact ⟨rfl, rfl, rfl⟩

/-- Changes outside all that the law reads. -/
theorem State.steady_of_same (hwindows : t.windows = s.windows) (hlinks : t.links = s.links) (hevents : t.events = s.events)
    (hstamps : t.stamps = s.stamps) (hqueues : t.queues = s.queues) (hengine : t.engine = s.engine) : s.Steady t :=
  State.steady_of_told (.of_eq hwindows) hlinks (.of_same hevents hlinks) (.of_eq hstamps hqueues hengine)

end

end Sys2Proof.Machine
end

section
/-! Completions, grants, releases and the ends of jobs keep what the law of the sessions reads. -/

namespace Sys2Proof.Machine

open Sys2Proof

/-! ### Stamps lose owners only -/

theorem State.releaseReference_owner {s : State} {h : StampHandle} {i : StampSlot} {k : Link}
    (howner : ((s.releaseReference h).stamp i).owner = some k) : (s.stamp i).owner = some k := by
  have hset : ∀ st : Stamp, (st.owner = some k → (s.stamp h.slot).owner = some k) →
      ((s.setStamp h.slot st).stamp i).owner = some k → (s.stamp i).owner = some k := fun st hst hi => by
    rw [State.stamp_setStamp] at hi
    split at hi
    · rename_i heq
      rw [heq]
      exact hst hi
    · exact hi
  rw [State.releaseReference_eq] at howner
  split at howner
  · split at howner
    · exact hset _ (fun hfreed => by cases hfreed) howner
    · simp only [State.handUnreserved_frame, State.stamp_setOwned] at howner
      exact hset _ (fun hfreed => by cases hfreed) howner
  · refine hset _ ?_ howner
    exact id

theorem State.completeHead_owner {s : State} {l : Link} {j : Job} {e : Ending} {pixels : List Pixel} {i : StampSlot}
    {k : Link} (howner : ((s.completeHead l j e pixels).stamp i).owner = some k) : (s.stamp i).owner = some k := by
  rw [State.completeHead_eq, State.releaseStampOf] at howner
  split at howner
  · have hleft := State.releaseReference_owner howner
    exact hleft
  · exact howner

/-! ### Completions and examinations -/

/-- A completion at the head of a link that is UP, or that queues nothing else. -/
theorem State.completeHead_steady {s : State} {l : Link} (hlast : s.isUp l = false → (s.queue l).entries.tail = [])
    (j : Job) (e : Ending) (pixels : List Pixel) : s.Steady (s.completeHead l j e pixels) := by
  refine State.steady_of_told (.of_eq (by simp)) (by simp) (s.completeHead_told l j e pixels)
    ⟨fun i k _ h => State.completeHead_owner h, fun k hk => ?_, fun k _ => ?_⟩
  · by_cases hkl : k = l
    · subst hkl
      refine .inl ?_
      rw [State.completeHead_queue]
      exact hlast hk
    · exact .inr (State.completeHead_queue_ne _ hkl _ _ _)
  · rw [State.ownsEngine, State.ownsEngine]
    simp

theorem State.setQueue_steady {s : State} {l : Link} (hup : s.isUp l = true) (q : JobQueue) : s.Steady (s.setQueue l q) := by
  refine State.steady_of_told (.of_eq rfl) rfl (.of_same rfl rfl) ⟨fun _ _ _ h => h, fun k hk => .inr ?_, fun _ _ => rfl⟩
  rw [State.queue_setQueue, if_neg]
  rintro rfl
  rw [hup] at hk
  cases hk

theorem State.takePresent_steady {s : State} {l : Link} (hup : s.isUp l = true) (j : Job) (h : Handle) :
    s.Steady (s.takePresent l j h) := by
  have hdown : s.isUp l = false → (s.queue l).entries.tail = [] := fun hl => by
    rw [hup] at hl
    cases hl
  unfold State.takePresent
  split
  · dsimp only
    generalize hleft : s.setQueue l _ = left
    have hsteady : s.Steady left := hleft ▸ State.setQueue_steady hup _
    refine hsteady.trans ?_
    exact State.steady_of_told (State.sameHolders_setWindow ⟨rfl, Iff.rfl, fun h => ⟨h, rfl⟩⟩) rfl (.of_same rfl rfl)
      (.of_eq rfl rfl rfl)
  · exact State.completeHead_steady hdown j _ _

theorem State.examine_steady {s : State} {l : Link} (hup : s.isUp l = true) (js : List Job) :
    s.Steady (s.examine l js) := by
  induction js generalizing s with
  | nil => exact State.setQueue_steady hup _
  | cons j js ih =>
    have hgoes : ∀ t, s.Steady t → s.Steady (t.examine l js) := fun t ht => ht.trans (ih ((ht.isUp l).trans hup))
    unfold State.examine
    split
    · exact State.setQueue_steady hup _
    · split
      · refine hgoes _ (State.completeHead_steady (fun hl => ?_) j _ _)
        rw [hup] at hl
        cases hl
      · exact hgoes _ (State.takePresent_steady hup j _)
      · exact State.setQueue_steady hup _

section
variable {s : State} {unreported : Option Link}

/-- On a link that is not UP, a queue's head is in flight, or there is none. -/
theorem State.SessionHeld.examineHead (h : s.SessionHeld unreported) (l : Link) :
    (s.examineHead l).SessionHeld unreported := by
  by_cases hup : s.isUp l = true
  · refine h.steady ?_
    unfold State.examineHead
    split
    · exact .refl s
    · exact .refl s
    · exact State.examine_steady hup _
    · exact State.examine_steady hup _
  · rw [Bool.not_eq_true] at hup
    by_cases hentries : (s.queue l).entries = []
    · have hempty : s.Steady (s.setQueue l { s.queue l with head := .empty }) := by
        refine State.steady_of_told (.of_eq rfl) rfl (.of_same rfl rfl)
          ⟨fun _ _ _ h => h, fun k _ => ?_, fun _ _ => rfl⟩
        rw [State.queue_setQueue]
        split
        · exact .inl hentries
        · exact .inr rfl
      refine h.steady ?_
      unfold State.examineHead
      rw [hentries]
      split
      · exact .refl s
      · exact .refl s
      · exact hempty
      · exact hempty
    · rwa [State.examineHead_of_rests (.inr (.inl (h.jobsInUp l hup hentries).1))]

/-- Only links that are UP have ELIGIBLE heads. -/
theorem State.SessionHeld.isUp_of_eligible (h : s.SessionHeld unreported) {l : Link} (hhead : (s.queue l).head = .eligible)
    (hentries : (s.queue l).entries ≠ []) : s.isUp l = true := by
  by_contra hup
  rw [Bool.not_eq_true] at hup
  have hflies := (h.jobsInUp l hup hentries).1
  rw [hhead] at hflies
  cases hflies

theorem State.granted_steady {l : Link} (hup : s.isUp l = true) : s.Steady (s.granted l) :=
  (State.steady_of_same rfl rfl rfl rfl rfl rfl : s.Steady { s with lastServed := l }).trans
    (State.setQueue_steady (s := { s with lastServed := l }) hup _)

theorem State.SessionHeld.grants (n : Nat) (h : s.SessionHeld unreported) : (State.grants n s).SessionHeld unreported := by
  refine State.grants_keeps (P := fun t => t.SessionHeld unreported) (fun t l j rest status ht _ hnext hentries _ => ?_)
    (fun t l j rest ht hidle hnext hentries _ => ?_) n h
  · have hup := ht.isUp_of_eligible (State.nextEligible_eq_some hnext) (by rw [hentries]; exact List.cons_ne_nil _ _)
    have hgranted := t.granted_steady hup
    refine State.SessionHeld.examineHead ((ht.steady hgranted).steady (State.completeHead_steady (fun hl => ?_) j _ _)) l
    rw [hgranted.isUp, hup] at hl
    cases hl
  · have hup := ht.isUp_of_eligible (State.nextEligible_eq_some hnext) (by rw [hentries]; exact List.cons_ne_nil _ _)
    refine (ht.steady (t.granted_steady hup)).steady ?_
    have hidle' : (t.granted l).engine = none := hidle
    have hup' : (t.granted l).isUp l = true := hup
    generalize hf : (t.granted l).startedJob l j = f
    have hlink : f.link = l := by rw [← hf]; rfl
    generalize t.granted l = g at hidle' hup' ⊢
    refine State.steady_of_told (.of_eq rfl) rfl (.of_same rfl rfl) ⟨fun _ _ _ h => h, fun _ _ => .inr rfl, fun k hk => ?_⟩
    have hne : l ≠ k := by
      rintro rfl
      rw [hup'] at hk
      cases hk
    simp [State.ownsEngine, hidle', hlink, hne]

theorem State.SessionHeld.arbitrate (h : s.SessionHeld unreported) : s.arbitrate.SessionHeld unreported := h.grants _

theorem State.SessionHeld.schedule (h : s.SessionHeld unreported) (l : Link) : (s.schedule l).SessionHeld unreported :=
  (h.examineHead l).arbitrate

theorem State.SessionHeld.scheduleAll (h : s.SessionHeld unreported) : s.scheduleAll.SessionHeld unreported :=
  (foldl_keeps (fun t : State => t.SessionHeld unreported) State.examineHead (fun _ l ht => ht.examineHead l) allLinks h).arbitrate

/-! ### Releases -/

theorem LinkCtl.endTested_state (c : LinkCtl) :
    c.endTested.state = if c.state = .teardown ∧ c.toRelease = 0 ∧ c.jobPending = false then .down else c.state := by
  unfold LinkCtl.endTested
  split <;> rfl

theorem State.ownedWindows_eq_zero_iff {s : State} (hfree : ∀ i, (s.window i).state = .free ↔ (s.window i).owner = none)
    (l : Link) : s.ownedWindows l = 0 ↔ ∀ i, (s.window i).owner ≠ some l := by
  rw [State.ownedWindows, List.countP_eq_zero]
  constructor
  · intro h i howner
    refine h i (mem_finRange i) ?_
    have hused : (s.window i).state ≠ .free := fun hf => by
      rw [(hfree i).1 hf] at howner
      cases howner
    simp [howner, hused]
  · intro h i _
    simp [h i]

/-- A link in TEARDOWN for which nothing else is left to wait goes DOWN. -/
theorem State.SessionHeld.endTest (h : s.SessionHeld unreported) (l : Link) :
    (s.endTest l).SessionHeld unreported := by
  rw [State.endTest_eq]
  by_cases htest : (s.link l).state = .teardown ∧ (s.link l).toRelease = 0 ∧ (s.link l).jobPending = false
  · obtain ⟨htorn, hrelease, hjob⟩ := htest
    have hdown := State.isUp_of_teardown htorn
    have hidle : s.ownsEngine l = false := by
      have := h.awaitedJob l htorn
      rw [hjob] at this
      exact (Bool.or_eq_false_iff.1 this.symm).1
    have hnone : ∀ i, (s.window i).owner ≠ some l :=
      (State.ownedWindows_eq_zero_iff h.freeOwnerless l).1 (by rw [← h.awaitedWindows l htorn, hrelease])
    have hentries : (s.queue l).entries = [] := by
      by_contra hne
      have := (h.jobsInUp l hdown hne).2.2
      rw [hidle] at this
      cases this
    have hstate : (s.link l).endTested.state = .down := by
      rw [LinkCtl.endTested_state, if_pos ⟨htorn, hrelease, hjob⟩]
    have hlink := State.link_setLink s l
    have hup : ∀ k, (s.setLink l (s.link l).endTested).isUp k = s.isUp k := fun k => by
      rw [← State.endTest_eq, State.endTest_isUp]
    have hother : ∀ k, ((s.setLink l (s.link l).endTested).link k).state = .teardown →
        k ≠ l ∧ (s.link k).state = .teardown := fun k hk => by
      rw [hlink] at hk
      split at hk
      · rw [hstate] at hk
        cases hk
      · rename_i hne
        exact ⟨hne, hk⟩
    refine ⟨h.freeOwnerless, fun i k hc ho hk => h.closingInUp i k hc ho (hup k ▸ hk),
      fun i k hc ho hk => h.closingInTeardown i k hc ho (hother k hk).2, fun k hk => h.eventsInUp k (hup k ▸ hk),
      fun k hk => h.stampsInUp k (hup k ▸ hk), fun k hk => h.jobsInUp k (hup k ▸ hk), fun k hk => ?_, fun k hk => ?_,
      fun k hk => ?_⟩
    · obtain ⟨hne, htorn'⟩ := hother k hk
      rw [hlink, if_neg hne]
      exact h.awaitedWindows k htorn'
    · obtain ⟨hne, htorn'⟩ := hother k hk
      rw [hlink, if_neg hne]
      exact h.awaitedJob k htorn'
    · rw [hlink] at hk
      split at hk
      · rename_i heq
        subst heq
        exact ⟨hnone, hentries⟩
      · exact h.nothingInDown k hk
  · have hsame : (s.link l).endTested = s.link l := if_neg htest
    rwa [hsame, State.setLink_link]

end

end Sys2Proof.Machine
end

section
/-! The law of the sessions at releases, closes, job ends and frame starts. -/

namespace Sys2Proof.Machine

open Sys2Proof

/-! ### Releases -/

/-- The windows that a link owns, where one record changes. -/
theorem State.ownedWindows_change {s t : State} (i : Slot) (h : ∀ j, j ≠ i → t.window j = s.window j) (l : Link) :
    t.ownedWindows l + (if (s.window i).owner = some l ∧ (s.window i).state ≠ .free then 1 else 0) =
      s.ownedWindows l + if (t.window i).owner = some l ∧ (t.window i).state ≠ .free then 1 else 0 := by
  have hchange := sum_map_change (nodup_finRange 32) (mem_finRange i)
    (f := fun j => if (t.window j).owner = some l ∧ (t.window j).state ≠ .free then 1 else 0)
    (g := fun j => if (s.window j).owner = some l ∧ (s.window j).state ≠ .free then 1 else 0) fun j hj => by rw [h j hj]
  simpa only [State.ownedWindows, countP_eq_sum, Bool.and_eq_true, decide_eq_true_eq] using hchange

section
variable {s : State} {unreported : Option Link}

/-- A window released for a teardown lowers the number it waits for (R169). -/
theorem State.SessionHeld.released (h : s.SessionHeld unreported) {i : Slot} {o : Link}
    (hclosing : (s.window i).state = .closing) (howner : (s.window i).owner = some o)
    (htorn : (s.link o).state = .teardown) (p : Pool) :
    (((s.setWindow i (s.window i).released).setPool p).setLink o
      { s.link o with toRelease := (s.link o).toRelease - 1 }).SessionHeld unreported := by
  have hwindow : ∀ j, (((s.setWindow i (s.window i).released).setPool p).setLink o
      { s.link o with toRelease := (s.link o).toRelease - 1 }).window j =
        if j = i then (s.window i).released else s.window j := fun j => State.window_setWindow s i j _
  have hlink : ∀ k, (((s.setWindow i (s.window i).released).setPool p).setLink o
      { s.link o with toRelease := (s.link o).toRelease - 1 }).link k =
        if k = o then { s.link o with toRelease := (s.link o).toRelease - 1 } else s.link k :=
    fun k => State.link_setLink _ o k _
  have hevents : ∀ k, (((s.setWindow i (s.window i).released).setPool p).setLink o
      { s.link o with toRelease := (s.link o).toRelease - 1 }).eventsOf k = s.eventsOf k := fun _ => rfl
  have hstamp : ∀ j, (((s.setWindow i (s.window i).released).setPool p).setLink o
      { s.link o with toRelease := (s.link o).toRelease - 1 }).stamp j = s.stamp j := fun _ => rfl
  have hqueue : ∀ k, (((s.setWindow i (s.window i).released).setPool p).setLink o
      { s.link o with toRelease := (s.link o).toRelease - 1 }).queue k = s.queue k := fun _ => rfl
  have hengine : ∀ k, (((s.setWindow i (s.window i).released).setPool p).setLink o
      { s.link o with toRelease := (s.link o).toRelease - 1 }).ownsEngine k = s.ownsEngine k := fun _ => rfl
  generalize ((s.setWindow i (s.window i).released).setPool p).setLink o _ = t at hwindow hlink hevents hstamp hqueue hengine ⊢
  have hstate : ∀ k, (t.link k).state = (s.link k).state := fun k => by
    rw [hlink]
    split
    · rename_i hk
      rw [hk]
    · rfl
  have hup : ∀ k, t.isUp k = s.isUp k := fun k => State.isUp_eq_of_state (hstate k)
  have hself : t.window i = (s.window i).released := by rw [hwindow, if_pos rfl]
  have hother : ∀ j, j ≠ i → t.window j = s.window j := fun j hj => by rw [hwindow, if_neg hj]
  have hkept : ∀ j, (t.window j).state ≠ .free → j ≠ i := by
    rintro j hj rfl
    rw [hself] at hj
    exact hj rfl
  refine ⟨fun j => ?_, fun j k hc ho hk => ?_, fun j k hc ho hk => ?_, fun k hk => ?_, fun k hk j => ?_, fun k hk => ?_,
    fun k hk => ?_, fun k hk => ?_, fun k hk => ⟨fun j => ?_, ?_⟩⟩
  · by_cases hj : j = i
    · subst hj
      rw [hself]
      exact ⟨fun _ => rfl, fun _ => rfl⟩
    · rw [hother j hj]
      exact h.freeOwnerless j
  · have hj := hkept j (by rw [hc]; nofun)
    rw [hother j hj] at hc ho ⊢
    exact h.closingInUp j k hc ho (hup k ▸ hk)
  · have hj := hkept j (by rw [hc]; nofun)
    rw [hother j hj] at hc ho ⊢
    exact h.closingInTeardown j k hc ho (hstate k ▸ hk)
  · rw [hevents]
    exact h.eventsInUp k (hup k ▸ hk)
  · rw [hstamp]
    exact h.stampsInUp k (hup k ▸ hk) j
  · rw [hqueue, hengine]
    exact h.jobsInUp k (hup k ▸ hk)
  · have hcount := State.ownedWindows_change i hother k
    have hwaits := h.awaitedWindows k (hstate k ▸ hk)
    have hnone : (t.window i).owner = none := by rw [hself]; rfl
    rw [hnone, howner, hclosing] at hcount
    rw [hlink]
    by_cases hko : k = o
    · subst hko
      rw [if_pos rfl]
      simp only [ne_eq, reduceCtorEq, not_false_eq_true, and_self, if_true, false_and, if_false] at hcount
      simp only
      omega
    · rw [if_neg hko, hwaits]
      simpa [Ne.symm hko] using hcount.symm
  · have hpending : (t.link k).jobPending = (s.link k).jobPending := by
      rw [hlink]
      split
      · rename_i hk
        rw [hk]
      · rfl
    rw [hengine, hpending]
    exact h.awaitedJob k (hstate k ▸ hk)
  · by_cases hj : j = i
    · subst hj
      rw [hself]
      nofun
    · rw [hother j hj]
      exact (h.nothingInDown k (hstate k ▸ hk)).1 j
  · rw [hqueue]
    exact (h.nothingInDown k (hstate k ▸ hk)).2

/-- A window of a link that is UP is released: nothing that the law reads of other links changes. -/
theorem State.setWindow_released_steady {i : Slot} {o : Link} (howner : (s.window i).owner = some o)
    (hup : s.isUp o = true) (p : Pool) : s.Steady ((s.setWindow i (s.window i).released).setPool p) := by
  have hwindow : ∀ j, ((s.setWindow i (s.window i).released).setPool p).window j =
      if j = i then (s.window i).released else s.window j := fun j => State.window_setWindow s i j _
  have hne : ∀ l, s.isUp l = false → o ≠ l := by
    rintro l hl rfl
    rw [hup] at hl
    cases hl
  refine ⟨fun j => ?_, fun j l hl => ?_, fun j hc => ?_, fun _ => rfl, fun _ => rfl, fun _ => rfl, fun _ _ => rfl,
    fun _ _ _ h => h, fun _ _ => .inr rfl, fun _ _ => rfl⟩ <;> rw [hwindow] at *
  · split
    · exact .inl ⟨fun _ => rfl, fun _ => rfl⟩
    · exact .inr ⟨rfl, Iff.rfl⟩
  · split
    · rename_i hj
      subst hj
      rw [howner]
      exact ⟨nofun, fun h => absurd (Option.some.inj h) (hne l hl)⟩
    · exact Iff.rfl
  · split at hc
    · cases hc
    · rename_i hj
      rw [if_neg hj]
      exact .inl ⟨hc, rfl, rfl⟩

theorem State.handReserved_steady (s : State) (l : Link) (e : Event) : s.Steady (s.handReserved l e) :=
  State.steady_of_told (.of_eq (by simp)) (by simp) (s.handReserved_told l e)
    (.of_eq (by simp) (by simp) (by simp))

theorem State.SessionHeld.release (h : s.SessionHeld unreported) {i : Slot} (hclosing : (s.window i).state = .closing) :
    (s.release i).SessionHeld unreported := by
  cases howner : (s.window i).owner with
  | none =>
    have hfree := (h.freeOwnerless i).2 howner
    rw [hclosing] at hfree
    cases hfree
  | some o =>
    cases hstate : (s.link o).state with
    | down => exact absurd howner ((h.nothingInDown o hstate).1 i)
    | up =>
      have hup : s.isUp o = true := State.isUp_iff.2 hstate
      have hreason := h.closingInUp i o hclosing howner hup
      unfold State.release
      dsimp only
      rw [howner, hreason]
      exact h.steady ((State.setWindow_released_steady howner hup _).trans (State.handReserved_steady _ _ _))
    | teardown =>
      have hreason := h.closingInTeardown i o hclosing howner hstate
      unfold State.release
      dsimp only
      rw [howner, hreason]
      exact (h.released hclosing howner hstate _).endTest o

theorem State.SessionHeld.releaseTest (h : s.SessionHeld unreported) (i : Slot) :
    (s.releaseTest i).SessionHeld unreported := by
  rw [State.releaseTest_eq]
  split
  · rename_i htest
    exact h.release htest.1
  · exact h

theorem State.SessionHeld.foldl_releaseTest (h : s.SessionHeld unreported) (is : List Slot) :
    (is.foldl State.releaseTest s).SessionHeld unreported :=
  foldl_keeps (fun t : State => t.SessionHeld unreported) State.releaseTest (fun _ i ht => ht.releaseTest i) is h

end

end Sys2Proof.Machine
end

section
/-! The law of the sessions at job ends, closes, frame starts and the start of a teardown. -/

namespace Sys2Proof.Machine

open Sys2Proof

section
variable {s : State} {unreported : Option Link}

/-! ### Job ends -/

/-- The report of a job's end brings a teardown record up to date (R93). -/
theorem State.SessionHeld.reportJobEnd {l : Link} (h : s.SessionHeld (some l)) (hidle : s.engine = none) :
    (s.reportJobEnd l).SessionHeld none := by
  unfold State.reportJobEnd
  refine State.SessionHeld.endTest ?_ l
  have hlink := fun k => State.link_setLink s l k { s.link l with jobPending := false }
  have hstate : ∀ k, ((s.setLink l { s.link l with jobPending := false }).link k).state = (s.link k).state := fun k => by
    rw [hlink]
    split
    · rename_i hk
      rw [hk]
    · rfl
  have hup : ∀ k, (s.setLink l { s.link l with jobPending := false }).isUp k = s.isUp k := fun k =>
    State.isUp_eq_of_state (hstate k)
  have hidle' : ∀ k, s.ownsEngine k = false := fun k => by rw [State.ownsEngine, hidle]; rfl
  refine ⟨h.freeOwnerless, fun i k hc ho hk => h.closingInUp i k hc ho (hup k ▸ hk),
    fun i k hc ho hk => h.closingInTeardown i k hc ho (hstate k ▸ hk), fun k hk => h.eventsInUp k (hup k ▸ hk),
    fun k hk => h.stampsInUp k (hup k ▸ hk), fun k hk => h.jobsInUp k (hup k ▸ hk), fun k hk => ?_, fun k hk => ?_,
    fun k hk => h.nothingInDown k (hstate k ▸ hk)⟩
  · rw [hstate] at hk
    have hwaits := h.awaitedWindows k hk
    rw [hlink]
    split
    · rename_i heq
      rw [heq] at hwaits ⊢
      exact hwaits
    · exact hwaits
  · rw [hstate] at hk
    have hpending := h.awaitedJob k hk
    rw [hidle' k] at hpending
    rw [hlink]
    show _ = (s.ownsEngine k || _)
    rw [hidle' k]
    split
    · rfl
    · rename_i hne
      rw [hpending]
      simp [Ne.symm hne]

/-- Where the link is not in TEARDOWN there is nothing to report. -/
theorem State.SessionHeld.unreported_none {l : Link} (h : s.SessionHeld (some l)) (hl : (s.link l).state ≠ .teardown) :
    s.SessionHeld none := by
  refine ⟨h.freeOwnerless, h.closingInUp, h.closingInTeardown, h.eventsInUp, h.stampsInUp, h.jobsInUp, h.awaitedWindows,
    fun k hk => ?_, h.nothingInDown⟩
  rw [h.awaitedJob k hk]
  have hne : l ≠ k := by
    rintro rfl
    exact hl hk
  simp [hne]

/-- The job in flight has left its queue and the engine; its end is still to be reported. -/
theorem State.SessionHeld.leaveEngine {g : InFlight} (h : s.SessionHeld none) (hengine : s.engine = some g)
    (j : Job) (e : Ending) (pixels : List Pixel) :
    ((s.completeHead g.link j e pixels).setEngine none).SessionHeld (some g.link) := by
  have hlast : s.isUp g.link = false → (s.queue g.link).entries.tail = [] := fun hup => by
    by_cases hentries : (s.queue g.link).entries = []
    · rw [hentries]
      rfl
    · rw [← List.length_eq_zero_iff, List.length_tail, (h.jobsInUp g.link hup hentries).2.1]
  have hcompleted := h.steady (State.completeHead_steady hlast j e pixels)
  have hqueue := s.completeHead_queue g.link j e pixels
  have hengine' : (s.completeHead g.link j e pixels).engine = some g := by simp [hengine]
  have hup := (State.completeHead_steady hlast j e pixels).isUp
  generalize s.completeHead g.link j e pixels = c at hcompleted hqueue hengine' hup ⊢
  have howns : ∀ k, c.ownsEngine k = decide (g.link = k) := fun k => by rw [State.ownsEngine, hengine']; rfl
  have hidle : ∀ k, (c.setEngine none).ownsEngine k = false := fun _ => rfl
  refine ⟨hcompleted.freeOwnerless, hcompleted.closingInUp, hcompleted.closingInTeardown, hcompleted.eventsInUp,
    hcompleted.stampsInUp, fun k hk hentries => ?_, hcompleted.awaitedWindows, fun k hk => ?_, hcompleted.nothingInDown⟩
  · have hown := (hcompleted.jobsInUp k hk hentries).2.2
    rw [howns, decide_eq_true_eq] at hown
    subst hown
    refine absurd ?_ hentries
    show (c.queue g.link).entries = []
    rw [hqueue]
    refine hlast ?_
    rw [← hup]
    exact hk
  · have hpending := hcompleted.awaitedJob k hk
    rw [howns] at hpending
    rw [hidle]
    show (c.link k).jobPending = _
    rw [hpending]
    simp

theorem State.SessionHeld.completeInFlight {f g : InFlight} (h : s.SessionHeld none) (hengine : s.engine = some g)
    (hlink : f.link = g.link) (e : Ending) : (s.completeInFlight f e).SessionHeld none := by
  have hleft := (h.leaveEngine hengine f.job e f.result).foldl_releaseTest f.slots
  unfold State.completeInFlight
  rw [hlink]
  dsimp only
  have hidle : (f.slots.foldl State.releaseTest ((s.completeHead g.link f.job e f.result).setEngine none)).engine = none := by
    simp
  generalize f.slots.foldl State.releaseTest ((s.completeHead g.link f.job e f.result).setEngine none) = tested
    at hleft hidle ⊢
  split
  · exact hleft.reportJobEnd hidle
  · rename_i hstate
    exact hleft.unreported_none hstate

theorem State.SessionHeld.endRow {f : InFlight} (h : s.SessionHeld none) (hf : s.engine = some f) :
    (s.endRow f).SessionHeld none := by
  unfold State.endRow
  dsimp only
  have hdrawn : (s.drawRow f).SessionHeld none := h.steady (State.steady_of_same rfl rfl rfl rfl rfl rfl)
  have hengine : (s.drawRow f).engine = some f := hf
  generalize s.drawRow f = d at hdrawn hengine ⊢
  have hcompletes : ∀ e, ((d.completeInFlight f.rowEnded e).schedule f.link).SessionHeld none := fun e =>
    (hdrawn.completeInFlight (f := f.rowEnded) hengine rfl e).schedule f.link
  (repeat' split)
  · exact hcompletes _
  · exact hcompletes _
  · refine hdrawn.steady (State.steady_of_told (.of_eq rfl) rfl (.of_same rfl rfl)
      ⟨fun _ _ _ h => h, fun _ _ => .inr rfl, fun k _ => ?_⟩)
    rw [State.ownsEngine, State.ownsEngine, hengine]
    rfl

/-! ### Closes -/

/-- The job in flight belongs to the same link when it is asked to end. -/
theorem State.ownsEngine_map {s t : State} {g : InFlight → InFlight} (ht : t.engine = s.engine.map g)
    (hg : ∀ f, (g f).link = f.link) (l : Link) : t.ownsEngine l = s.ownsEngine l := by
  rw [State.ownsEngine, State.ownsEngine, ht]
  cases s.engine <;> simp [hg]

/-- A link that is UP closes a window of its own. -/
theorem State.SessionHeld.enterClosing (h : s.SessionHeld unreported) {i : Slot} {o : Link}
    (howner : (s.window i).owner = some o) (hup : s.isUp o = true) :
    (s.enterClosing i .owner).SessionHeld unreported := by
  unfold State.enterClosing
  dsimp only
  refine State.SessionHeld.releaseTest (h.steady ?_) i
  have htold : s.Told (((((s.setStack (s.stack.filter fun j => decide (j ≠ i))).setWindow i
      ((s.window i).closed .owner)).cancelPresent (s.window i)).cancelCaptures ⟨i, (s.window i).gen⟩
        (decide (CloseReason.owner = .owner)))) :=
    State.Told.after ((State.cancelPresent_told _ _).trans (State.cancelCaptures_told _ _ _)) rfl rfl
  generalize hcancelled : (((s.setStack (s.stack.filter fun j => decide (j ≠ i))).setWindow i
      ((s.window i).closed .owner)).cancelPresent (s.window i)).cancelCaptures ⟨i, (s.window i).gen⟩
        (decide (CloseReason.owner = .owner)) = told at htold ⊢
  have hwindow : ∀ j, told.window j = if j = i then (s.window i).closed .owner else s.window j := fun j => by
    rw [← hcancelled]
    simp [State.window_setWindow]
  have hlinks : told.links = s.links := by rw [← hcancelled]; simp
  have hstamps : told.stamps = s.stamps := by rw [← hcancelled]; simp
  have hqueues : told.queues = s.queues := by rw [← hcancelled]; simp
  have hengine : told.engine = s.engine := by rw [← hcancelled]; simp
  have hne : ∀ l, s.isUp l = false → (s.window i).owner ≠ some l := fun l hl heq => by
    obtain rfl : o = l := Option.some.inj (howner.symm.trans heq)
    rw [hup] at hl
    cases hl
  refine ⟨fun j => ?_, fun j l hl => ?_, fun j hc => ?_, fun l => by rw [State.link_setEngine, State.link, hlinks]; rfl,
    fun l => by rw [State.link_setEngine, State.link, hlinks]; rfl,
    fun l => by rw [State.link_setEngine, State.link, hlinks]; rfl, htold.quiet,
    fun k l _ hk => by rwa [State.stamp_setEngine, State.stamp, hstamps] at hk,
    fun l _ => .inr (by rw [State.queue_setEngine, State.queue, hqueues]; rfl),
    fun l _ => State.ownsEngine_map (by rw [State.setEngine_engine, hengine])
      (fun _ => InFlight.windowCloses_link _ _) l⟩ <;> rw [State.window_setEngine, hwindow] at *
  · split
    · refine .inl ⟨nofun, fun hnone => ?_⟩
      have hclosed : (s.window i).owner = none := hnone
      rw [howner] at hclosed
      cases hclosed
    · exact .inr ⟨rfl, Iff.rfl⟩
  · split
    · rename_i hj
      subst hj
      exact Iff.rfl
    · exact Iff.rfl
  · split
    · exact .inr ⟨rfl, hne⟩
    · rename_i hj
      rw [if_neg hj] at hc
      exact .inl ⟨hc, rfl, rfl⟩

/-! ### Frame starts -/

theorem State.takeFlip_steady (s : State) (i : Slot) : s.Steady (s.takeFlip i) := by
  unfold State.takeFlip
  split
  · have hflipped : s.Steady (s.setWindow i (s.window i).flipped) :=
      State.steady_of_told (State.sameHolders_setWindow (Window.Refreshed.sameHolder (by
        unfold Window.flipped Window.Refreshed
        (repeat' split) <;> rfl))) rfl (.of_same rfl rfl) (.of_eq rfl rfl rfl)
    exact hflipped.trans (State.steady_of_told (.of_eq (by simp)) (by simp) (State.handPresented_told _ _ _)
      (.of_eq (by simp) (by simp) (by simp)))
  · exact .refl s

theorem State.markGlass_steady (s : State) : s.Steady s.markGlass := by
  have hevents : s.markGlass.events = s.events := by simp only [State.markGlass]
  refine State.steady_of_told (fun i => ?_) s.markGlass_links (.of_same hevents s.markGlass_links)
    (.of_eq (by simp only [State.markGlass]) (by simp only [State.markGlass]) (by simp only [State.markGlass]))
  rw [State.markGlass_window]
  exact ⟨rfl, Iff.rfl, fun h => ⟨h, rfl⟩⟩

theorem State.noticeFrame_steady (s : State) (l : Link) : s.Steady (s.noticeFrame l) :=
  State.steady_of_told (.of_eq (by simp)) (by simp) (s.noticeFrame_told l) (.of_eq (by simp) (by simp) (by simp))

theorem State.SessionHeld.frameParts (h : s.SessionHeld unreported) : s.frameParts.SessionHeld unreported := by
  unfold State.frameParts
  dsimp only
  have hcounted : s.Steady (s.setScanout s.scanout.counted) := State.steady_of_same rfl rfl rfl rfl rfl rfl
  have hflipped := hcounted.trans (State.Steady.foldl State.takeFlip_steady (List.finRange 32) _)
  generalize (List.finRange 32).foldl State.takeFlip (s.setScanout s.scanout.counted) = flipped at hflipped ⊢
  have hlatched : s.Steady flipped.latch := hflipped.trans (State.steady_of_same rfl rfl rfl rfl rfl rfl)
  have hmarked := h.steady (hlatched.trans flipped.latch.markGlass_steady)
  have hreleased : flipped.latch.updateMarks.SessionHeld unreported := hmarked.foldl_releaseTest _
  exact hreleased.steady (State.Steady.foldl State.noticeFrame_steady allLinks _)

end

end Sys2Proof.Machine
end

section
/-! Every step keeps the law of the sessions (O59). -/

namespace Sys2Proof.Machine

open Sys2Proof

/-! ### The windows at the start of a teardown -/

/-- What the start of a teardown leaves of a window: another link's stays, one of the link's is released or waits as CLOSING. -/
inductive Window.AtTeardown (w v : Window) (l : Link) (named : Bool) : Prop where
  | other : w.owner ≠ some l → v.owner = w.owner → v.state = w.state → v.closeReason = w.closeReason → AtTeardown w v l named
  | released : w.owner = some l → (w.live && (!w.onGlass && !named)) = true → v.owner = none → v.state = .free →
      AtTeardown w v l named
  | waits : w.owner = some l → (w.live && (!w.onGlass && !named)) = false → v.owner = some l → v.state = .closing →
      v.closeReason = some .teardown → AtTeardown w v l named

theorem Window.atTeardown {w : Window} (hfree : w.state = .free ↔ w.owner = none) (l : Link) (named : Bool) :
    w.AtTeardown ((w.withoutGrant l).tornDown l named) l named := by
  by_cases howner : w.owner = some l
  · have hsame : w.withoutGrant l = w := by simp [Window.withoutGrant, howner]
    rw [hsame, Window.tornDown, if_pos howner]
    by_cases hlive : w.live = true
    · rw [if_pos hlive, Window.closes]
      cases hglass : w.onGlass <;> cases named
      · exact .released howner (by simp [hlive, hglass]) rfl rfl
      all_goals exact .waits howner (by simp [hglass]) howner rfl rfl
    · rw [if_neg hlive]
      have hclosing : w.state = .closing := by
        cases hstate : w.state with
        | free =>
          rw [hfree.1 hstate] at howner
          cases howner
        | hidden => exact absurd (Window.live_iff.2 (.inl hstate)) hlive
        | shown => exact absurd (Window.live_iff.2 (.inr hstate)) hlive
        | closing => rfl
      rw [if_pos hclosing]
      exact .waits howner (by simp [hlive]) howner hclosing rfl
  · rw [Window.tornDown, Window.withoutGrant_eq, if_neg howner]
    exact .other howner rfl rfl rfl

/-- The elements that meet a condition, less those that meet a stronger one. -/
theorem countP_sub {α : Type} {p q r : α → Bool} (xs : List α) (h : ∀ x ∈ xs, p x = (q x && !r x))
    (hr : ∀ x ∈ xs, r x = true → q x = true) : xs.countP p = xs.countP q - xs.countP r := by
  have hsum : xs.countP p + xs.countP r = xs.countP q := by
    induction xs with
    | nil => rfl
    | cons x xs ih =>
      have hx := h x List.mem_cons_self
      have hrx := hr x List.mem_cons_self
      have := ih (fun y hy => h y (List.mem_cons_of_mem _ hy)) fun y hy => hr y (List.mem_cons_of_mem _ hy)
      rw [List.countP_cons, List.countP_cons, List.countP_cons, hx]
      cases hqx : q x <;> cases hrx' : r x <;> simp_all <;> omega
  omega

section
variable {s : State}

theorem State.startTeardown_atTeardown (h : s.SessionHeld none) (l : Link) (reason : EndReason) (i : Slot) :
    (s.window i).AtTeardown ((s.startTeardown l reason).window i) l (s.namedInFlight ⟨i, (s.window i).gen⟩) := by
  rw [State.startTeardown_window]
  exact Window.atTeardown (h.freeOwnerless i) l _

theorem State.startTeardown_ownedWindows (h : s.SessionHeld none) (l : Link) (reason : EndReason) :
    (s.startTeardown l reason).ownedWindows l = s.awaitedWindows l := by
  rw [State.awaitedWindows_eq, State.releasedAtEnd_eq, ← List.countP_eq_length_filter]
  refine countP_sub _ (fun i _ => ?_) fun i _ hi => ?_
  · have hused : ∀ {o}, (s.window i).owner = some o → (s.window i).state ≠ .free := fun ho hf => by
      rw [(h.freeOwnerless i).1 hf] at ho
      cases ho
    unfold State.releasesAtEnd State.unused
    cases s.startTeardown_atTeardown h l reason i with
    | other hother howner hstate _ => simp [howner, hother]
    | released howner hreleased hnone hfree => simp [hnone, howner, hreleased]
    | waits howner hwaits howner' hclosing _ => simp [howner', hclosing, howner, hused howner, hwaits]
  · unfold State.releasesAtEnd at hi
    simp only [Bool.and_eq_true, decide_eq_true_eq, Window.live_iff] at hi ⊢
    obtain ⟨⟨howner, hlive⟩, -⟩ := hi
    exact ⟨howner, by rcases hlive with hlive | hlive <;> simp [hlive]⟩

theorem State.startTeardown_owner {l : Link} {reason : EndReason} {i : StampSlot} {k : Link}
    (howner : ((s.startTeardown l reason).stamp i).owner = some k) : k ≠ l ∧ (s.stamp i).owner = some k := by
  unfold State.startTeardown at howner
  dsimp only at howner
  generalize (s.link l).torn reason (s.ownedWindows l) (s.ownsEngine l) = torn at howner
  have hdropped : ∀ n, (((s.setLink l torn).dropEvents l).stamp n) = s.stamp n := fun n => by simp
  generalize (s.setLink l torn).dropEvents l = dropped at howner hdropped
  have hjobs : ∀ n, ((dropped.dropJobs l).stamp n).owner = some k → (dropped.stamp n).owner = some k := fun n => by
    unfold State.dropJobs
    dsimp only
    rw [State.stamp_setEngine]
    refine foldl_keeps (fun t : State => (t.stamp n).owner = some k → (dropped.stamp n).owner = some k)
      State.releaseStampOf (fun t j ht hn => ht ?_) _ id
    rw [State.releaseStampOf] at hn
    split at hn
    · exact State.releaseReference_owner hn
    · exact hn
  simp only [State.endTest_frame, State.teardownWindows_frame, State.orphanStamps_stamp] at howner
  split at howner
  · rename_i hown
    unfold Stamp.orphaned at howner
    split at howner <;> cases howner
  · rename_i hown
    refine ⟨?_, hdropped i ▸ hjobs i howner⟩
    rintro rfl
    exact hown howner

theorem State.ownsEngine_eq_flight (s : State) (l : Link) :
    s.ownsEngine l = s.flight.any fun g => decide (g.1 = l) := by
  unfold State.ownsEngine State.flight
  cases s.engine <;> rfl

theorem State.SessionHeld.startTeardown (h : s.SessionHeld none) (hjobs : JobLaw s) (l : Link) (reason : EndReason) :
    (s.startTeardown l reason).SessionHeld none := by
  have hwindow := s.startTeardown_atTeardown h l reason
  have hlink := s.startTeardown_link_eq l reason
  have hup := s.startTeardown_isUp l reason
  obtain ⟨hown, hothers⟩ := s.startTeardown_events l reason
  have hqueue := s.startTeardown_queue l reason
  have hengine : ∀ k, (s.startTeardown l reason).ownsEngine k = s.ownsEngine k := fun k => by
    rw [State.ownsEngine_eq_flight, State.ownsEngine_eq_flight, s.startTeardown_flight]
  have hstamps := fun i k => State.startTeardown_owner (s := s) (l := l) (reason := reason) (i := i) (k := k)
  have howned := s.startTeardown_ownedWindows h l reason
  have hsteady : ∀ k, k ≠ l → (s.startTeardown l reason).ownedWindows k = s.ownedWindows k := fun k hk => by
    unfold State.ownedWindows
    refine List.countP_congr fun i _ => ?_
    cases hwindow i with
    | other _ howner hstate _ => rw [howner, hstate]
    | released howner _ hnone _ => simp [hnone, howner, Ne.symm hk]
    | waits howner _ howner' _ _ => simp [howner', howner, Ne.symm hk]
  generalize s.startTeardown l reason = t at hwindow hlink hup hown hothers hqueue hengine hstamps howned hsteady ⊢
  have hself := (hlink l).trans (if_pos rfl)
  have hother : ∀ k, k ≠ l → t.link k = s.link k := fun k hk => (hlink k).trans (if_neg hk)
  have hupOther : ∀ k, t.isUp k = true → k ≠ l ∧ s.isUp k = true := fun k hk => by
    rw [hup] at hk
    split at hk
    · cases hk
    · rename_i hne
      exact ⟨hne, hk⟩
  have hdownOther : ∀ k, k ≠ l → t.isUp k = false → s.isUp k = false := fun k hk hd => by rwa [hup, if_neg hk] at hd
  have hkept : s.keptEntries l ≠ [] → (s.queue l).head = .inFlight ∧ (s.keptEntries l).length = 1 := fun hne => by
    rw [State.keptEntries_eq] at hne ⊢
    split at hne
    · rename_i hhead
      rw [if_pos hhead]
      refine ⟨hhead, ?_⟩
      cases hentries : (s.queue l).entries with
      | nil =>
        rw [hentries] at hne
        exact absurd rfl hne
      | cons j rest => rfl
    · exact absurd rfl hne
  have hflies : s.keptEntries l ≠ [] → s.ownsEngine l = true := fun hne =>
    State.ownsEngine_iff.2 ((hjobs.flightHead l).1 (hkept hne).1)
  refine ⟨fun i => ?_, fun i k hc ho hk => ?_, fun i k hc ho hk => ?_, fun k hk => ?_, fun k hk i hi => ?_,
    fun k hk hentries => ?_, fun k hk => ?_, fun k hk => ?_, fun k hk => ?_⟩
  case refine_1 =>
    cases hwindow i with
    | other _ howner hstate _ => rw [howner, hstate, h.freeOwnerless]
    | released _ _ hnone hfree => simp [hnone, hfree]
    | waits _ _ howner hclosing _ => simp [howner, hclosing]
  case refine_2 =>
    obtain ⟨hne, hk'⟩ := hupOther k hk
    cases hwindow i with
    | other _ howner hstate hreason =>
      rw [hreason]
      exact h.closingInUp i k (hstate ▸ hc) (howner ▸ ho) hk'
    | released _ _ hnone _ => rw [hnone] at ho; cases ho
    | waits _ _ howner _ _ =>
      rw [howner] at ho
      exact absurd (Option.some.inj ho).symm hne
  case refine_3 =>
    cases hwindow i with
    | other hne howner hstate hreason =>
      have hkl : k ≠ l := by
        rintro rfl
        exact hne (howner ▸ ho)
      rw [hreason]
      rw [hother k hkl] at hk
      exact h.closingInTeardown i k (hstate ▸ hc) (howner ▸ ho) hk
    | released _ _ hnone _ => rw [hnone] at ho; cases ho
    | waits _ _ _ _ hreason => exact hreason
  case refine_4 =>
    by_cases hkl : k = l
    · rw [hkl, hown]
      exact ⟨rfl, rfl⟩
    · have hk' := hdownOther k hkl hk
      rw [(hothers k hkl).2 hk']
      exact h.eventsInUp k hk'
  case refine_5 =>
    obtain ⟨hkl, howner⟩ := hstamps i k hi
    exact h.stampsInUp k (hdownOther k hkl hk) i howner
  case refine_6 =>
    rw [hengine]
    rw [hqueue] at hentries ⊢
    by_cases hkl : k = l
    · subst hkl
      rw [if_pos rfl] at hentries ⊢
      exact ⟨if_neg hentries, (hkept hentries).2, hflies hentries⟩
    · rw [if_neg hkl] at hentries ⊢
      exact h.jobsInUp k (hdownOther k hkl hk) hentries
  case refine_7 =>
    by_cases hkl : k = l
    · subst hkl
      rw [howned, hself]
    · rw [hsteady k hkl]
      rw [hother k hkl] at hk ⊢
      exact h.awaitedWindows k hk
  case refine_8 =>
    rw [hengine]
    by_cases hkl : k = l
    · subst hkl
      rw [hself]
      simp
    · rw [hother k hkl] at hk ⊢
      exact h.awaitedJob k hk
  case refine_9 =>
    by_cases hkl : k = l
    · subst hkl
      rw [hself] at hk
      dsimp only at hk
      split at hk
      · rename_i hnothing
        refine ⟨fun i hi => ?_, ?_⟩
        · have hnone := howned.trans hnothing.1
          rw [State.ownedWindows, List.countP_eq_zero] at hnone
          refine hnone i (mem_finRange i) ?_
          cases hwindow i with
          | other hne howner _ _ => exact absurd (howner ▸ hi) hne
          | released _ _ hnone' _ => rw [hnone'] at hi; cases hi
          | waits _ _ howner hclosing _ => simp [howner, hclosing]
        · rw [hqueue, if_pos rfl]
          by_contra hne
          rw [hflies hne] at hnothing
          cases hnothing.2
      · cases hk
    · rw [hother k hkl] at hk
      obtain ⟨hnone, hempty⟩ := h.nothingInDown k hk
      refine ⟨fun i hi => ?_, by rw [hqueue, if_neg hkl]; exact hempty⟩
      cases hwindow i with
      | other _ howner _ _ => exact hnone i (howner ▸ hi)
      | released _ _ hnone' _ => rw [hnone'] at hi; cases hi
      | waits _ _ howner _ _ =>
        rw [howner] at hi
        exact hkl (Option.some.inj hi).symm

end

end Sys2Proof.Machine
end

section
/-! Every step keeps the law of the sessions, beside that of the job queues (O59). -/

namespace Sys2Proof.Machine

open Sys2Proof

section
variable {s : State}

/-- A session begins on a link that held nothing. -/
theorem State.SessionHeld.beginSession (h : s.SessionHeld none) {l : Link} (hdown : (s.link l).state = .down) (seq : Byte)
    (lease : Nat) : (s.beginSession l seq lease).SessionHeld none := by
  have hself : ((s.beginSession l seq lease).link l).state = .up := by
    unfold State.beginSession
    dsimp only
    rw [State.link_setEvents, State.link_setLink_self]
    rfl
  have hother : ∀ k, k ≠ l → (s.beginSession l seq lease).link k = s.link k := fun k hk => by
    unfold State.beginSession
    dsimp only
    rw [State.link_setEvents, State.link_setLink, if_neg hk]
  have hevents : ∀ k, k ≠ l → (s.beginSession l seq lease).eventsOf k = s.eventsOf k := fun k hk => by
    unfold State.beginSession
    dsimp only
    rw [State.eventsOf_setEvents, if_neg hk]
    rfl
  have hwindow : ∀ i, (s.beginSession l seq lease).window i = s.window i := fun _ => rfl
  have hstamp : ∀ i, (s.beginSession l seq lease).stamp i = s.stamp i := fun _ => rfl
  have hqueue : ∀ k, (s.beginSession l seq lease).queue k = s.queue k := fun _ => rfl
  have hengine : ∀ k, (s.beginSession l seq lease).ownsEngine k = s.ownsEngine k := fun _ => rfl
  have howned : ∀ k, (s.beginSession l seq lease).ownedWindows k = s.ownedWindows k := fun _ => rfl
  generalize s.beginSession l seq lease = t at hself hother hevents hwindow hstamp hqueue hengine howned ⊢
  have hnone := (h.nothingInDown l hdown).1
  have hstate : ∀ k, (t.link k).state ≠ .up → k ≠ l := by
    rintro k hk rfl
    exact hk hself
  have hne : ∀ k, t.isUp k = false → k ≠ l := fun k hk => hstate k (State.isUp_eq_false_iff.1 hk)
  have hquiet : ∀ k, t.isUp k = false → s.isUp k = false := fun k hk => by
    have hstate' := State.isUp_eq_of_state (l := k) (congrArg LinkCtl.state (hother k (hne k hk)))
    exact hstate' ▸ hk
  refine ⟨fun i => ?_, fun i k hc ho hk => ?_, fun i k hc ho hk => ?_, fun k hk => ?_, fun k hk i => ?_, fun k hk => ?_,
    fun k hk => ?_, fun k hk => ?_, fun k hk => ?_⟩
  · rw [hwindow]
    exact h.freeOwnerless i
  · rw [hwindow] at hc ho ⊢
    have hkl : k ≠ l := by
      rintro rfl
      exact hnone i ho
    exact h.closingInUp i k hc ho
      ((State.isUp_eq_of_state (congrArg LinkCtl.state (hother k hkl))).symm.trans hk)
  · rw [hwindow] at hc ho ⊢
    have hkl := hstate k (by rw [hk]; nofun)
    rw [hother k hkl] at hk
    exact h.closingInTeardown i k hc ho hk
  · rw [hevents k (hne k hk)]
    exact h.eventsInUp k (hquiet k hk)
  · rw [hstamp]
    exact h.stampsInUp k (hquiet k hk) i
  · rw [hqueue, hengine]
    exact h.jobsInUp k (hquiet k hk)
  · have hkl := hstate k (by rw [hk]; nofun)
    rw [hother k hkl] at hk ⊢
    rw [howned]
    exact h.awaitedWindows k hk
  · have hkl := hstate k (by rw [hk]; nofun)
    rw [hother k hkl] at hk ⊢
    rw [hengine]
    exact h.awaitedJob k hk
  · have hkl := hstate k (by rw [hk]; nofun)
    rw [hother k hkl] at hk
    rw [hqueue]
    simp only [hwindow]
    exact h.nothingInDown k hk

/-! ### Changes that links that are UP make -/

theorem State.isUp_ne {l k : Link} (hup : s.isUp l = true) (hk : s.isUp k = false) : l ≠ k := by
  rintro rfl
  rw [hup] at hk
  cases hk

theorem State.setEvents_steady {l : Link} (hup : s.isUp l = true) (q : EventQueue) : s.Steady (s.setEvents l q) :=
  State.steady_of (.of_eq rfl) (fun _ => ⟨rfl, rfl, rfl⟩)
    (fun k hk => by rw [State.eventsOf_setEvents, if_neg (State.isUp_ne hup hk).symm]) (.of_eq rfl rfl rfl)

theorem State.setStamp_steady {i : StampSlot} {st : Stamp}
    (h : ∀ k, s.isUp k = false → st.owner = some k → (s.stamp i).owner = some k) : s.Steady (s.setStamp i st) := by
  refine State.steady_of_told (.of_eq rfl) rfl (.of_same rfl rfl)
    ⟨fun j k hk howner => ?_, fun _ _ => .inr rfl, fun _ _ => rfl⟩
  rw [State.stamp_setStamp] at howner
  split at howner
  · rename_i hj
    rw [hj]
    exact h k hk howner
  · exact howner

theorem State.openIn_steady {l : Link} (hup : s.isUp l = true) {i : Slot} (hnone : (s.window i).owner = none)
    (r : OpenRequest) : s.Steady (s.openIn l r i) := by
  have hwindow : ∀ j, (s.openIn l r i).window j = if j = i then (s.window i).opened l r s.pool.free else s.window j :=
    fun j => by
      unfold State.openIn
      simp only [State.takeReservation_frame, State.window_setPool, State.window_setWindow]
  have hlink : ∀ k, (s.openIn l r i).link k = s.link k := fun _ => rfl
  have hevents : ∀ k, k ≠ l → (s.openIn l r i).eventsOf k = s.eventsOf k := fun k hk => by
    unfold State.openIn State.takeReservation
    rw [State.eventsOf_setEvents, if_neg hk]
    rfl
  have hheld : s.SameHeld (s.openIn l r i) := .of_eq rfl rfl rfl
  generalize s.openIn l r i = t at hwindow hlink hevents hheld ⊢
  refine ⟨fun j => ?_, fun j k hk => ?_, fun j hc => ?_, fun k => by rw [hlink], fun k => by rw [hlink],
    fun k => by rw [hlink], fun k hk => hevents k (State.isUp_ne hup hk).symm, hheld.stamps, hheld.queues, hheld.engine⟩ <;>
    rw [hwindow] at *
  · split
    · exact .inl ⟨nofun, nofun⟩
    · exact .inr ⟨rfl, Iff.rfl⟩
  · split
    · rename_i hj
      rw [hj, hnone]
      exact ⟨fun ho => absurd (Option.some.inj ho) (State.isUp_ne hup hk), nofun⟩
    · exact Iff.rfl
  · split at hc
    · cases hc
    · rename_i hj
      rw [if_neg hj]
      exact .inl ⟨hc, rfl, rfl⟩

theorem State.setWindow_steady {i : Slot} {w : Window} (h : (s.window i).SameHolder w) : s.Steady (s.setWindow i w) :=
  State.steady_of_told (State.sameHolders_setWindow h) rfl (.of_same rfl rfl) (.of_eq rfl rfl rfl)

theorem State.setStack_steady (s : State) (is : List Slot) : s.Steady (s.setStack is) :=
  State.steady_of_same rfl rfl rfl rfl rfl rfl

theorem State.hidden_steady (s : State) (h : Handle) : s.Steady (s.hidden h) := by
  unfold State.hidden
  split
  · rename_i hshown
    have hset := (s.setStack_steady (s.stack.filter fun j => decide (j ≠ h.slot))).trans
      (State.setWindow_steady (i := h.slot) (w := { s.window h.slot with state := .hidden })
        ⟨rfl, ⟨nofun, fun hf => absurd (hshown.symm.trans hf) nofun⟩, nofun⟩)
    generalize (s.setStack (s.stack.filter fun j => decide (j ≠ h.slot))).setWindow h.slot _ = d at hset ⊢
    exact hset.trans (State.steady_of_told (.of_eq (by simp)) (by simp) (State.cancelCaptures_told _ _ _)
      (.of_eq (by simp) (by simp) (by simp)))
  · exact .refl s

theorem State.admitJob_steady {l : Link} (hup : s.isUp l = true) (j : Job) : s.Steady (s.admitJob l j) := by
  have hjoined : s.Steady (s.joinQueue l j) := by
    unfold State.joinQueue State.takeReservation
    generalize hset : s.setQueue l _ = t
    have hsteady : s.Steady t := hset ▸ State.setQueue_steady hup _
    exact hsteady.trans (State.setEvents_steady ((hsteady.isUp l).trans hup) _)
  show s.Steady ((s.joinQueue l j).referStamp j.op)
  refine hjoined.trans ?_
  unfold State.referStamp
  split
  · exact State.setStamp_steady fun _ _ h => h
  · exact .refl _

theorem State.transmit_steady (s : State) (l : Link) : s.Steady (s.transmit l) := by
  unfold State.transmit
  dsimp only
  split
  · split
    · exact State.steady_setLink rfl rfl rfl
    · split
      · rename_i hup
        split
        · generalize hset : s.setLink l _ = t
          have hsteady : s.Steady t := hset ▸ State.steady_setLink rfl rfl rfl
          exact hsteady.trans (State.setEvents_steady ((hsteady.isUp l).trans (State.isUp_iff.2 hup.1)) _)
        · exact .refl s
      · exact .refl s
  · exact .refl s
  · exact .refl s

theorem State.freeOrRetire_steady (s : State) (l : Link) (h : StampHandle) : s.Steady (s.freeOrRetire l h).state := by
  have howned : ∀ (t : State) n, t.Steady (t.setOwned l n) := fun t n => State.steady_of_same rfl rfl rfl rfl rfl rfl
  unfold State.freeOrRetire
  split
  · exact (State.setStamp_steady fun _ _ hf => by cases hf).trans (howned _ _)
  · exact State.setStamp_steady fun _ _ hr => hr

theorem State.shownAt_steady {h : Handle} (hfree : (s.window h.slot).state ≠ .free) (place : Placement) :
    s.Steady (s.shownAt h place) := by
  unfold State.shownAt
  exact (s.setStack_steady _).trans (State.setWindow_steady ⟨rfl, ⟨nofun, fun hf => absurd hf hfree⟩, nofun⟩)

/-- Records leave the queue of an UP link only: no other queue holds any. -/
theorem State.SessionHeld.retire (h : s.SessionHeld none) {l : Link} {seq : Half} {gone rest : List EventRecord}
    (hsplit : splitAcked seq (s.eventsOf l).records = some (gone, rest)) : (s.retire l gone rest).SessionHeld none := by
  have hup : s.isUp l = true := by
    by_contra hdown
    rw [Bool.not_eq_true] at hdown
    rw [(h.eventsInUp l hdown).1] at hsplit
    cases hsplit
  unfold State.retire
  generalize hset : s.setQueue l _ = t
  have hsteady : s.Steady t := hset ▸ State.setQueue_steady hup _
  exact h.steady (hsteady.trans (State.setEvents_steady ((hsteady.isUp l).trans hup) _))

end

/-! ### Every step -/

/-- The law of the sessions between two steps, beside that of the job queues. -/
def SessionAndJobs (s : State) : Prop := JobLaw s ∧ s.SessionHeld none

theorem sessionAndJobs_of_laws {s : State} (h : SessionLaw s) (hjobs : JobLaw s) : SessionAndJobs s :=
  ⟨hjobs, ((sessionLaw_iff hjobs).1 h).2⟩

theorem sessionAndJobs_kept : KeptByParts SessionAndJobs where
  answers s l r h hroom := ⟨jobLaw_kept.answers s l r h.1 hroom, h.2.steady (State.steady_setLink rfl rfl rfl)⟩
  renews s l h := ⟨jobLaw_kept.renews s l h.1, h.2.steady (State.steady_setLink rfl rfl rfl)⟩
  executes s l seq code status result h hroom hup :=
    ⟨jobLaw_kept.executes s l seq code status result h.1 hroom hup, h.2.steady (State.steady_setLink rfl rfl rfl)⟩
  transmits s l h := ⟨jobLaw_kept.transmits s l h.1, h.2.steady (s.transmit_steady l)⟩
  ends s l reason hreset h := ⟨jobLaw_kept.ends s l reason hreset h.1, (h.2.startTeardown h.1 l reason).scheduleAll⟩
  pinReset s pins h :=
    sessionAndJobs_of_laws (s.atReset_afterPinReset pins).sessionLaw (jobLaw_kept.pinReset s pins h.1)
  resetRelease s hreset h := ⟨jobLaw_kept.resetRelease s hreset h.1, h.2.steady (State.steady_of_same rfl rfl rfl rfl rfl rfl)⟩
  scrubs s page rest hreset hbusy hscrub h :=
    ⟨jobLaw_kept.scrubs s page rest hreset hbusy hscrub h.1, h.2.steady (State.steady_of_same rfl rfl rfl rfl rfl rfl)⟩
  begins s l seq lease h hdown hroom hlo hhi :=
    ⟨jobLaw_kept.begins s l seq lease h.1 hdown hroom hlo hhi, h.2.beginSession hdown seq lease⟩
  goodbye s l h hup := ⟨jobLaw_kept.goodbye s l h.1 hup, h.2.steady (State.steady_setLink rfl rfl rfl)⟩
  notify s l on h := ⟨jobLaw_kept.notify s l on h.1, h.2.steady (State.steady_setLink rfl rfl rfl)⟩
  idles s l h := ⟨jobLaw_kept.idles s l h.1, h.2.steady (State.steady_setLink rfl rfl rfl)⟩
  ticks s l h hreached := ⟨jobLaw_kept.ticks s l h.1 hreached, h.2.steady (State.steady_setLink rfl rfl rfl)⟩
  retires s l seq gone rest h hsplit := ⟨jobLaw_kept.retires s l seq gone rest h.1 hsplit, h.2.retire hsplit⟩
  resends s l h hup :=
    ⟨jobLaw_kept.resends s l h.1 hup, h.2.steady (State.setEvents_steady (State.isUp_iff.2 hup) _)⟩
  opens s l r i hreset h hup hpasses hslot :=
    ⟨jobLaw_kept.opens s l r i hreset h.1 hup hpasses hslot, h.2.steady (State.openIn_steady (State.isUp_iff.2 hup)
      ((h.2.freeOwnerless i).1 (State.freeSlot_eq_some hslot)) r)⟩
  closes s l g hreset h hup hpasses := by
    obtain ⟨-, -, -, howner⟩ := State.changeRefusal_eq_none hpasses
    exact ⟨jobLaw_kept.closes s l g hreset h.1 hup hpasses,
      (h.2.enterClosing howner (State.isUp_iff.2 hup)).scheduleAll⟩
  restyles s l g w h hpasses hw :=
    ⟨jobLaw_kept.restyles s l g w h.1 hpasses hw, h.2.steady (State.setWindow_steady hw.sameHolder)⟩
  shows s l g place h hpasses hplace := by
    obtain ⟨hfree, -, -, -⟩ := State.changeRefusal_eq_none hpasses
    exact ⟨jobLaw_kept.shows s l g place h.1 hpasses hplace, h.2.steady (State.shownAt_steady hfree place)⟩
  hides s l g h hpasses := ⟨jobLaw_kept.hides s l g h.1 hpasses, h.2.steady (s.hidden_steady g)⟩
  submits s l j h hup hpasses := ⟨jobLaw_kept.submits s l j h.1 hup hpasses,
    (h.2.steady (State.admitJob_steady (State.isUp_iff.2 hup) j)).schedule l⟩
  loads s l r i h hup hpasses hslot := by
    refine ⟨jobLaw_kept.loads s l r i h.1 hup hpasses hslot, h.2.steady ?_⟩
    have hloaded : s.Steady (s.setStamp i ((s.stamp i).loaded l r)) := State.setStamp_steady fun k hk howner =>
      absurd (Option.some.inj howner) (State.isUp_ne (State.isUp_iff.2 hup) hk)
    exact hloaded.trans (State.steady_of_same rfl rfl rfl rfl rfl rfl)
  reloads s l g data h hpasses :=
    ⟨jobLaw_kept.reloads s l g data h.1 hpasses, h.2.steady (State.setStamp_steady fun _ _ howner => howner)⟩
  frees s l g h hpasses := ⟨jobLaw_kept.frees s l g h.1 hpasses, h.2.steady (s.freeOrRetire_steady l g)⟩
  rowEnds s f hreset h hf := ⟨jobLaw_kept.rowEnds s f hreset h.1 hf, h.2.endRow hf⟩
  frameStarts s hreset h := ⟨jobLaw_kept.frameStarts s hreset h.1, h.2.frameParts.scheduleAll⟩
  reports s es h := ⟨jobLaw_kept.reports s es h.1,
    h.2.steady (State.steady_of_told (.of_eq (by simp)) (by simp) (s.applyReport_told es)
      (.of_eq (by simp) (by simp) (by simp)))⟩

/-- Settles O59: `sessionAndJobs_kept` beside `liveOwned_kept`. -/
theorem sessionLawKept : Obligations.SessionLawKept := fun s t hs hjobs ht => by
  obtain ⟨hjobs', hheld⟩ := sessionAndJobs_kept.step
    (fun s _ h => ⟨h.1.of_same rfl rfl, h.2.steady (State.steady_of_same rfl rfl rfl rfl rfl rfl)⟩)
    (sessionAndJobs_of_laws hs hjobs) ht
  exact (sessionLaw_iff hjobs').2
    ⟨liveOwned_kept.step (fun _ _ h => liveOwned_of_links h rfl rfl) hs.liveOwned ht, hheld⟩

end Sys2Proof.Machine
end

section
/-! The fields of the command payloads, read from their bytes (O9). -/

namespace Sys2Proof.Machine

open Sys2Proof

/-! ### Words and their bytes -/

theorem be16_hi_lo (v : BitVec 16) : be16 (hiByte v) (loByte v) = v := by
  have hbytes := bytesOf16_eq v
  simp only [bytesOf16, List.cons.injEq, and_true] at hbytes
  rw [be16_eq, hbytes.1, hbytes.2]
  apply BitVec.eq_of_toNat_eq
  have hv := v.isLt
  simp only [BitVec.toNat_ofNat]
  omega

theorem bytesOf16_cons (v : BitVec 16) : bytesOf16 v = [hiByte v, loByte v] := rfl

/-! ### The readers as conditions -/

theorem byte_eq_iff (b : Byte) (n : Nat) (h : n < 256) : b = BitVec.ofNat 8 n ↔ b.toNat = n := by
  rw [← BitVec.toNat_inj, BitVec.toNat_ofNat, Nat.mod_eq_of_lt h]

theorem bind_ranged {α : Type} (lo hi n : Nat) (f : Nat → Option α) :
    (ranged lo hi n).bind f = if lo ≤ n ∧ n ≤ hi then f n else none := by
  unfold ranged
  split <;> rfl

theorem bind_position {α : Type} (p : List Byte) (i : Nat) (f : Int → Option α) :
    (position p i).bind f = if -2048 ≤ fieldInt p i ∧ fieldInt p i ≤ 2047 then f (fieldInt p i) else none := by
  unfold position
  split <;> rfl

theorem windowHandle_cons {slot : Byte} (hs : slot.toNat < 32) (gen : Byte) (rest : List Byte) :
    windowHandle (slot :: gen :: rest) 0 = some ⟨⟨slot.toNat, hs⟩, gen⟩ := dif_pos hs

theorem windowHandle_eq_none {p : List Byte} {i : Nat} (h : 31 < field8 p i) : windowHandle p i = none :=
  dif_neg (by omega)

theorem binaryField_eq (p : List Byte) (i : Nat) :
    binaryField p i = if field8 p i ≤ 1 then some (decide (field8 p i = 1)) else none := by
  unfold binaryField
  generalize field8 p i = n
  match n with
  | 0 => rfl
  | 1 => rfl
  | n + 2 => exact (if_neg (by omega)).symm

theorem bind_binaryField {α : Type} (p : List Byte) (i : Nat) (f : Bool → Option α) :
    (binaryField p i).bind f = if field8 p i ≤ 1 then f (decide (p.getD i 0 = 1)) else none := by
  have hone : p.getD i 0 = 1 ↔ field8 p i = 1 := byte_eq_iff _ 1 (by decide)
  rw [binaryField_eq]
  simp only [hone]
  split <;> rfl

theorem bind_bufferingField {α : Type} (p : List Byte) (i : Nat) (f : Buffering → Option α) :
    (bufferingField p i).bind f =
      if field8 p i ≤ 1 then f (if p.getD i 0 = 0 then .single else .double) else none := by
  have hzero : p.getD i 0 = 0 ↔ field8 p i = 0 := byte_eq_iff _ 0 (by decide)
  rw [bufferingField, binaryField_eq]
  simp only [hzero]
  generalize field8 p i = n
  match n with
  | 0 => rfl
  | 1 => rfl
  | n + 2 => rfl

theorem atLeast_of_short {α : Type} {n : Nat} {p : List Byte} (h : p.length < n) (x : Option α) : atLeast n p x = none :=
  if_neg (by omega)

theorem atLeast_of_long {α : Type} {n : Nat} {p : List Byte} (h : n ≤ p.length) (x : Option α) : atLeast n p x = x :=
  if_pos h

theorem atLeast_none {α : Type} (n : Nat) (p : List Byte) : atLeast n p (none : Option α) = none := by
  unfold atLeast
  split <;> rfl

/-! ### Each command's fields -/

theorem openRequest_bytes (w h x y : BitVec 16) (tier buffering : Byte) (extra : List Byte) :
    openRequest (bytesOf16 w ++ bytesOf16 h ++ bytesOf16 x ++ bytesOf16 y ++ tier :: buffering :: extra) =
      if 1 ≤ w.toNat ∧ w.toNat ≤ 1024 ∧ 1 ≤ h.toNat ∧ h.toNat ≤ 1024 ∧ -2048 ≤ x.toInt ∧ x.toInt ≤ 2047 ∧
          -2048 ≤ y.toInt ∧ y.toInt ≤ 2047 ∧ tier.toNat ≤ 3 ∧ buffering.toNat ≤ 1 then
        some ⟨w.toNat, h.toNat, x.toInt, y.toInt, tier.toNat, if buffering = 0 then .single else .double⟩
      else none := by
  simp only [bytesOf16_cons, List.cons_append, List.nil_append]
  rw [openRequest, atLeast_of_long (by simp)]
  simp only [Option.bind_eq_bind, bind_ranged, bind_position, bind_bufferingField, fieldNat, fieldInt, field16, field8,
    List.getD_cons_succ, List.getD_cons_zero, be16_hi_lo, ite_and, Nat.zero_add, Nat.zero_le, if_true, Option.pure_def]

theorem moveRequest_bytes (slot gen : Byte) (x y : BitVec 16) (extra : List Byte) (hs : slot.toNat < 32) :
    moveRequest (slot :: gen :: bytesOf16 x ++ bytesOf16 y ++ extra) =
      if -2048 ≤ x.toInt ∧ x.toInt ≤ 2047 ∧ -2048 ≤ y.toInt ∧ y.toInt ≤ 2047 then
        some (⟨⟨slot.toNat, hs⟩, gen⟩, x.toInt, y.toInt)
      else none := by
  simp only [bytesOf16_cons, List.cons_append, List.nil_append]
  rw [moveRequest, atLeast_of_long (by simp), windowHandle_cons hs]
  simp only [Option.bind_eq_bind, Option.bind_some, bind_position, fieldInt, field16,
    List.getD_cons_succ, List.getD_cons_zero, be16_hi_lo, ite_and, Option.pure_def]

theorem lookRequest_bytes (slot gen weight keyed : Byte) (key : BitVec 16) (extra : List Byte) (hs : slot.toNat < 32) :
    lookRequest (slot :: gen :: weight :: keyed :: bytesOf16 key ++ extra) =
      if weight.toNat ≤ 16 ∧ keyed.toNat ≤ 1 then
        some (⟨⟨slot.toNat, hs⟩, gen⟩, weight.toNat, if keyed = 0 then none else some key)
      else none := by
  simp only [bytesOf16_cons, List.cons_append, List.nil_append]
  rw [lookRequest, atLeast_of_long (by simp), windowHandle_cons hs]
  simp only [Option.bind_eq_bind, Option.bind_some, bind_ranged, bind_binaryField, field16, field8,
    List.getD_cons_succ, List.getD_cons_zero, be16_hi_lo, ite_and, Nat.zero_le, if_true, Option.pure_def]
  refine if_congr Iff.rfl (ite_congr rfl (fun hbinary => ?_) fun _ => rfl) rfl
  have hzero : keyed = 0 ↔ keyed.toNat = 0 := byte_eq_iff keyed 0 (by decide)
  have hone : keyed = 1 ↔ keyed.toNat = 1 := byte_eq_iff keyed 1 (by decide)
  by_cases hkeyed : keyed = 0
  · simp [hkeyed]
  · have hkeyed' : keyed = 1 := hone.2 (by have := mt hzero.2 hkeyed; omega)
    simp [hkeyed']

theorem touchRequest_bytes (slot gen on : Byte) (extra : List Byte) (hs : slot.toNat < 32) :
    touchRequest (slot :: gen :: on :: extra) =
      if on.toNat ≤ 1 then some (⟨⟨slot.toNat, hs⟩, gen⟩, decide (on = 1)) else none := by
  rw [touchRequest, atLeast_of_long (by simp), windowHandle_cons hs]
  simp only [Option.bind_eq_bind, Option.bind_some, bind_binaryField, field8, List.getD_cons_succ, List.getD_cons_zero,
    Option.pure_def]

theorem grantRequest_bytes (slot gen links : Byte) (extra : List Byte) (hs : slot.toNat < 32) :
    grantRequest (slot :: gen :: links :: extra) = some (⟨⟨slot.toNat, hs⟩, gen⟩, linkSet links) := by
  rw [grantRequest, atLeast_of_long (by simp), windowHandle_cons hs]
  rfl

/-- SHOW's placement field, by its code; the band placements do not read the reference (R42). -/
theorem placementField_eq (p : List Byte) :
    placementField p =
      if p.getD 2 0 = 0 then some .topOfTier
      else if p.getD 2 0 = 1 then some .bottomOfTier
      else if p.getD 2 0 = 2 then (windowHandle p 3).map .above
      else if p.getD 2 0 = 3 then (windowHandle p 3).map .below
      else none := by
  have h0 : p.getD 2 0 = 0 ↔ field8 p 2 = 0 := byte_eq_iff _ 0 (by decide)
  have h1 : p.getD 2 0 = 1 ↔ field8 p 2 = 1 := byte_eq_iff _ 1 (by decide)
  have h2 : p.getD 2 0 = 2 ↔ field8 p 2 = 2 := byte_eq_iff _ 2 (by decide)
  have h3 : p.getD 2 0 = 3 ↔ field8 p 2 = 3 := byte_eq_iff _ 3 (by decide)
  unfold placementField
  split
  · rename_i h
    rw [if_pos (h0.2 h)]
  · rename_i h
    rw [if_neg (mt h0.1 (by omega)), if_pos (h1.2 h)]
  · rename_i h
    rw [if_neg (mt h0.1 (by omega)), if_neg (mt h1.1 (by omega)), if_pos (h2.2 h)]
  · rename_i h
    rw [if_neg (mt h0.1 (by omega)), if_neg (mt h1.1 (by omega)), if_neg (mt h2.1 (by omega)), if_pos (h3.2 h)]
  · rename_i n0 n1 n2 n3
    rw [if_neg (mt h0.1 n0), if_neg (mt h1.1 n1), if_neg (mt h2.1 n2), if_neg (mt h3.1 n3)]

theorem showRequest_bytes (slot gen place rslot rgen : Byte) (extra : List Byte) (hs : slot.toNat < 32) :
    showRequest (slot :: gen :: place :: rslot :: rgen :: extra) =
      if place = 0 then some (⟨⟨slot.toNat, hs⟩, gen⟩, .topOfTier)
      else if place = 1 then some (⟨⟨slot.toNat, hs⟩, gen⟩, .bottomOfTier)
      else if hr : rslot.toNat < 32 then
        if place = 2 then some (⟨⟨slot.toNat, hs⟩, gen⟩, .above ⟨⟨rslot.toNat, hr⟩, rgen⟩)
        else if place = 3 then some (⟨⟨slot.toNat, hs⟩, gen⟩, .below ⟨⟨rslot.toNat, hr⟩, rgen⟩)
        else none
      else none := by
  have href : windowHandle (slot :: gen :: place :: rslot :: rgen :: extra) 3 =
      if hr : rslot.toNat < 32 then some ⟨⟨rslot.toNat, hr⟩, rgen⟩ else none := rfl
  rw [showRequest, atLeast_of_long (by simp), windowHandle_cons hs, placementField_eq, href]
  simp only [List.getD_cons_succ, List.getD_cons_zero]
  split_ifs <;> rfl

/-! ### O9 -/

theorem handle_requests_of_slot {p : List Byte} (h : 31 < (p.getD 0 0).toNat) :
    handleField p = none ∧ moveRequest p = none ∧ lookRequest p = none ∧ touchRequest p = none ∧
      grantRequest p = none ∧ showRequest p = none := by
  have hnone : windowHandle p 0 = none := windowHandle_eq_none h
  unfold handleField moveRequest lookRequest touchRequest grantRequest showRequest
  rw [hnone]
  exact ⟨atLeast_none 2 p, atLeast_none 6 p, atLeast_none 6 p, atLeast_none 3 p, atLeast_none 3 p, atLeast_none 5 p⟩

/-- Settles O9: each command's fields by its own lemma. -/
theorem commandFieldsRead : Obligations.CommandFieldsRead := by
  refine ⟨fun p => ⟨fun h => ⟨atLeast_of_short h _, atLeast_of_short h _, atLeast_of_short h _⟩,
      fun h => atLeast_of_short h _, fun h => atLeast_of_short h _,
      fun h => ⟨atLeast_of_short h _, atLeast_of_short h _⟩, fun h => ⟨atLeast_of_short h _, atLeast_of_short h _⟩,
      fun h => atLeast_of_short h _, handle_requests_of_slot⟩,
    fun lease extra => ?_, fun b extra => ?_, fun n extra => ?_, fun slot gen extra => rfl, openRequest_bytes,
    moveRequest_bytes, lookRequest_bytes, touchRequest_bytes, grantRequest_bytes, showRequest_bytes⟩
  · rw [bytesOf16_cons, List.cons_append, List.cons_append, List.nil_append, helloLease_cons, be16_hi_lo, ranged]
  · have hzero : b = 0 ↔ b.toNat = 0 := byte_eq_iff b 0 (by decide)
    have hone : b = 1 ↔ b.toNat = 1 := byte_eq_iff b 1 (by decide)
    rw [notifyField, atLeast_of_long (by simp), binaryField]
    have hfield : field8 (b :: extra) 0 = b.toNat := rfl
    rw [hfield]
    split
    · rename_i h
      rw [if_pos (hzero.2 h)]
    · rename_i h
      rw [if_neg (mt hzero.1 (by omega)), if_pos (hone.2 h)]
    · rename_i n0 n1
      rw [if_neg (mt hzero.1 n0), if_neg (mt hone.1 n1)]
  · rw [bytesOf16_cons, List.cons_append, List.cons_append, List.nil_append, ackField_cons, be16_hi_lo]

end Sys2Proof.Machine
end

section
/-! The job record, read field by field and kind by kind (O8). -/

namespace Sys2Proof.Machine

open Sys2Proof

/-! ### Fields as numbers -/

theorem fieldNat_eq (p : List Byte) (i : Nat) : fieldNat p i = field8 p i * 256 + field8 p (i + 1) := by
  have ha := (p.getD i 0).isLt
  have hb := (p.getD (i + 1) 0).isLt
  rw [fieldNat, field16, be16_eq, BitVec.toNat_ofNat, field8, field8]
  omega

theorem field16_eq (p : List Byte) (i : Nat) : field16 p i = BitVec.ofNat 16 (field8 p i * 256 + field8 p (i + 1)) := by
  rw [← fieldNat_eq, fieldNat, BitVec.ofNat_toNat, BitVec.setWidth_eq]

/-! ### A reader that fails on a condition -/

/-- The value but where a condition makes the field ill formed. -/
def failsIf {α : Type} (bad : Prop) [Decidable bad] (x : Option α) : Option α := if bad then none else x

@[simp] theorem failsIf_bind {α β : Type} (bad : Prop) [Decidable bad] (x : Option α) (f : α → Option β) :
    (failsIf bad x).bind f = failsIf bad (x.bind f) := by
  unfold failsIf
  split <;> rfl

@[simp] theorem failsIf_map {α β : Type} (bad : Prop) [Decidable bad] (x : Option α) (f : α → β) :
    (failsIf bad x).map f = failsIf bad (x.map f) := by
  unfold failsIf
  split <;> rfl

@[simp] theorem failsIf_failsIf {α : Type} (bad worse : Prop) [Decidable bad] [Decidable worse] (x : Option α) :
    failsIf bad (failsIf worse x) = failsIf (bad ∨ worse) x := by
  unfold failsIf
  rw [ite_or]

@[simp] theorem onlyIf_eq {α : Type} (c : Bool) (x : Option α) : onlyIf c x = failsIf (c = false) x := by
  cases c <;> rfl

theorem atLeast_eq {α : Type} (n : Nat) (p : List Byte) (x : Option α) : atLeast n p x = failsIf (p.length < n) x := by
  unfold atLeast failsIf
  split
  · rw [if_neg (by omega)]
  · rw [if_pos (by omega)]

theorem ranged_eq (lo hi n : Nat) : ranged lo hi n = failsIf (n < lo ∨ hi < n) (some n) := by
  unfold ranged failsIf
  split
  · rw [if_neg (by omega)]
  · rw [if_pos (by omega)]

/-! ### The parts of a record -/

/-- The window handle that two bytes spell. -/
def windowAt (p : List Byte) (i : Nat) : Handle := ⟨Fin.ofNat 32 (field8 p i), p.getD (i + 1) 0⟩

/-- The stamp handle that two bytes spell. -/
def stampAt (p : List Byte) (i : Nat) : StampHandle := ⟨Fin.ofNat 192 (field8 p i), p.getD (i + 1) 0⟩

/-- The rectangle that a record's bytes spell. -/
def rectAt (p : List Byte) : Rect := ⟨fieldNat p 6, fieldNat p 8, fieldNat p 10, fieldNat p 12⟩

/-- The rectangle's fields leave the ranges of 5.1. -/
abbrev BadRect (p : List Byte) : Prop :=
  1023 < fieldNat p 6 ∨ 1023 < fieldNat p 8 ∨ fieldNat p 10 = 0 ∨ 1024 < fieldNat p 10 ∨ fieldNat p 12 = 0 ∨
    1024 < fieldNat p 12

/-- The combine code is above 7, or the weight of a BLEND above 16. -/
abbrev BadCombine (p : List Byte) : Prop := 7 < field8 p 17 ∨ (field8 p 17 = 7 ∧ 16 < field8 p 18)

/-- The combine that a record's bytes spell. -/
def combineAt (p : List Byte) : Combine :=
  match field8 p 17 with
  | 0 => Combine.replace
  | 1 => .and
  | 2 => .or
  | 3 => .xor
  | 4 => .invertDest
  | 5 => .sourceInvert
  | 6 => .andInverted
  | _ => .blend (field8 p 18)

/-- The buffer select that a record's byte spells. -/
def selectAt (p : List Byte) : BufferSelect := if field8 p 16 = 0 then .shown else .drawing

@[simp] theorem windowHandle_eq (p : List Byte) (i : Nat) : windowHandle p i = failsIf (31 < field8 p i) (some (windowAt p i)) := by
  unfold windowHandle failsIf windowAt
  split
  · rename_i h
    have hslot : ⟨field8 p i, h⟩ = Fin.ofNat 32 (field8 p i) := Fin.ext (Nat.mod_eq_of_lt h).symm
    rw [if_neg (by omega), hslot]
  · rw [if_pos (by omega)]

@[simp] theorem stampHandle_eq (p : List Byte) (i : Nat) : stampHandle p i = failsIf (191 < field8 p i) (some (stampAt p i)) := by
  unfold stampHandle failsIf stampAt
  split
  · rename_i h
    have hslot : ⟨field8 p i, h⟩ = Fin.ofNat 192 (field8 p i) := Fin.ext (Nat.mod_eq_of_lt h).symm
    rw [if_neg (by omega), hslot]
  · rw [if_pos (by omega)]

@[simp] theorem rectField_eq (p : List Byte) : rectField p = failsIf (BadRect p) (some (rectAt p)) := by
  unfold rectField
  simp only [ranged_eq, Option.bind_eq_bind, failsIf_bind, Option.bind_some, failsIf_failsIf, Option.pure_def]
  unfold failsIf
  refine if_congr ?_ rfl rfl
  unfold BadRect
  omega

@[simp] theorem combineField_eq (p : List Byte) : combineField p = failsIf (BadCombine p) (some (combineAt p)) := by
  unfold combineField combineAt BadCombine
  generalize field8 p 17 = n
  match n with
  | 0 | 1 | 2 | 3 | 4 | 5 | 6 => rfl
  | 7 =>
    rw [ranged_eq, failsIf_map]
    unfold failsIf
    refine if_congr ?_ rfl rfl
    omega
  | n + 8 => exact (if_pos (by omega)).symm

@[simp] theorem selectField_eq (p : List Byte) : selectField p = failsIf (1 < field8 p 16) (some (selectAt p)) := by
  rw [selectField, binaryField_eq, selectAt]
  generalize field8 p 16 = n
  match n with
  | 0 => rfl
  | 1 => rfl
  | n + 2 => exact (if_pos (by omega)).symm

/-! ### The kinds -/

section
variable {p : List Byte}

theorem jobOpField_fill (h : field8 p 0 = 1) :
    jobOpField p = failsIf (inlineData p ≠ [] ∨ 31 < field8 p 4 ∨ BadRect p ∨ BadCombine p)
      (some (.fill (windowAt p 4) (rectAt p) (field16 p 24) (combineAt p))) := by
  simp [jobOpField, h]

theorem jobOpField_copy (h : field8 p 0 = 2) :
    jobOpField p = failsIf (inlineData p ≠ [] ∨ 31 < field8 p 4 ∨ BadRect p ∨ 31 < field8 p 14 ∨ 1 < field8 p 16 ∨
        1023 < fieldNat p 20 ∨ 1023 < fieldNat p 22 ∨ BadCombine p)
      (some (.copy (windowAt p 4) (rectAt p) (windowAt p 14) (selectAt p) (fieldNat p 20) (fieldNat p 22) (combineAt p)
        (skipField p))) := by
  simp [jobOpField, copyField, h, ranged_eq]

theorem jobOpField_tile (h : field8 p 0 = 3) :
    jobOpField p = failsIf (inlineData p ≠ [] ∨ 31 < field8 p 4 ∨ BadRect p ∨ 191 < field8 p 30 ∨ BadCombine p)
      (some (.tile (windowAt p 4) (rectAt p) (stampAt p 30) (combineAt p) (skipField p))) := by
  simp [jobOpField, h]

theorem jobOpField_stampExpand (h : field8 p 0 = 4) :
    jobOpField p = failsIf (inlineData p ≠ [] ∨ 31 < field8 p 4 ∨ BadRect p ∨ 191 < field8 p 30 ∨ 16 < fieldNat p 10 ∨
        16 < fieldNat p 12)
      (some (.stampExpand (windowAt p 4) (rectAt p) (stampAt p 30) (field16 p 24) (bgField p))) := by
  simp [jobOpField, h, rectAt, imp_iff_not_or]

theorem jobOpField_maskExpand (h : field8 p 0 = 5) :
    jobOpField p = failsIf (31 < field8 p 4 ∨ BadRect p ∨
        (inlineData p).length ≠ fieldNat p 12 * maskRowBytes (fieldNat p 10) ∨ 4096 < (inlineData p).length)
      (some (.maskExpand (windowAt p 4) (rectAt p) (field16 p 24) (bgField p) (inlineData p))) := by
  simp [jobOpField, h, rectAt, imp_iff_not_or]

theorem jobOpField_write (h : field8 p 0 = 6) :
    jobOpField p = failsIf (31 < field8 p 4 ∨ BadRect p ∨ BadCombine p ∨ 2048 < fieldNat p 10 * fieldNat p 12 ∨
        (inlineData p).length ≠ 2 * fieldNat p 10 * fieldNat p 12)
      (some (.write (windowAt p 4) (rectAt p) (combineAt p) (skipField p) (inlinePixels (inlineData p)))) := by
  simp [jobOpField, h, rectAt, imp_iff_not_or]

theorem jobOpField_read (h : field8 p 0 = 7) :
    jobOpField p = failsIf (inlineData p ≠ [] ∨ 31 < field8 p 14 ∨ 1 < field8 p 16 ∨ BadRect p ∨
        2048 < fieldNat p 10 * fieldNat p 12)
      (some (.read (windowAt p 14) (selectAt p) (rectAt p))) := by
  simp [jobOpField, h, rectAt]

theorem jobOpField_present (h : field8 p 0 = 8) :
    jobOpField p = failsIf (inlineData p ≠ [] ∨ 31 < field8 p 4) (some (.present (windowAt p 4))) := by
  simp [jobOpField, h]

theorem jobOpField_mark (h : field8 p 0 = 9) :
    jobOpField p = failsIf (inlineData p ≠ []) (some .mark) := by
  simp [jobOpField, h]

theorem jobOpField_of_other (h : field8 p 0 = 0 ∨ 9 < field8 p 0) : jobOpField p = none := by
  unfold jobOpField
  generalize field8 p 0 = n at h
  match n with
  | 0 => rfl
  | 1 | 2 | 3 | 4 | 5 | 6 | 7 | 8 | 9 => omega
  | n + 10 => rfl

/-- A payload is read as a job unless it is too short or its kind's fields are ill formed. -/
theorem jobRequest_eq {bad : Prop} [Decidable bad] {op : JobOp} (h : jobOpField p = failsIf bad (some op)) :
    jobRequest p = failsIf (p.length < 32 ∨ bad) (some ⟨field16 p 2, flagBit p 0, op⟩) := by
  rw [jobRequest, atLeast_eq, h, failsIf_map, failsIf_failsIf]
  rfl

end

end Sys2Proof.Machine
end

section
/-! Every payload of SUBMIT is read as its bytes spell, and a host's record is read back (O8). -/

namespace Sys2Proof.Machine

open Sys2Proof

/-! ### A host's record, field by field -/

section
variable {r : JobRecord}

theorem windowHandle_of_pair {p : List Byte} {i : Nat} {h : Handle} (hslot : p.getD i 0 = h.pair.1)
    (hgen : p.getD (i + 1) 0 = h.pair.2) : windowHandle p i = some h := by
  have hvalue : field8 p i = h.slot.val := by
    rw [field8, hslot]
    show h.slot.val % 256 = _
    have := h.slot.isLt
    omega
  rw [windowHandle, dif_pos (by rw [hvalue]; exact h.slot.isLt), hgen]
  simp only [hvalue, Fin.eta]
  rfl

theorem stampHandle_of_pair {p : List Byte} {i : Nat} {h : StampHandle} (hslot : p.getD i 0 = h.pair.1)
    (hgen : p.getD (i + 1) 0 = h.pair.2) : stampHandle p i = some h := by
  have hvalue : field8 p i = h.slot.val := by
    rw [field8, hslot]
    show h.slot.val % 256 = _
    have := h.slot.isLt
    omega
  rw [stampHandle, dif_pos (by rw [hvalue]; exact h.slot.isLt), hgen]
  simp only [hvalue, Fin.eta]
  rfl

theorem toNat_be16_count {n : Nat} (h : n < 65536) :
    (be16 (hiByte (BitVec.ofNat 16 n)) (loByte (BitVec.ofNat 16 n))).toNat = n := by
  rw [be16_hi_lo, BitVec.toNat_ofNat]
  omega

theorem ranged_of_mem {lo hi n : Nat} (h : lo ≤ n ∧ n ≤ hi) : ranged lo hi n = some n := if_pos h

theorem JobRecord.rect_field (h : r.rect.wf) : rectField r.bytes = some r.rect := by
  obtain ⟨hx, hy, hw0, hw, hh0, hh⟩ := h
  have fx : fieldNat r.bytes 6 = r.rect.x := toNat_be16_count (by omega)
  have fy : fieldNat r.bytes 8 = r.rect.y := toNat_be16_count (by omega)
  have fw : fieldNat r.bytes 10 = r.rect.w := toNat_be16_count (by omega)
  have fh : fieldNat r.bytes 12 = r.rect.h := toNat_be16_count (by omega)
  unfold rectField
  rw [fx, fy, fw, fh, ranged_of_mem ⟨by omega, hx⟩, ranged_of_mem ⟨by omega, hy⟩, ranged_of_mem ⟨hw0, hw⟩,
    ranged_of_mem ⟨hh0, hh⟩]
  rfl

theorem JobRecord.combine_field {c : Combine} (hc : r.combine = c.bytes) (hwf : c.wf) :
    combineField r.bytes = some c := by
  have hcode : field8 r.bytes 17 = c.bytes.1.toNat := by rw [← hc]; rfl
  have hweight : field8 r.bytes 18 = c.bytes.2.toNat := by rw [← hc]; rfl
  unfold combineField
  rw [hcode, hweight]
  cases c with
  | blend w =>
    have hw : w ≤ 16 := hwf
    have hvalue : ((BitVec.ofNat 8 w : Byte)).toNat = w := by
      rw [BitVec.toNat_ofNat]
      omega
    show (ranged 0 16 (BitVec.ofNat 8 w : Byte).toNat).map Combine.blend = _
    rw [hvalue, ranged_of_mem ⟨Nat.zero_le _, hw⟩]
    rfl
  | _ => rfl

theorem JobRecord.select_field {sel : BufferSelect} (hs : r.select = sel.code) : selectField r.bytes = some sel := by
  have hcode : field8 r.bytes 16 = sel.code.toNat := by rw [← hs]; rfl
  rw [selectField, binaryField_eq, hcode]
  cases sel <;> rfl

theorem JobRecord.tag_field : field16 r.bytes 2 = r.tag := be16_hi_lo r.tag

theorem JobRecord.colour_field : field16 r.bytes 24 = r.colour := be16_hi_lo r.colour

theorem flagsByte_bits (notify skip bg : Bool) :
    (flagsByte notify skip bg).getLsbD 0 = notify ∧ (flagsByte notify skip bg).getLsbD 1 = skip ∧
      (flagsByte notify skip bg).getLsbD 2 = bg := by
  cases notify <;> cases skip <;> cases bg <;> decide

theorem JobRecord.flag_bits {notify skip bg : Bool} (h : r.flags = flagsByte notify skip bg) :
    flagBit r.bytes 0 = notify ∧ flagBit r.bytes 1 = skip ∧ flagBit r.bytes 2 = bg := by
  have hflags : r.bytes.getD 1 0 = flagsByte notify skip bg := h
  unfold flagBit
  rw [hflags]
  exact flagsByte_bits notify skip bg

theorem JobRecord.skip_field {notify bg : Bool} {skip : Option Pixel} (hflags : r.flags = flagsByte notify skip.isSome bg)
    (hskip : r.skip = skip.getD 0) : skipField r.bytes = skip := by
  have hcolour : field16 r.bytes 28 = skip.getD 0 := (be16_hi_lo r.skip).trans hskip
  unfold skipField
  rw [(JobRecord.flag_bits hflags).2.1, hcolour]
  cases skip <;> rfl

theorem JobRecord.bg_field {notify skip : Bool} {bg : Option Pixel} (hflags : r.flags = flagsByte notify skip bg.isSome)
    (hbg : r.bg = bg.getD 0) : bgField r.bytes = bg := by
  have hcolour : field16 r.bytes 26 = bg.getD 0 := (be16_hi_lo r.bg).trans hbg
  unfold bgField
  rw [(JobRecord.flag_bits hflags).2.2, hcolour]
  cases bg <;> rfl

/-- The record of a job whose fields the readers of its kind read back. -/
theorem JobRecord.jobRequest_bytes {notify skip bg : Bool} {op : JobOp} (hflags : r.flags = flagsByte notify skip bg)
    (hop : jobOpField r.bytes = some op) : jobRequest r.bytes = some ⟨r.tag, notify, op⟩ := by
  have hlength : 32 ≤ r.bytes.length := by
    simp [JobRecord.bytes]
  rw [jobRequest, atLeast_of_long hlength, hop, JobRecord.tag_field, (JobRecord.flag_bits hflags).1]
  rfl

end

theorem inlinePixels_bytes (pixels : List Pixel) : inlinePixels (pixels.flatMap bytesOf16) = pixels := by
  induction pixels with
  | nil => rfl
  | cons c cs ih => rw [List.flatMap_cons, bytesOf16_cons, List.cons_append, List.cons_append, List.nil_append, inlinePixels,
      ih, be16_hi_lo]

theorem length_flatMap_bytesOf16 (pixels : List Pixel) : (pixels.flatMap bytesOf16).length = 2 * pixels.length := by
  induction pixels with
  | nil => rfl
  | cons c cs ih =>
    rw [List.flatMap_cons, List.length_append, ih, List.length_cons, bytesOf16_cons]
    simp only [List.length_cons, List.length_nil]
    omega

/-! ### Each kind's record -/

section
variable {tag : Half} {notify : Bool} {t src : Handle} {r : Rect} {st : StampHandle} {c : Combine} {skip bg : Option Pixel}
  {colour : Pixel} {sel : BufferSelect} {sx sy : Nat} {bytes : List Byte} {pixels : List Pixel}

theorem jobOpField_of_fill (hwf : (JobOp.fill t r colour c).wf) :
    jobOpField (Job.payload ⟨tag, notify, .fill t r colour c⟩) = some (.fill t r colour c) := by
  generalize hp : Job.payload _ = p
  have hkind : field8 p 0 = 1 := by rw [← hp]; rfl
  have hinline : inlineData p = [] := by rw [← hp]; rfl
  have htarget : windowHandle p 4 = some t := by rw [← hp]; exact windowHandle_of_pair rfl rfl
  have hrect : rectField p = some r := by rw [← hp]; exact JobRecord.rect_field hwf.1
  have hcombine : combineField p = some c := by rw [← hp]; exact JobRecord.combine_field rfl hwf.2
  have hcolour : field16 p 24 = colour := by rw [← hp]; exact JobRecord.colour_field
  simp only [jobOpField, hkind, hinline, htarget, hrect, hcombine, hcolour]
  rfl

theorem jobOpField_of_copy (hwf : (JobOp.copy t r src sel sx sy c skip).wf) :
    jobOpField (Job.payload ⟨tag, notify, .copy t r src sel sx sy c skip⟩) = some (.copy t r src sel sx sy c skip) := by
  obtain ⟨hr, hc, hsx, hsy⟩ := hwf
  generalize hp : Job.payload _ = p
  have hkind : field8 p 0 = 2 := by rw [← hp]; rfl
  have hinline : inlineData p = [] := by rw [← hp]; rfl
  have htarget : windowHandle p 4 = some t := by rw [← hp]; exact windowHandle_of_pair rfl rfl
  have hrect : rectField p = some r := by rw [← hp]; exact JobRecord.rect_field hr
  have hsource : windowHandle p 14 = some src := by rw [← hp]; exact windowHandle_of_pair rfl rfl
  have hselect : selectField p = some sel := by rw [← hp]; exact JobRecord.select_field rfl
  have hx : fieldNat p 20 = sx := by rw [← hp]; exact toNat_be16_count (n := sx) (by omega)
  have hy : fieldNat p 22 = sy := by rw [← hp]; exact toNat_be16_count (n := sy) (by omega)
  have hcombine : combineField p = some c := by rw [← hp]; exact JobRecord.combine_field rfl hc
  have hskip : skipField p = skip := by rw [← hp]; exact JobRecord.skip_field rfl rfl
  simp only [jobOpField, copyField, hkind, hinline, htarget, hrect, hsource, hselect, hx, hy, hcombine, hskip,
    ranged_of_mem ⟨Nat.zero_le _, hsx⟩, ranged_of_mem ⟨Nat.zero_le _, hsy⟩]
  rfl

theorem jobOpField_of_tile (hwf : (JobOp.tile t r st c skip).wf) :
    jobOpField (Job.payload ⟨tag, notify, .tile t r st c skip⟩) = some (.tile t r st c skip) := by
  generalize hp : Job.payload _ = p
  have hkind : field8 p 0 = 3 := by rw [← hp]; rfl
  have hinline : inlineData p = [] := by rw [← hp]; rfl
  have htarget : windowHandle p 4 = some t := by rw [← hp]; exact windowHandle_of_pair rfl rfl
  have hrect : rectField p = some r := by rw [← hp]; exact JobRecord.rect_field hwf.1
  have hstamp : stampHandle p 30 = some st := by rw [← hp]; exact stampHandle_of_pair rfl rfl
  have hcombine : combineField p = some c := by rw [← hp]; exact JobRecord.combine_field rfl hwf.2
  have hskip : skipField p = skip := by rw [← hp]; exact JobRecord.skip_field rfl rfl
  simp only [jobOpField, hkind, hinline, htarget, hrect, hstamp, hcombine, hskip]
  rfl

theorem jobOpField_of_stampExpand (hwf : (JobOp.stampExpand t r st colour bg).wf) :
    jobOpField (Job.payload ⟨tag, notify, .stampExpand t r st colour bg⟩) = some (.stampExpand t r st colour bg) := by
  obtain ⟨hr, hw, hh⟩ := hwf
  generalize hp : Job.payload _ = p
  have hkind : field8 p 0 = 4 := by rw [← hp]; rfl
  have hinline : inlineData p = [] := by rw [← hp]; rfl
  have htarget : windowHandle p 4 = some t := by rw [← hp]; exact windowHandle_of_pair rfl rfl
  have hrect : rectField p = some r := by rw [← hp]; exact JobRecord.rect_field hr
  have hstamp : stampHandle p 30 = some st := by rw [← hp]; exact stampHandle_of_pair rfl rfl
  have hcolour : field16 p 24 = colour := by rw [← hp]; exact JobRecord.colour_field
  have hbg : bgField p = bg := by rw [← hp]; exact JobRecord.bg_field rfl rfl
  have hfits : (decide (r.w ≤ 16) && decide (r.h ≤ 16)) = true := by
    rw [Bool.and_eq_true, decide_eq_true_eq, decide_eq_true_eq]
    exact ⟨hw, hh⟩
  simp only [jobOpField, hkind, hinline, htarget, hrect, hstamp, hcolour, hbg, Option.bind_eq_bind, Option.bind_some, hfits]
  rfl

theorem jobOpField_of_maskExpand (hwf : (JobOp.maskExpand t r colour bg bytes).wf) :
    jobOpField (Job.payload ⟨tag, notify, .maskExpand t r colour bg bytes⟩) = some (.maskExpand t r colour bg bytes) := by
  obtain ⟨hr, hlength, hbound⟩ := hwf
  generalize hp : Job.payload _ = p
  have hkind : field8 p 0 = 5 := by rw [← hp]; rfl
  have hinline : inlineData p = bytes := by rw [← hp]; rfl
  have htarget : windowHandle p 4 = some t := by rw [← hp]; exact windowHandle_of_pair rfl rfl
  have hrect : rectField p = some r := by rw [← hp]; exact JobRecord.rect_field hr
  have hcolour : field16 p 24 = colour := by rw [← hp]; exact JobRecord.colour_field
  have hbg : bgField p = bg := by rw [← hp]; exact JobRecord.bg_field rfl rfl
  have hlength' : bytes.length = r.h * maskRowBytes r.w := hlength
  have hfits : (decide (bytes.length = r.h * maskRowBytes r.w) && decide (bytes.length ≤ 4096)) = true := by
    rw [Bool.and_eq_true, decide_eq_true_eq, decide_eq_true_eq]
    exact ⟨hlength', hbound⟩
  simp only [jobOpField, hkind, hinline, htarget, hrect, hcolour, hbg, Option.bind_eq_bind, Option.bind_some, hfits]
  rfl

theorem jobOpField_of_write (hwf : (JobOp.write t r c skip pixels).wf) :
    jobOpField (Job.payload ⟨tag, notify, .write t r c skip pixels⟩) = some (.write t r c skip pixels) := by
  obtain ⟨hr, hc, hlength, hbound⟩ := hwf
  generalize hp : Job.payload _ = p
  have hkind : field8 p 0 = 6 := by rw [← hp]; rfl
  have hinline : inlineData p = pixels.flatMap bytesOf16 := by rw [← hp]; rfl
  have htarget : windowHandle p 4 = some t := by rw [← hp]; exact windowHandle_of_pair rfl rfl
  have hrect : rectField p = some r := by rw [← hp]; exact JobRecord.rect_field hr
  have hcombine : combineField p = some c := by rw [← hp]; exact JobRecord.combine_field rfl hc
  have hskip : skipField p = skip := by rw [← hp]; exact JobRecord.skip_field rfl rfl
  have hfits : (decide (r.w * r.h ≤ 2048) && decide ((pixels.flatMap bytesOf16).length = 2 * r.w * r.h)) = true := by
    rw [Bool.and_eq_true, decide_eq_true_eq, decide_eq_true_eq, length_flatMap_bytesOf16, hlength, Nat.mul_assoc]
    exact ⟨hbound, rfl⟩
  simp only [jobOpField, hkind, hinline, htarget, hrect, hcombine, hskip, inlinePixels_bytes, Option.bind_eq_bind,
    Option.bind_some, hfits]
  rfl

theorem jobOpField_of_read (hwf : (JobOp.read src sel r).wf) :
    jobOpField (Job.payload ⟨tag, notify, .read src sel r⟩) = some (.read src sel r) := by
  generalize hp : Job.payload _ = p
  have hkind : field8 p 0 = 7 := by rw [← hp]; rfl
  have hinline : inlineData p = [] := by rw [← hp]; rfl
  have hrect : rectField p = some r := by rw [← hp]; exact JobRecord.rect_field hwf.1
  have hsource : windowHandle p 14 = some src := by rw [← hp]; exact windowHandle_of_pair rfl rfl
  have hselect : selectField p = some sel := by rw [← hp]; exact JobRecord.select_field rfl
  have hfits : decide (r.w * r.h ≤ 2048) = true := decide_eq_true hwf.2
  simp only [jobOpField, hkind, hinline, hrect, hsource, hselect, Option.bind_eq_bind, Option.bind_some, hfits]
  rfl

theorem jobOpField_of_present :
    jobOpField (Job.payload ⟨tag, notify, .present t⟩) = some (.present t) := by
  generalize hp : Job.payload _ = p
  have hkind : field8 p 0 = 8 := by rw [← hp]; rfl
  have hinline : inlineData p = [] := by rw [← hp]; rfl
  have htarget : windowHandle p 4 = some t := by rw [← hp]; exact windowHandle_of_pair rfl rfl
  simp only [jobOpField, hkind, hinline, htarget]
  rfl

end

/-- A well-formed job's record is read back. -/
theorem jobRequest_payload (j : Job) (hwf : j.op.wf) : jobRequest j.payload = some j := by
  obtain ⟨tag, notify, op⟩ := j
  cases op with
  | fill => exact JobRecord.jobRequest_bytes (skip := false) (bg := false) rfl (jobOpField_of_fill hwf)
  | copy _ _ _ _ _ _ _ skip =>
    exact JobRecord.jobRequest_bytes (skip := skip.isSome) (bg := false) rfl (jobOpField_of_copy hwf)
  | tile _ _ _ _ skip => exact JobRecord.jobRequest_bytes (skip := skip.isSome) (bg := false) rfl (jobOpField_of_tile hwf)
  | stampExpand _ _ _ _ bg =>
    exact JobRecord.jobRequest_bytes (skip := false) (bg := bg.isSome) rfl (jobOpField_of_stampExpand hwf)
  | maskExpand _ _ _ bg _ =>
    exact JobRecord.jobRequest_bytes (skip := false) (bg := bg.isSome) rfl (jobOpField_of_maskExpand hwf)
  | write _ _ _ skip _ =>
    exact JobRecord.jobRequest_bytes (skip := skip.isSome) (bg := false) rfl (jobOpField_of_write hwf)
  | read => exact JobRecord.jobRequest_bytes (skip := false) (bg := false) rfl (jobOpField_of_read hwf)
  | present => exact JobRecord.jobRequest_bytes (skip := false) (bg := false) rfl jobOpField_of_present
  | mark => exact JobRecord.jobRequest_bytes (skip := false) (bg := false) rfl rfl

end Sys2Proof.Machine
end

section
/-! Any payload of SUBMIT: ill formed in the listed cases, and otherwise the job that its bytes spell (O8). -/

namespace Sys2Proof.Machine

open Sys2Proof

theorem failsIf_spec {α : Type} {bad : Prop} [Decidable bad] {x : Option α} {ill : Prop} {y : α} (hill : ill ↔ bad)
    (hvalue : ¬ bad → x = some y) : (ill → failsIf bad x = none) ∧ (¬ ill → failsIf bad x = some y) := by
  rw [hill]
  exact ⟨fun h => if_pos h, fun h => (if_neg h).trans (hvalue h)⟩

/-- The pixels of inline data of the right length. -/
theorem inlinePixels_inlineData {p : List Byte} {n : Nat} (h : (inlineData p).length = 2 * n) :
    inlinePixels (inlineData p) =
      (List.range n).map fun i => field16 p (32 + 2 * i) := by
  rw [inlinePixels_eq _ n h]
  refine List.map_congr_left fun i _ => ?_
  have hdrop : ∀ k, (inlineData p).getD k 0 = p.getD (32 + k) 0 := fun k => by
    simp only [inlineData, List.getD_eq_getElem?_getD, List.getElem?_drop]
  rw [hdrop, hdrop]
  rfl

/-! ### The listed cases -/

/-- The fields of a payload are ill formed for a kind (R75, 12.5). -/
def IllFormedFor (p : List Byte) (kind : Nat) : Prop :=
  kind ∉ [1, 2, 3, 4, 5, 6, 7, 8, 9] ∨
  (kind ∈ [1, 2, 3, 4, 5, 6, 8] ∧ 31 < field8 p 4) ∨
  (kind ∈ [1, 2, 3, 4, 5, 6, 7] ∧ BadRect p) ∨
  (kind ∈ [2, 7] ∧ (31 < field8 p 14 ∨ 1 < field8 p 16)) ∨
  (kind ∈ [2] ∧ (1023 < fieldNat p 20 ∨ 1023 < fieldNat p 22)) ∨
  (kind ∈ [1, 2, 3, 6] ∧ BadCombine p) ∨
  (kind ∈ [3, 4] ∧ 191 < field8 p 30) ∨
  (kind ∈ [4] ∧ (16 < fieldNat p 10 ∨ 16 < fieldNat p 12)) ∨
  (kind ∈ [6, 7] ∧ 2048 < fieldNat p 10 * fieldNat p 12) ∨
  (kind ∈ [6] ∧ (inlineData p).length ≠ 2 * fieldNat p 10 * fieldNat p 12) ∨
  (kind ∈ [5] ∧ ((inlineData p).length ≠ fieldNat p 12 * ((fieldNat p 10 + 7) / 8) ∨ 4096 < (inlineData p).length)) ∨
  (kind ∈ [1, 2, 3, 4, 7, 8, 9] ∧ inlineData p ≠ [])

/-- The job operation that a payload's bytes spell for a kind. -/
def spelledOp (p : List Byte) : Nat → JobOp
  | 1 => .fill (windowAt p 4) (rectAt p) (field16 p 24) (combineAt p)
  | 2 => .copy (windowAt p 4) (rectAt p) (windowAt p 14) (selectAt p) (fieldNat p 20) (fieldNat p 22) (combineAt p)
      (skipField p)
  | 3 => .tile (windowAt p 4) (rectAt p) (stampAt p 30) (combineAt p) (skipField p)
  | 4 => .stampExpand (windowAt p 4) (rectAt p) (stampAt p 30) (field16 p 24) (bgField p)
  | 5 => .maskExpand (windowAt p 4) (rectAt p) (field16 p 24) (bgField p) (inlineData p)
  | 6 => .write (windowAt p 4) (rectAt p) (combineAt p) (skipField p)
      ((List.range (fieldNat p 10 * fieldNat p 12)).map fun i => field16 p (32 + 2 * i))
  | 7 => .read (windowAt p 14) (selectAt p) (rectAt p)
  | 8 => .present (windowAt p 4)
  | _ => .mark

section
variable (p : List Byte)

theorem illFormedFor_fill :
    IllFormedFor p 1 ↔ inlineData p ≠ [] ∨ 31 < field8 p 4 ∨ BadRect p ∨ BadCombine p := by
  simp only [IllFormedFor, List.mem_cons, List.not_mem_nil]
  norm_num
  tauto

theorem illFormedFor_copy :
    IllFormedFor p 2 ↔ inlineData p ≠ [] ∨ 31 < field8 p 4 ∨ BadRect p ∨ 31 < field8 p 14 ∨ 1 < field8 p 16 ∨
      1023 < fieldNat p 20 ∨ 1023 < fieldNat p 22 ∨ BadCombine p := by
  simp only [IllFormedFor, List.mem_cons, List.not_mem_nil]
  norm_num
  tauto

theorem illFormedFor_tile :
    IllFormedFor p 3 ↔ inlineData p ≠ [] ∨ 31 < field8 p 4 ∨ BadRect p ∨ 191 < field8 p 30 ∨ BadCombine p := by
  simp only [IllFormedFor, List.mem_cons, List.not_mem_nil]
  norm_num
  tauto

theorem illFormedFor_stampExpand :
    IllFormedFor p 4 ↔ inlineData p ≠ [] ∨ 31 < field8 p 4 ∨ BadRect p ∨ 191 < field8 p 30 ∨ 16 < fieldNat p 10 ∨
      16 < fieldNat p 12 := by
  simp only [IllFormedFor, List.mem_cons, List.not_mem_nil]
  norm_num
  tauto

theorem illFormedFor_maskExpand :
    IllFormedFor p 5 ↔ 31 < field8 p 4 ∨ BadRect p ∨
      (inlineData p).length ≠ fieldNat p 12 * maskRowBytes (fieldNat p 10) ∨ 4096 < (inlineData p).length := by
  simp only [IllFormedFor, List.mem_cons, List.not_mem_nil, maskRowBytes]
  norm_num

theorem illFormedFor_write :
    IllFormedFor p 6 ↔ 31 < field8 p 4 ∨ BadRect p ∨ BadCombine p ∨ 2048 < fieldNat p 10 * fieldNat p 12 ∨
      (inlineData p).length ≠ 2 * fieldNat p 10 * fieldNat p 12 := by
  simp only [IllFormedFor, List.mem_cons, List.not_mem_nil]
  norm_num

theorem illFormedFor_read :
    IllFormedFor p 7 ↔ inlineData p ≠ [] ∨ 31 < field8 p 14 ∨ 1 < field8 p 16 ∨ BadRect p ∨
      2048 < fieldNat p 10 * fieldNat p 12 := by
  simp only [IllFormedFor, List.mem_cons, List.not_mem_nil]
  norm_num
  tauto

theorem illFormedFor_present : IllFormedFor p 8 ↔ inlineData p ≠ [] ∨ 31 < field8 p 4 := by
  simp only [IllFormedFor, List.mem_cons, List.not_mem_nil]
  norm_num
  tauto

theorem illFormedFor_mark : IllFormedFor p 9 ↔ inlineData p ≠ [] := by
  simp only [IllFormedFor, List.mem_cons, List.not_mem_nil]
  norm_num

end

/-- A payload of a kind: ill formed as listed for it, and otherwise read as its bytes spell. -/
theorem jobRequest_of_kind {p : List Byte} {kind : Nat} {bad : Prop} [Decidable bad] {op : JobOp}
    (hop : jobOpField p = failsIf bad (some op)) (hill : IllFormedFor p kind ↔ bad)
    (hspelled : ¬ bad → op = spelledOp p kind) :
    (p.length < 32 ∨ IllFormedFor p kind → jobRequest p = none) ∧
      (¬ (p.length < 32 ∨ IllFormedFor p kind) →
        jobRequest p = some ⟨field16 p 2, flagBit p 0, spelledOp p kind⟩) := by
  rw [jobRequest_eq hop]
  exact failsIf_spec (or_congr_right hill) fun hgood => by rw [hspelled fun hbad => hgood (.inr hbad)]

theorem jobRequest_spec (p : List Byte) :
    (p.length < 32 ∨ IllFormedFor p (field8 p 0) → jobRequest p = none) ∧
      (¬ (p.length < 32 ∨ IllFormedFor p (field8 p 0)) →
        jobRequest p = some ⟨field16 p 2, flagBit p 0, spelledOp p (field8 p 0)⟩) := by
  by_cases hother : field8 p 0 = 0 ∨ 9 < field8 p 0
  · have hill : p.length < 32 ∨ IllFormedFor p (field8 p 0) := by
      refine .inr (.inl fun hkind => ?_)
      simp only [List.mem_cons, List.not_mem_nil, or_false] at hkind
      omega
    refine ⟨fun _ => ?_, fun hgood => absurd hill hgood⟩
    rw [jobRequest, jobOpField_of_other hother]
    exact atLeast_none 32 p
  · have hkinds : field8 p 0 = 1 ∨ field8 p 0 = 2 ∨ field8 p 0 = 3 ∨ field8 p 0 = 4 ∨ field8 p 0 = 5 ∨ field8 p 0 = 6 ∨
        field8 p 0 = 7 ∨ field8 p 0 = 8 ∨ field8 p 0 = 9 := by omega
    rcases hkinds with h | h | h | h | h | h | h | h | h
    · exact h ▸ jobRequest_of_kind (jobOpField_fill h) (illFormedFor_fill p) fun _ => rfl
    · exact h ▸ jobRequest_of_kind (jobOpField_copy h) (illFormedFor_copy p) fun _ => rfl
    · exact h ▸ jobRequest_of_kind (jobOpField_tile h) (illFormedFor_tile p) fun _ => rfl
    · exact h ▸ jobRequest_of_kind (jobOpField_stampExpand h) (illFormedFor_stampExpand p) fun _ => rfl
    · exact h ▸ jobRequest_of_kind (jobOpField_maskExpand h) (illFormedFor_maskExpand p) fun _ => rfl
    · refine h ▸ jobRequest_of_kind (jobOpField_write h) (illFormedFor_write p) fun hgood => ?_
      have hlength : (inlineData p).length = 2 * (fieldNat p 10 * fieldNat p 12) := by
        rw [← Nat.mul_assoc]
        exact not_not.1 fun hne => hgood (.inr (.inr (.inr (.inr hne))))
      rw [inlinePixels_inlineData hlength, spelledOp]
    · exact h ▸ jobRequest_of_kind (jobOpField_read h) (illFormedFor_read p) fun _ => rfl
    · exact h ▸ jobRequest_of_kind (jobOpField_present h) (illFormedFor_present p) fun _ => rfl
    · exact h ▸ jobRequest_of_kind (jobOpField_mark h) (illFormedFor_mark p) fun _ => rfl

/-- Settles O8: a host's record by `jobRequest_payload`, any payload by `jobRequest_spec`. -/
theorem jobRecordRoundTrip : Obligations.JobRecordRoundTrip := by
  refine ⟨jobRequest_payload, fun p => ?_⟩
  intro byte half kind inline isOne illFormed window stamp rect select combine colour flag skip bg op
  have hhalf : ∀ i, half i = fieldNat p i := fun i => (fieldNat_eq p i).symm
  have hcolour : ∀ i, colour i = field16 p i := fun i => (field16_eq p i).symm
  have hrect : rect = rectAt p := by simp only [rect, hhalf, rectAt]
  have hskip : skip = skipField p := by simp only [skip, hcolour, skipField]; rfl
  have hbg : bg = bgField p := by simp only [bg, hcolour, bgField]; rfl
  have hill : illFormed ↔ p.length < 32 ∨ IllFormedFor p (field8 p 0) := by
    simp only [illFormed, hhalf, isOne]
    exact Iff.rfl
  have hop : op = spelledOp p (field8 p 0) := by
    simp only [op, hrect, hskip, hbg, hcolour, hhalf]
    rfl
  rw [hill, hcolour, hop]
  exact jobRequest_spec p

end Sys2Proof.Machine
end

section
/-! Link frames in both directions (O7). -/

namespace Sys2Proof.Machine

open Sys2Proof

/-! ### A frame taken apart -/

section
variable (ty code : Byte) (seq : BitVec 16) (p : List Byte)

theorem length_frameBody : (frameBody ty code seq p).length = p.length + 6 := rfl

theorem frameBytes_eq : frameBytes ty code seq p =
    frameBody ty code seq p ++ [hiByte (crc16 (frameBody ty code seq p)), loByte (crc16 (frameBody ty code seq p))] := rfl

theorem length_frameBytes : (frameBytes ty code seq p).length = p.length + 8 := by
  rw [frameBytes_eq, List.length_append, length_frameBody]
  rfl

theorem take_frameBytes : (frameBytes ty code seq p).take ((frameBytes ty code seq p).length - 2) =
    frameBody ty code seq p := by
  rw [length_frameBytes, frameBytes_eq]
  exact List.take_left' (length_frameBody ty code seq p)

theorem carriedCheck_frameBytes : carriedCheck (frameBytes ty code seq p) = crc16 (frameBody ty code seq p) := by
  have hbody := length_frameBody ty code seq p
  have hhi : (frameBytes ty code seq p).getD (p.length + 6) 0 = hiByte (crc16 (frameBody ty code seq p)) := by
    rw [frameBytes_eq, List.getD_eq_getElem?_getD, List.getElem?_append_right (by omega), hbody]
    simp
  have hlo : (frameBytes ty code seq p).getD (p.length + 7) 0 = loByte (crc16 (frameBody ty code seq p)) := by
    rw [frameBytes_eq, List.getD_eq_getElem?_getD, List.getElem?_append_right (by omega), hbody]
    simp
  rw [carriedCheck, length_frameBytes]
  show be16 ((frameBytes ty code seq p).getD (p.length + 6) 0) ((frameBytes ty code seq p).getD (p.length + 7) 0) = _
  rw [hhi, hlo, be16_hi_lo]

theorem declaredLength_frameBytes (h : p.length ≤ 4160) : declaredLength (frameBytes ty code seq p) = p.length :=
  toNat_be16_count (by omega)

/-- A frame that carries a payload that fits passes its check. -/
theorem failsCheck_frameBytes (h : p.length ≤ 4160) : failsCheck (frameBytes ty code seq p) = false := by
  rw [failsCheck, carriedCheck_frameBytes, take_frameBytes, declaredLength_frameBytes ty code seq p h, length_frameBytes]
  simp [Config.payloadLimit, h]

theorem ofFrame_frameBytes (l : Link) (reserved s : Byte) (h : p.length ≤ 4160) :
    Instr.ofFrame l (frameBytes ty code (be16 reserved s) p) = commandOf l code s p := by
  have hpayload : ((frameBytes ty code (be16 reserved s) p).take
      ((frameBytes ty code (be16 reserved s) p).length - 2)).drop 6 = p := by
    rw [take_frameBytes]
    rfl
  have hseq : (frameBytes ty code (be16 reserved s) p).getD 3 0#8 = s := by
    show loByte (be16 reserved s) = s
    exact BitVec.extractLsb'_append_eq_right
  rw [Instr.ofFrame, failsCheck_frameBytes ty code _ p h, hpayload, hseq]
  rfl

end

/-- A code that names no command is BAD_COMMAND (R157). -/
theorem commandOf_of_unnamed {code : Byte} (h : namesCommand code = false) (l : Link) (seq : Byte) (p : List Byte) :
    commandOf l code seq p = .badCommand l seq code := by
  rw [namesCommand, decide_eq_false_iff_not] at h
  unfold commandOf
  split
  case h_21 => rfl
  all_goals omega

theorem commandOf_ne_checkFailed (l k : Link) (code seq : Byte) (p : List Byte) :
    commandOf l code seq p ≠ .checkFailed k := by
  unfold commandOf
  split <;> exact Instr.noConfusion

/-- The frame that carries a well-formed command is taken as that command. -/
theorem ofFrame_framed {i : Instr} {l : Link} {code seq : Byte} {p : List Byte} (hwf : i.wf = true)
    (hframed : i.framed = some (l, code, seq, p)) (ty reserved : Byte) :
    Instr.ofFrame l (frameBytes ty code (be16 reserved seq) p) = i := by
  have hfits : ∀ q, payloadFits q = true → q.length ≤ 4160 := fun q hq => of_decide_eq_true hq
  have hcommand : p.length ≤ 4160 ∧ commandOf l code seq p = i := by
    cases i <;> simp only [Instr.framed, Option.some.injEq, Prod.mk.injEq, reduceCtorEq] at hframed <;>
      obtain ⟨rfl, rfl, rfl, rfl⟩ := hframed
    case badCommand =>
      refine ⟨Nat.zero_le _, commandOf_of_unnamed ?_ _ _ _⟩
      simpa [Instr.wf] using hwf
    case goodbye | ping | status | resendEvents => exact ⟨Nat.zero_le _, rfl⟩
    all_goals exact ⟨hfits _ hwf, rfl⟩
  rw [ofFrame_frameBytes _ _ _ _ _ _ hcommand.1, hcommand.2]

/-- A raw frame is CHECK_FAILED exactly if it fails its check (R154). -/
theorem ofFrame_eq_checkFailed_iff (l : Link) (bytes : List Byte) :
    Instr.ofFrame l bytes = .checkFailed l ↔ failsCheck bytes = true := by
  unfold Instr.ofFrame
  split
  · rename_i h
    exact ⟨fun _ => h, fun _ => rfl⟩
  · rename_i h
    exact ⟨fun heq => absurd heq (commandOf_ne_checkFailed _ _ _ _ _), fun hf => absurd hf h⟩

/-! ### Bytes of fields -/

theorem toNat_be16 (a b : Byte) : (be16 a b).toNat = a.toNat * 256 + b.toNat := by
  have ha := a.isLt
  have hb := b.isLt
  rw [be16_eq, BitVec.toNat_ofNat]
  omega

theorem bytesOf32_counts (n : BitVec 32) : bytesOf32 n = countBytes (n.toNat / 65536) ++ countBytes n.toNat := by
  rw [bytesOf32_eq, countBytes_eq, countBytes_eq, Nat.div_div_eq_div_mul]
  rfl

theorem bytesOf16_count (v : BitVec 16) : bytesOf16 v = countBytes v.toNat := by
  rw [countBytes, BitVec.ofNat_toNat, BitVec.setWidth_eq]

theorem linkSetByte_eq (g : LinkSet) : linkSetByte g = BitVec.ofNat 8 ((if g.get .A then 1 else 0) +
    (if g.get .B then 2 else 0) + (if g.get .C then 4 else 0) + (if g.get .D then 8 else 0)) := by
  obtain ⟨a, b, c, d⟩ := g
  cases a <;> cases b <;> cases c <;> cases d <;> rfl

theorem infoReport_flags_eq (w : InfoReport) : w.flags = BitVec.ofNat 8 ((if w.key = none then 0 else 1) +
    (if w.touch then 2 else 0) + (if w.flipTag = none then 0 else 4) + (if w.onGlass then 8 else 0)) := by
  unfold InfoReport.flags
  cases w.key <;> cases w.touch <;> cases w.flipTag <;> cases w.onGlass <;> rfl

/-! ### O7 -/

/-- A response's frame, with its payload (R178, R181). -/
theorem Response.bytes_eq (r : Response) : (Transmitter.response r).bytes =
    some (frameBytes 0x02 r.code (be16 0 r.seq) ([r.status.code, r.expected] ++ r.result.bytes)) := rfl

theorem toNat_be16_zero (b : Byte) : (be16 0 b).toNat = b.toNat := by
  rw [toNat_be16]
  exact (congrArg (· + b.toNat) (Nat.zero_mul 256)).trans (Nat.zero_add _)

/-- Settles O7: frames in by `ofFrame_frameBytes`, frames out field by field. -/
theorem frameRoundTrip : Obligations.FrameRoundTrip := by
  refine ⟨fun i l code seq p hwf hframed ty reserved => ofFrame_framed hwf hframed ty reserved, ?_⟩
  intro b1 b2 b4 signed flag handle stampHandle link check frame response event
  have hb2 : ∀ n, b2 n = countBytes n := fun n => (countBytes_eq n).symm
  have hb4 : ∀ n : BitVec 32, b4 n.toNat = bytesOf32 n := fun n => by
    rw [bytesOf32_counts, ← hb2, ← hb2]
  have hhalf : ∀ v : BitVec 16, b2 v.toNat = bytesOf16 v := fun v => by rw [hb2, bytesOf16_count]
  have hsigned : ∀ x, signed x = signedBytes x := fun x => by rw [signedBytes_eq, ← hb2]
  have hcheck : ∀ bytes, check bytes = crc16 bytes := fun bytes => (crc16_eq_bits bytes).symm
  have hframe : ∀ (ty code : Byte) (seq : Half) (p : List Byte), frame ty code seq.toNat p = some (frameBytes ty code seq p) := by
    intro ty code seq p
    simp only [frame, hcheck, hhalf]
    rw [hb2]
    rfl
  have hresponse : ∀ (r : Response) (fields : List Byte), r.result.bytes = fields → response r fields := fun r fields h => by
    simp only [response]
    rw [← toNat_be16_zero r.seq, hframe, Response.bytes_eq, h]
  have hevent : ∀ (r : EventRecord) (kind : Byte) (payload : List Byte), r.event.code = kind → r.event.payload = payload →
      event r kind payload := fun r kind payload hkind hpayload => by
    simp only [event]
    rw [hframe, ← hkind, ← hpayload]
    rfl
  have hlink : ∀ l : Link, b1 (link l) = linkCode l := fun l => by cases l <;> rfl
  have hflag : ∀ c : Bool, flagByte c = (flag c : Byte) := fun c => by cases c <;> rfl
  have hpanel : ∀ x : BitVec 2, x.setWidth 8 = b1 x.toNat := fun x => (BitVec.ofNat_toNat 8 x).symm
  refine ⟨fun ty code seq p => (hframe ty code seq p).symm, fun l bytes => ?_, fun l ty reserved seq p hp => ?_, rfl,
    fun r h => hresponse r [] (by rw [h]; rfl), fun r l e panel isOpen tier3 lease h => hresponse r _ ?_,
    fun r g h => hresponse r _ (by rw [h]; rfl), fun r g h => hresponse r _ (by rw [h]; rfl),
    fun r f h => hresponse r _ ?_, fun r w o h howner => hresponse r _ ?_, fun r tag kind h => hevent r _ _ ?_ ?_,
    fun r tag status h => hevent r _ _ ?_ ?_, fun r tag w g pixels h => hevent r _ _ ?_ ?_,
    fun r tag n h => hevent r _ _ ?_ ?_, fun r n count h => hevent r _ _ ?_ ?_,
    fun r kind k g x y h => hevent r _ _ ?_ ?_, fun r g h => hevent r _ _ ?_ ?_, fun r g h => hevent r _ _ ?_ ?_,
    fun r count h => hevent r _ _ ?_ ?_, rfl, rfl, rfl, rfl, rfl⟩
  · rw [ofFrame_eq_checkFailed_iff]
    simp only [failsCheck, Bool.or_eq_true, decide_eq_true_eq, hcheck, Config.payloadLimit, or_assoc, carriedCheck,
      declaredLength, toNat_be16, ← BitVec.toNat_inj, ne_eq]
    exact Iff.rfl
  · intro taken
    have htaken : ∀ code, taken code = commandOf l code seq p := fun code => ofFrame_frameBytes ty code p l reserved seq hp
    simp only [htaken]
    refine ⟨rfl, rfl, rfl, rfl, fun code hwf => commandOf_of_unnamed ?_ l seq p⟩
    simpa [Instr.wf] using hwf
  · rw [h, Result.bytes, hb2, hlink, hflag, hflag, hpanel]
    cases e <;> rfl
  · rw [h, Result.bytes, hb2, hb2, hb4, hb2, hb2, hflag, hpanel]
  · rw [h, Result.bytes, howner, ownerByte, hlink, hb2 w.width, hb2 w.height, hsigned, hsigned, infoReport_flags_eq,
      linkSetByte_eq, bytesOf16_count, bytesOf16_count, ← hb2 (w.key.getD 0).toNat, ← hb2 (w.flipTag.getD 0).toNat]
    cases w.key <;> cases w.flipTag <;> cases w.buffering <;> cases w.front <;> rfl
  all_goals rw [h]
  · rfl
  · rw [Event.payload, hhalf]
  · rfl
  · rw [Event.payload, hhalf]
  · rfl
  · rw [Event.payload, hhalf, hb2, hb2]
    simp only [hhalf]
  · rfl
  · rw [Event.payload, hhalf, hb4]
  · rfl
  · rw [Event.payload, hb4, hb2]
  · cases kind <;> rfl
  · rw [Event.payload, hsigned, hsigned]
    rfl
  · rfl
  · rfl
  · rfl
  · rfl
  · rfl
  · rw [Event.payload, hb2]

end Sys2Proof.Machine
end

section
/-! A command after which every transmitter chooses; and which windows the examination of heads leaves as they are. -/

namespace Sys2Proof.Machine

open Sys2Proof

/-! ### Every transmitter chooses -/

theorem State.transmit_link_congr {s t : State} {l : Link} (hlink : t.link l = s.link l)
    (hevents : t.eventsOf l = s.eventsOf l) : (t.transmit l).link l = (s.transmit l).link l := by
  unfold State.transmit
  dsimp only
  rw [hlink, hevents]
  (repeat' split) <;> simp [hlink]

theorem State.foldl_transmit_link (ls : List Link) (hn : ls.Nodup) (s : State) (l : Link) :
    (ls.foldl State.transmit s).link l = if l ∈ ls then (s.transmit l).link l else s.link l := by
  induction ls generalizing s with
  | nil => rfl
  | cons k ls ih =>
    obtain ⟨hk, hn'⟩ := List.nodup_cons.1 hn
    rw [List.foldl_cons, ih hn']
    by_cases hkl : k = l
    · subst hkl
      rw [if_neg hk, if_pos List.mem_cons_self]
    · have hlink := s.transmit_link_ne (Ne.symm hkl)
      rw [hlink, State.transmit_link_congr hlink (s.transmit_eventsOf_ne (Ne.symm hkl))]
      simp [Ne.symm hkl]

/-- When every transmitter chooses, each chooses by its own link alone. -/
theorem State.transmitAll_link (s : State) (l : Link) : s.transmitAll.link l = (s.transmit l).link l := by
  rw [State.transmitAll, State.foldl_transmit_link allLinks nodup_allLinks, if_pos (mem_allLinks l)]

/-- An executed command after which every transmitter chooses: the state its block leaves, with the link's controller replaced
by one that has replied. -/
theorem State.commandAll_replied {s u : State} {l : Link} {seq code : Byte} {status : Status} {result : Result}
    {body : State → Reply} (h : s.ready l seq) (hbody : body (s.renewedLease l) = ⟨u, status, result⟩)
    (hlink : u.link l = (s.link l).renewed) :
    ∃ c, s.commandAll l seq code body = (u.setLink l c).transmitAll ∧
      Replied (s.link l) ((s.commandAll l seq code body).link l) seq code status result := by
  have hrenewed : (u.setLink l (s.link l)).renewedLease l = u := by
    rw [State.renewedLease, State.link_setLink_self, State.setLink_setLink, ← hlink]
    exact u.setLink_link l
  have hexec : s.commandAll l seq code body = ((⟨u, status, result⟩ : Reply).deliver l seq code).transmitAll := by
    rw [State.commandAll, if_pos h.1, State.takeFrame_of_ready h, hbody]
  refine ⟨_, hexec, ?_⟩
  have hreplied := (State.deliver_answers (u := u.setLink l (s.link l)) (l := l) (seq := seq) (code := code)
    (status := status) (result := result) (by rw [State.link_setLink_self]; exact h.2.2.2.2.symm)).replied
  rw [hrenewed, State.link_setLink_self] at hreplied
  rw [hexec, State.transmitAll_link]
  exact hreplied

/-! ### Windows that no head arms -/

/-- The window can have no flip armed: it is not live, or a flip is pending. -/
def Window.Unarmable (w : Window) : Prop := w.live = false ∨ w.flipPending ≠ none

/-- Every window that can have no flip armed keeps its record. -/
def State.KeepsUnarmable (s t : State) : Prop := ∀ i, (s.window i).Unarmable → t.window i = s.window i

section
variable {s t u : State}

theorem State.KeepsUnarmable.refl (s : State) : s.KeepsUnarmable s := fun _ _ => rfl

theorem State.KeepsUnarmable.trans (h : s.KeepsUnarmable t) (h' : t.KeepsUnarmable u) : s.KeepsUnarmable u :=
  fun i hi => (h' i (by rw [h i hi]; exact hi)).trans (h i hi)

theorem State.KeepsUnarmable.of_eq (h : t.windows = s.windows) : s.KeepsUnarmable t := fun i _ => by
  rw [State.window, State.window, h]

theorem State.KeepsUnarmable.foldl {α : Type} {f : State → α → State} (h : ∀ (t : State) x, t.KeepsUnarmable (f t x))
    (xs : List α) (s : State) : s.KeepsUnarmable (xs.foldl f s) :=
  foldl_keeps (fun t => s.KeepsUnarmable t) f (fun t x ht => ht.trans (h t x)) xs (.refl s)

end

/-- A PRESENT at the head arms a live window without a pending flip. -/
theorem State.takePresent_keepsUnarmable {s : State} {l : Link} {j : Job} {h : Handle} (hop : j.op = .present h)
    (hfree : s.waitsForFlip j.op = false) : s.KeepsUnarmable (s.takePresent l j h) := by
  cases hlive : s.liveHandle h with
  | false =>
    rw [State.takePresent_gone hlive]
    exact .of_eq (by simp)
  | true =>
    rw [State.takePresent, if_pos hlive]
    intro i hi
    rw [State.window_setWindow]
    split
    · rename_i hih
      subst hih
      obtain ⟨hgen, hstate⟩ := State.liveHandle_iff.1 hlive
      rcases hi with hdead | hflip
      · rw [Window.live_iff.2 hstate] at hdead
        cases hdead
      · have hwaits := (State.waitsForFlip_iff (op := j.op)).2 ⟨h, by rw [hop]; rfl, hgen, by rcases hstate with e | e <;> simp [e], hflip⟩
        rw [hfree] at hwaits
        cases hwaits
    · rfl

theorem State.examine_keepsUnarmable (s : State) (l : Link) (js : List Job) : s.KeepsUnarmable (s.examine l js) := by
  induction js generalizing s with
  | nil => exact .of_eq rfl
  | cons j js ih =>
    unfold State.examine
    split
    · exact .of_eq rfl
    · rename_i hwaits
      rw [Bool.not_eq_true] at hwaits
      split
      · exact .trans (.of_eq (by simp)) (ih _)
      · rename_i h hop
        exact (State.takePresent_keepsUnarmable hop hwaits).trans (ih _)
      · exact .of_eq rfl

theorem State.examineHead_keepsUnarmable (s : State) (l : Link) : s.KeepsUnarmable (s.examineHead l) := by
  unfold State.examineHead
  split
  · exact .refl s
  · exact .refl s
  · exact s.examine_keepsUnarmable l _
  · exact s.examine_keepsUnarmable l _

theorem State.grants_keepsUnarmable (n : Nat) (s : State) : s.KeepsUnarmable (State.grants n s) := by
  refine State.grants_keeps (P := fun t => s.KeepsUnarmable t) (fun t l j _ status ht _ _ _ _ => ?_)
    (fun t l j _ ht _ _ _ _ => ?_) n (.refl s)
  · refine ht.trans (.trans (.of_eq ?_) (State.examineHead_keepsUnarmable _ l))
    simp [State.granted_windows]
  · exact ht.trans (.of_eq (t.granted_windows l))

theorem State.scheduleAll_keepsUnarmable (s : State) : s.KeepsUnarmable s.scheduleAll :=
  (State.KeepsUnarmable.foldl State.examineHead_keepsUnarmable allLinks s).trans (State.grants_keepsUnarmable _ _)

/-! ### Heads that rest -/

/-- A job that waits for a flip waits on while its target's record stays. -/
theorem State.KeepsUnarmable.waitsForFlip {s t : State} (h : s.KeepsUnarmable t) {op : JobOp}
    (hwaits : s.waitsForFlip op = true) : t.waitsForFlip op = true := by
  obtain ⟨g, htarget, hgen, hfree, hflip⟩ := State.waitsForFlip_iff.1 hwaits
  have hwindow := h g.slot (.inr hflip)
  exact State.waitsForFlip_iff.2 ⟨g, htarget, by rw [hwindow]; exact hgen, by rw [hwindow]; exact hfree,
    by rw [hwindow]; exact hflip⟩

/-- A head at rest rests while another link's head is examined. -/
theorem State.headRests_examineHead {s : State} {l k : Link} (hk : k ≠ l) (h : s.headRests k) :
    (s.examineHead l).headRests k := by
  unfold State.headRests at *
  rw [s.examineHead_queue_ne hk]
  rcases h with h | h | h | ⟨h, j, rest, hentries, hwaits⟩
  · exact .inl h
  · exact .inr (.inl h)
  · exact .inr (.inr (.inl h))
  · exact .inr (.inr (.inr ⟨h, j, rest, hentries, (s.examineHead_keepsUnarmable l).waitsForFlip hwaits⟩))

/-- Where the heads of all links but one rest, the examination of all is that of the one. -/
theorem State.foldl_examineHead_of_others {s : State} {l : Link} (h : ∀ k, k ≠ l → s.headRests k) :
    allLinks.foldl State.examineHead s = s.examineHead l := by
  have hfold : ∀ ls : List Link, ls.Nodup → ∀ t : State, (∀ k ∈ ls, k ≠ l → t.headRests k) →
      ls.foldl State.examineHead t = if l ∈ ls then t.examineHead l else t := by
    intro ls
    induction ls with
    | nil => exact fun _ t _ => rfl
    | cons k ls ih =>
      intro hn t ht
      obtain ⟨hk, hn'⟩ := List.nodup_cons.1 hn
      rw [List.foldl_cons]
      by_cases hkl : k = l
      · subst hkl
        rw [if_pos List.mem_cons_self, ih hn' _ fun m hm hmk =>
          State.headRests_examineHead hmk (ht m (List.mem_cons_of_mem _ hm) hmk), if_neg hk]
      · rw [State.examineHead_of_rests (ht k List.mem_cons_self hkl), ih hn' t fun m hm =>
          ht m (List.mem_cons_of_mem _ hm)]
        simp [Ne.symm hkl]
  rw [hfold allLinks nodup_allLinks s fun k _ => h k, if_pos (mem_allLinks l)]

/-- Under the law of the job queues, the heads of the other links rest where their flips stay pending. -/
theorem JobLaw.headRests {s t : State} (h : JobLaw s) {l : Link} {P : Slot → Prop} (hwait : s.othersWaitFor l P)
    (hqueue : ∀ k, k ≠ l → t.queue k = s.queue k)
    (hwindow : ∀ i, P i → (t.window i).gen = (s.window i).gen ∧ (t.window i).state = (s.window i).state ∧
      (t.window i).flipPending = (s.window i).flipPending) : ∀ k, k ≠ l → t.headRests k := by
  intro k hk
  unfold State.headRests
  rw [hqueue k hk]
  cases hhead : (s.queue k).head with
  | eligible => exact .inl rfl
  | inFlight => exact .inr (.inl rfl)
  | empty => exact .inr (.inr (.inl ⟨rfl, (h.emptyHead k).1 hhead⟩))
  | waitFlip =>
    obtain ⟨j, rest, g, hentries, htarget, hcurrent, hflip, hP⟩ := hwait k hk hhead
    obtain ⟨hgen, hstate, hflip'⟩ := hwindow g.slot hP
    obtain ⟨hfree, hgen'⟩ := State.current_eq_true_iff.1 hcurrent
    exact .inr (.inr (.inr ⟨rfl, j, rest, hentries, State.waitsForFlip_iff.2
      ⟨g, htarget, hgen.trans hgen', by rw [hstate]; exact hfree, by rw [hflip']; exact hflip⟩⟩))

end Sys2Proof.Machine
end

section
/-! What the close of a window makes of the pool and of the event queues, and CLOSE_WINDOW (O31). -/

namespace Sys2Proof.Machine

open Sys2Proof

/-! ### A close up to its release test -/

/-- A close up to its release test (R8). -/
def State.closing (s : State) (i : Slot) (reason : CloseReason) : State :=
  let w := s.window i
  let h : Handle := ⟨i, w.gen⟩
  let off := (s.setStack (s.stack.filter fun j => decide (j ≠ i))).setWindow i (w.closed reason)
  let told := (off.cancelPresent w).cancelCaptures h (decide (reason = .owner))
  told.setEngine (told.engine.map fun f => f.windowCloses h)

section
variable (s : State) (i : Slot) (reason : CloseReason)

theorem State.closing_window_self : (s.closing i reason).window i = (s.window i).closed reason := by simp [State.closing]

theorem State.closing_pool : (s.closing i reason).pool = s.pool := by simp [State.closing]

theorem State.closing_isUp (k : Link) : (s.closing i reason).isUp k = s.isUp k := by simp [State.closing]

theorem State.closing_namedInFlight (n : Handle) : (s.closing i reason).namedInFlight n = s.namedInFlight n :=
  State.namedInFlight_map (g := fun f => f.windowCloses ⟨i, (s.window i).gen⟩) (by simp [State.closing])
    (fun _ => InFlight.windowCloses_job _ _) n

/-- A close releases its window at once if it is unused (R12). -/
theorem State.enterClosing_eq :
    s.enterClosing i reason = if s.unused i = true then (s.closing i reason).release i else s.closing i reason := by
  have hwindow := s.closing_window_self i reason
  have htest : s.enterClosing i reason = (s.closing i reason).releaseTest i := rfl
  have hstate : ((s.window i).closed reason).state = .closing := rfl
  have hglass : ((s.window i).closed reason).onGlass = (s.window i).onGlass := rfl
  have hgen : ((s.window i).closed reason).gen = (s.window i).gen := rfl
  rw [htest, State.releaseTest_eq, hwindow, hstate, hglass, hgen, s.closing_namedInFlight]
  simp [State.unused]

theorem State.enterClosing_pool :
    (s.enterClosing i reason).pool =
      if s.unused i = true then
        s.pool.release (s.window i).owner ((s.window i).buf0 ++ (s.window i).buf1) (s.window i).pages
      else s.pool := by
  rw [State.enterClosing_eq]
  split
  · rw [State.release_pool, s.closing_pool, s.closing_window_self]
    rfl
  · exact s.closing_pool i reason

end

/-! ### The event queues -/

theorem State.release_eventsOf (s : State) (i : Slot) (k : Link) :
    (s.release i).eventsOf k =
      if (s.window i).owner = some k ∧ (s.window i).closeReason = some .owner ∧ s.isUp k = true then
        (s.eventsOf k).queueReserved (.windowClosed ⟨i, (s.window i).gen⟩)
      else s.eventsOf k := by
  unfold State.release
  dsimp only
  generalize hfreed : (s.setWindow i _).setPool _ = freed
  have hevents : ∀ k, freed.eventsOf k = s.eventsOf k := fun k => by rw [← hfreed]; rfl
  have hup : ∀ k, freed.isUp k = s.isUp k := fun k => by rw [← hfreed]; rfl
  split
  · rename_i o howner hreason
    rw [State.handReserved_eventsOf, howner, hreason, hup, hevents, hevents]
    by_cases hk : k = o
    · simp [hk]
    · simp [hk, Ne.symm hk]
  · rename_i o howner hreason
    rw [if_neg (by simp [hreason]), State.reportRelease_eq]
    exact hevents k
  · rename_i hnot _
    rw [if_neg fun ⟨howner, hreason, _⟩ => hnot _ howner hreason, hevents]

theorem State.cancelPresent_eventsOf (s : State) (w : Window) (k : Link) :
    (s.cancelPresent w).eventsOf k =
      if w.owner = some k ∧ s.isUp k = true then
        match w.flipPending with
        | some f => (s.eventsOf k).queueReserved (.jobFailed f.tag .cancelled)
        | none => s.eventsOf k
      else s.eventsOf k := by
  unfold State.cancelPresent
  cases hflip : w.flipPending with
  | none => cases w.owner <;> simp
  | some f =>
    cases howner : w.owner with
    | none => simp
    | some o =>
      dsimp only
      rw [State.handReserved_eventsOf]
      by_cases hk : k = o
      · simp [hk]
      · simp [hk, Ne.symm hk]

/-- A close tells no link but the window's owner, and that one while it is UP (R151). -/
theorem State.closing_eventsOf_quiet {s : State} {i : Slot} (reason : CloseReason) {k : Link}
    (hk : ¬ ((s.window i).owner = some k ∧ s.isUp k = true)) : (s.closing i reason).eventsOf k = s.eventsOf k := by
  unfold State.closing
  dsimp only
  generalize hoff : (s.setStack _).setWindow i _ = off
  have hup : off.isUp k = s.isUp k := by rw [← hoff]; rfl
  have hwindow : off.window i = (s.window i).closed reason := by rw [← hoff]; simp
  have hevents : off.eventsOf k = s.eventsOf k := by rw [← hoff]; rfl
  rw [State.eventsOf_setEngine, (State.cancelCaptures_eventsOf _ _ _ k).2, State.cancelPresent_eventsOf, if_neg (hup ▸ hk),
    hevents]
  rintro ⟨-, howner, hisUp⟩
  simp only [State.cancelPresent_frame, hwindow] at howner
  simp only [State.cancelPresent_frame, hup] at hisUp
  exact hk ⟨howner, hisUp⟩

/-- What the owner's queue takes at a close by the owner: the discarded flip, then the cancelled captures (R8, R65, R136). -/
def State.toldClose (s : State) (l : Link) (h : Handle) : EventQueue :=
  (List.finRange 5).foldl (fun q k => q.told (s.cancelEvent h k))
    (match (s.window h.slot).flipPending with
      | some f => (s.eventsOf l).queueReserved (.jobFailed f.tag .cancelled)
      | none => s.eventsOf l)

theorem State.closing_eventsOf_owner {s : State} {h : Handle} (hgen : (s.window h.slot).gen = h.gen) {l : Link}
    (howner : (s.window h.slot).owner = some l) (hup : s.isUp l = true) :
    (s.closing h.slot .owner).eventsOf l = s.toldClose l h := by
  unfold State.closing State.toldClose
  dsimp only
  generalize hoff : (s.setStack _).setWindow h.slot _ = off
  have hisUp : off.isUp l = true := by rw [← hup, ← hoff]; rfl
  have hevents : off.eventsOf l = s.eventsOf l := by rw [← hoff]; rfl
  have hwindow : off.window h.slot = (s.window h.slot).closed .owner := by rw [← hoff]; simp
  have hscanout : off.scanout = s.scanout := by rw [← hoff]; rfl
  have hcontact : ∀ k, off.contact k = s.contact k := fun k => by rw [← hoff]; rfl
  have hhears : (off.cancelPresent (s.window h.slot)).hears h true l :=
    ⟨rfl, by simp only [State.cancelPresent_frame, hwindow]; exact howner, by simpa only [State.cancelPresent_frame] using hisUp⟩
  have hhandle : (⟨h.slot, (s.window h.slot).gen⟩ : Handle) = h := by rw [hgen]
  rw [State.eventsOf_setEngine, hhandle, decide_eq_true rfl, (State.cancelCaptures_eventsOf _ h true l).1 hhears,
    State.cancelPresent_eventsOf, if_pos ⟨howner, hisUp⟩, hevents]
  have horigin : (off.cancelPresent (s.window h.slot)).touchOrigin h = s.touchOrigin h := by
    simp only [State.touchOrigin, State.cancelPresent_frame, hscanout, hwindow]
    rfl
  refine List.foldl_ext _ _ _ fun q k _ => ?_
  unfold State.cancelEvent State.touchEvent
  simp only [horigin, State.cancelPresent_frame, hcontact]

/-- The event queues after a close by the owner l, which is UP. -/
theorem State.enterClosing_eventsOf_owner {s : State} {h : Handle} (hgen : (s.window h.slot).gen = h.gen) {l : Link}
    (howner : (s.window h.slot).owner = some l) (hup : s.isUp l = true) :
    (s.enterClosing h.slot .owner).eventsOf l =
      if s.unused h.slot = true then (s.toldClose l h).queueReserved (.windowClosed h) else s.toldClose l h := by
  have hwindow := s.closing_window_self h.slot .owner
  have htold := State.closing_eventsOf_owner hgen howner hup
  rw [State.enterClosing_eq]
  split
  · rw [State.release_eventsOf, hwindow, s.closing_isUp, htold, if_pos ⟨howner, rfl, hup⟩]
    show (s.toldClose l h).queueReserved (.windowClosed ⟨h.slot, (s.window h.slot).gen⟩) = _
    rw [hgen]
  · exact htold

theorem State.enterClosing_eventsOf_quiet {s : State} {i : Slot} (reason : CloseReason) {k : Link}
    (hk : ¬ ((s.window i).owner = some k ∧ s.isUp k = true)) : (s.enterClosing i reason).eventsOf k = s.eventsOf k := by
  have hquiet := State.closing_eventsOf_quiet reason hk
  rw [State.enterClosing_eq]
  split
  · rw [State.release_eventsOf, s.closing_window_self, s.closing_isUp, if_neg fun h => hk ⟨h.1, h.2.2⟩, hquiet]
  · exact hquiet

/-! ### CLOSE_WINDOW -/

theorem State.mayChange.handle_eq {s : State} {l : Link} {h : Handle} (hmay : s.mayChange l h) :
    (⟨h.slot, (s.window h.slot).gen⟩ : Handle) = h := by
  rw [hmay.2.1]

theorem closeReply_closes {l : Link} {p : List Byte} {h : Handle} {r : State} (hp : handleField p = some h)
    (hmay : r.mayChange l h) :
    closeReply l p r = ⟨(r.enterClosing h.slot .owner).scheduleAll, .ok, .none⟩ := by
  rw [closeReply, hp]
  exact State.changeWindow_of_mayChange hmay _

theorem Window.closes_unarmable (w : Window) (reason : CloseReason) (named : Bool) : (w.closes reason named).Unarmable :=
  .inl (w.closes_not_live reason named)

/-- The abandon request that a close sets, written out (R8, R88). -/
theorem InFlight.windowCloses_eq (f : InFlight) (h : Handle) :
    f.windowCloses h =
      { f with abandon :=
          if f.abandon ≠ none then f.abandon
          else if f.job.op.target = some h then some .abandoned
          else if f.job.op.source = some h then some .sourceLost
          else none } := by
  unfold InFlight.windowCloses
  cases habandon : f.abandon with
  | some a => cases f; simp_all
  | none =>
    simp only [Option.isSome_none, Bool.false_eq_true, if_false, ne_eq, not_true_eq_false]
    split
    · rfl
    · split
      · rfl
      · rw [← habandon]

/-- A window that closes while it is still used waits with its pages; any other is released with its pages at the scrub queue's
tail (R8, R12, R13). -/
theorem State.enterClosing_result {s : State} {l : Link} {h : Handle} (hmay : s.mayChange l h) :
    (s.stillUsed h.slot → (s.enterClosing h.slot .owner).window h.slot = (s.window h.slot).closed .owner ∧
      (s.enterClosing h.slot .owner).pool = s.pool) ∧
    (¬ s.stillUsed h.slot → (s.enterClosing h.slot .owner).window h.slot = ((s.window h.slot).closed .owner).released ∧
      (s.enterClosing h.slot .owner).pool =
        { s.pool with
            scrub := s.pool.scrub ++ (s.window h.slot).buf0 ++ (s.window h.slot).buf1
            busy := decide (s.pool.scrub ++ (s.window h.slot).buf0 ++ (s.window h.slot).buf1 ≠ [])
            held := s.pool.held.set l (s.pool.held.get l - (s.window h.slot).pages) }) := by
  rw [State.enterClosing_window_self, State.enterClosing_pool, Window.closes]
  refine ⟨fun hused => ?_, fun hunused => ?_⟩
  · rw [State.unused_eq_false_iff.2 hused, if_pos (Bool.or_eq_true _ _ ▸ hused), if_neg Bool.false_ne_true]
    exact ⟨rfl, rfl⟩
  · have hneither : ¬ ((s.window h.slot).onGlass || s.namedInFlight ⟨h.slot, (s.window h.slot).gen⟩) = true := by
      rwa [Bool.or_eq_true]
    rw [State.unused_iff.2 hunused, if_neg hneither, if_pos rfl, Pool.release_eq, hmay.2.2.2, List.append_assoc]
    exact ⟨rfl, rfl⟩

/-- What the owner is told at a close, contact by contact (R133, R136). -/
theorem State.toldClose_eq (s : State) (l : Link) (h : Handle) :
    s.toldClose l h = (List.finRange 5).foldl (fun (q : EventQueue) k =>
        match (s.contact k).capture, (s.contact k).last with
        | some g, some pos =>
          if g = h then q.queueUnreserved (.touch .cancel k h (pos.x - (s.touchOrigin h).1) (pos.y - (s.touchOrigin h).2))
          else q
        | _, _ => q)
      (match (s.window h.slot).flipPending with
        | some f => (s.eventsOf l).queueReserved (.jobFailed f.tag .cancelled)
        | none => s.eventsOf l) :=
  List.foldl_ext _ _ _ fun q _ _ => State.told_cancelEvent rfl rfl q

/-- Settles O31: the close by its parts, the examination of heads by `scheduleAll_rearms`, and the answer by
`commandAll_replied`. -/
theorem closeWindowResult : Obligations.CloseWindowResult := by
  intro l seq p s h hready hp hmay
  have hmay' : (s.renewedLease l).mayChange l h := hmay
  have hup : (s.renewedLease l).isUp l = true := by
    rw [State.isUp, State.renewedLease_link_self]
    simp [LinkCtl.renewed, hready.2.1]
  have honly := (s.renewedLease l).enterClosing_only h.slot .owner
  have hlink := fun k => (s.renewedLease l).enterClosing_link h.slot .owner k
  have hstack := (s.renewedLease l).enterClosing_stack h.slot .owner
  have hcontact := (s.renewedLease l).enterClosing_contact h.slot .owner
  have hself := (s.renewedLease l).enterClosing_window_self h.slot .owner
  have hne := fun j => (s.renewedLease l).enterClosing_window_ne (i := h.slot) (j := j) .owner
  have hengine := (s.renewedLease l).enterClosing_engine h.slot .owner
  have hresult := State.enterClosing_result hmay'
  have howner := State.enterClosing_eventsOf_owner hmay'.2.1 hmay'.2.2.2 hup
  have hquiet := fun k => State.enterClosing_eventsOf_quiet (s := s.renewedLease l) (i := h.slot) .owner (k := k)
  have hreply := closeReply_closes hp hmay'
  have hhandle := hmay'.handle_eq
  rw [hhandle] at hcontact hself hengine
  generalize (s.renewedLease l).enterClosing h.slot .owner = u at *
  have hlinks : ∀ k, u.link k = (s.renewedLease l).link k := fun k => (hlink k).trans (if_neg fun hk => nomatch hk.2.2)
  obtain ⟨c, hexec, hreplied⟩ := State.commandAll_replied (code := 0x11#8) hready hreply (by
    simp only [State.scheduleAll_frame]
    exact (hlinks l).trans (s.renewedLease_link_self l))
  have hpart : { u with windows := s.windows, stack := s.stack, pool := s.pool, contacts := s.contacts, engine := s.engine,
                        events := s.events, links := s.links } = s :=
    (congrArg (fun x : State => { x with links := s.links }) honly :)
  have hqueues : u.queues = s.queues := (congrArg State.queues honly :)
  have hwindow : u.scheduleAll.window h.slot = u.window h.slot :=
    u.scheduleAll_keepsUnarmable h.slot (by rw [hself]; exact Window.closes_unarmable _ _ _)
  refine ⟨_, u, c, rfl, hexec, fun hlaw hwait => ?_, hreplied, ?_, fun k => ?_, fun hused => ?_, fun hunused => ?_, fun j hj => ?_,
    ?_, ?_, ?_, ?_, ?_, hqueues, hpart, fun k hk => ?_, ?_, hstack, hcontact, hne, ⟨hresult.1, hresult.2⟩, ?_, ⟨?_, ?_⟩,
    fun k hk => ?_⟩
  · refine State.foldl_examineHead_of_others (hlaw.headRests hwait (fun k _ => ?_) fun i hi => ?_)
    · rw [State.queue, State.queue, hqueues]
    · rw [hne i hi]
      exact ⟨rfl, rfl, rfl⟩
  · rw [hexec]
    exact (by simp : _ = u.stack).trans hstack
  · rw [hexec]
    exact (by simp : _ = u.contact k).trans (hcontact k)
  · obtain ⟨hclosed, hpool⟩ := hresult.1 hused
    rw [hexec]
    simpa using ⟨hwindow.trans hclosed, hpool⟩
  · obtain ⟨hreleased, hpool⟩ := hresult.2 hunused
    rw [hexec]
    simp only [State.transmitAll_frame, State.window_setLink, hwindow, hreleased]
    refine ⟨rfl, congrArg (· + 1) hmay.2.1, rfl, rfl, rfl, rfl, ?_⟩
    simp [hpool, State.renewedLease]
  · have hrearmed : ((s.renewedLease l).window j).Rearmed (u.scheduleAll.window j) :=
      hne j hj ▸ u.scheduleAll_rearms j
    rw [hexec]
    simp only [State.transmitAll_frame, State.window_setLink]
    exact (congrArg (fun w : Window => { w with flipPending := none }) hrearmed :)
  · rw [hexec]; simpa using (congrArg State.mem hpart :)
  · rw [hexec]; simpa using (congrArg State.scanout hpart :)
  · rw [hexec]; simpa using (congrArg State.pending hpart :)
  · rw [hexec]; simpa using (congrArg State.pins hpart :)
  · rw [hexec]; simpa using (congrArg State.resetN hpart :)
  · exact (hlinks k).trans (State.link_setLink_ne _ _ _ _ hk)
  · exact (hlinks l).trans (s.renewedLease_link_self l)
  · rw [hengine]
    exact congrArg (fun g => Option.map g s.engine) (funext fun f => f.windowCloses_eq h)
  · intro hused
    rw [howner, (State.unused_eq_false_iff (s := s.renewedLease l)).2 hused, if_neg Bool.false_ne_true, State.toldClose_eq]
    rfl
  · intro hunused
    rw [howner, if_pos ((State.unused_iff (s := s.renewedLease l)).2 hunused), State.toldClose_eq]
    rfl
  · refine hquiet k fun hk' => hk ?_
    exact Option.some.inj (hk'.1.symm.trans hmay'.2.2.2)

end Sys2Proof.Machine
end

section
/-! What the jobs that leave a queue make of the stamps they name: the records, the owned counts and the event queues, exactly
(R92, R122, R123). -/

namespace Sys2Proof.Machine

open Sys2Proof

/-! ### One stamp -/

/-- The record of a stamp once n references have been released (R122, R123). -/
def Stamp.releasedBy (st : Stamp) (n : Nat) : Stamp :=
  if st.state = .retiring ∧ 0 < n ∧ st.references ≤ n then st.freed else { st with references := st.references - n }

@[simp] theorem Stamp.releasedBy_zero (st : Stamp) : st.releasedBy 0 = st := by simp [Stamp.releasedBy]

theorem Stamp.freed_releasedBy (st : Stamp) (n : Nat) : st.freed.releasedBy n = st.freed := by
  simp [Stamp.releasedBy, Stamp.freed]

theorem Stamp.releasedBy_add (st : Stamp) (a b : Nat) : (st.releasedBy a).releasedBy b = st.releasedBy (a + b) := by
  by_cases hfreed : st.state = .retiring ∧ 0 < a ∧ st.references ≤ a
  · have hlater : st.state = .retiring ∧ 0 < a + b ∧ st.references ≤ a + b := ⟨hfreed.1, by omega, by omega⟩
    rw [Stamp.releasedBy.eq_def st, if_pos hfreed, Stamp.freed_releasedBy, Stamp.releasedBy, if_pos hlater]
  · rw [Stamp.releasedBy.eq_def st a, if_neg hfreed]
    unfold Stamp.releasedBy
    dsimp only
    by_cases hretiring : st.state = .retiring
    · by_cases hb : 0 < b ∧ st.references - a ≤ b
      · rw [if_pos ⟨hretiring, hb⟩, if_pos ⟨hretiring, by omega, by omega⟩]
        rfl
      · rw [if_neg fun h => hb h.2, if_neg, Nat.sub_sub]
        rintro ⟨-, hpos, hle⟩
        exact hfreed ⟨hretiring, by omega, by omega⟩
    · rw [if_neg fun h => hretiring h.1, if_neg fun h => hretiring h.1, Nat.sub_sub]

/-- The next release of a reference ends the stamp's retirement. -/
def Stamp.endsNext (st : Stamp) : Bool := decide (st.state = .retiring) && decide (st.references ≤ 1)

theorem Stamp.endsNext_iff {st : Stamp} : st.endsNext = true ↔ st.state = .retiring ∧ st.references ≤ 1 := by
  simp [Stamp.endsNext]

theorem Stamp.releasedBy_endsNext {st : Stamp} {n : Nat} :
    (st.releasedBy n).endsNext = true ↔ st.state = .retiring ∧ n + 1 = max 1 st.references := by
  rw [Stamp.endsNext_iff, Stamp.releasedBy]
  split
  · rename_i hfreed
    obtain ⟨hretiring, hpos, hle⟩ := hfreed
    have hnot : ¬ n + 1 = max 1 st.references := by omega
    simp [Stamp.freed, hnot]
  · rename_i hstays
    dsimp only
    refine and_congr_right fun hretiring => ?_
    have : ¬ (0 < n ∧ st.references ≤ n) := fun h => hstays ⟨hretiring, h⟩
    omega

/-- Releases change neither the generation nor, before the retirement ends, the owner. -/
theorem Stamp.releasedBy_gen_owner {st : Stamp} {n : Nat} (h : (st.releasedBy n).endsNext = true) :
    (st.releasedBy n).gen = st.gen ∧ (st.releasedBy n).owner = st.owner := by
  have hnot : ¬ (st.state = .retiring ∧ 0 < n ∧ st.references ≤ n) := by
    obtain ⟨-, hnext⟩ := Stamp.releasedBy_endsNext.1 h
    omega
  rw [Stamp.releasedBy, if_neg hnot]
  exact ⟨rfl, rfl⟩

/-! ### One reference -/

section
variable (s : State) (h : StampHandle)

theorem State.releaseReference_stamp_eq (i : StampSlot) :
    (s.releaseReference h).stamp i = if i = h.slot then (s.stamp h.slot).releasedBy 1 else s.stamp i := by
  have hlast : (s.stamp h.slot).references - 1 = 0 ↔ (s.stamp h.slot).references ≤ 1 := by omega
  rw [State.releaseReference_stamp, Stamp.releasedBy]
  simp only [hlast, Nat.one_pos, true_and]
  rfl

theorem State.releaseReference_ownedStamps_eq (l : Link) :
    (s.releaseReference h).ownedStamps.get l =
      s.ownedStamps.get l - if (s.stamp h.slot).endsNext = true ∧ (s.stamp h.slot).owner = some l then 1 else 0 := by
  have hlast : (s.stamp h.slot).references - 1 = 0 ↔ (s.stamp h.slot).references ≤ 1 := by omega
  rw [State.releaseReference_ownedStamps]
  simp only [hlast, Stamp.endsNext_iff, and_assoc]
  split <;> simp

theorem State.releaseReference_eventsOf (k : Link) :
    (s.releaseReference h).eventsOf k =
      if (s.stamp h.slot).endsNext = true ∧ (s.stamp h.slot).owner = some k ∧ s.isUp k = true then
        (s.eventsOf k).queueUnreserved (.stampFreed ⟨h.slot, (s.stamp h.slot).gen⟩)
      else s.eventsOf k := by
  rw [State.releaseReference_eq]
  simp only [Stamp.endsNext_iff]
  by_cases hends : (s.stamp h.slot).state = .retiring ∧ (s.stamp h.slot).references ≤ 1
  · rw [if_pos hends]
    cases howner : (s.stamp h.slot).owner with
    | none => simp
    | some o =>
      dsimp only
      rw [State.handUnreserved_eventsOf]
      by_cases hk : k = o
      · subst hk
        simp [hends]
      · simp [hk, Ne.symm hk]
  · rw [if_neg hends, if_neg fun h => hends h.1]
    rfl

end

/-! ### The jobs that leave -/

theorem namings_concat (js : List Job) (j : Job) (i : StampSlot) :
    namings (js ++ [j]) i = namings js i + if j.op.stamp.map StampHandle.slot = some i then 1 else 0 := by
  rw [namings_append, namings_cons]
  simp [namings]

theorem State.releaseStampOf_stamp (s : State) (j : Job) (i : StampSlot) :
    (s.releaseStampOf j).stamp i =
      (s.stamp i).releasedBy (if j.op.stamp.map StampHandle.slot = some i then 1 else 0) := by
  unfold State.releaseStampOf
  cases hstamp : j.op.stamp with
  | none => simp
  | some h =>
    dsimp only
    rw [State.releaseReference_stamp_eq]
    by_cases hi : i = h.slot
    · subst hi
      simp
    · simp [hi, Ne.symm hi]

theorem State.foldl_releaseStampOf_stamp (s : State) (js : List Job) (i : StampSlot) :
    (js.foldl State.releaseStampOf s).stamp i = (s.stamp i).releasedBy (namings js i) := by
  induction js using List.reverseRecOn with
  | nil => simp [namings]
  | append_singleton js j ih =>
    rw [List.foldl_append, List.foldl_cons, List.foldl_nil, State.releaseStampOf_stamp, ih, Stamp.releasedBy_add,
      namings_concat]

theorem State.retires_iff {s : State} {js : List Job} {i : StampSlot} :
    s.retires js i = true ↔ (s.stamp i).state = .retiring ∧ 0 < namings js i ∧ (s.stamp i).references ≤ namings js i := by
  simp [State.retires, and_assoc]

/-- One more job that leaves ends the retirement of at most the stamp it names. -/
theorem State.retires_append {s : State} {js : List Job} {j : Job} {i : StampSlot} :
    s.retires (js ++ [j]) i = true ↔ s.retires js i = true ∨
      j.op.stamp.map StampHandle.slot = some i ∧ ((s.stamp i).releasedBy (namings js i)).endsNext = true := by
  rw [State.retires_iff, State.retires_iff, Stamp.releasedBy_endsNext, namings_concat]
  split
  · rename_i hnames
    simp only [hnames, true_and, ← and_or_left]
    exact and_congr_right fun _ => by omega
  · rename_i hnames
    simp [hnames]

theorem State.foldl_releaseStampOf_ownedStamps (s : State) (js : List Job) (k : Link) :
    (js.foldl State.releaseStampOf s).ownedStamps.get k = s.ownedStamps.get k -
      (List.finRange 192).countP fun i => s.retires js i && decide ((s.stamp i).owner = some k) := by
  induction js using List.reverseRecOn with
  | nil => simp [State.retires, namings]
  | append_singleton js j ih =>
    rw [List.foldl_append, List.foldl_cons, List.foldl_nil]
    have hstamp := s.foldl_releaseStampOf_stamp js
    generalize js.foldl State.releaseStampOf s = t at ih hstamp ⊢
    unfold State.releaseStampOf
    cases hnamed : j.op.stamp with
    | none =>
      have hsame : ∀ i, s.retires (js ++ [j]) i = s.retires js i := fun i => by
        rw [Bool.eq_iff_iff, State.retires_append, hnamed]
        simp
      simp only [hsame, ih]
    | some h =>
      dsimp only
      rw [State.releaseReference_ownedStamps_eq, ih, hstamp, Nat.sub_sub]
      congr 1
      have hothers : ∀ i, i ≠ h.slot → s.retires (js ++ [j]) i = s.retires js i := fun i hi => by
        rw [Bool.eq_iff_iff, State.retires_append, hnamed]
        simp [Ne.symm hi]
      have hchange := sum_map_change (α := StampSlot) (nodup_finRange 192) (mem_finRange h.slot)
        (f := fun i => if (s.retires (js ++ [j]) i && decide ((s.stamp i).owner = some k)) = true then 1 else 0)
        (g := fun i => if (s.retires js i && decide ((s.stamp i).owner = some k)) = true then 1 else 0)
        fun i hi => by rw [hothers i hi]
      rw [← countP_eq_sum, ← countP_eq_sum] at hchange
      have hself : s.retires (js ++ [j]) h.slot = true ↔ s.retires js h.slot = true ∨
          ((s.stamp h.slot).releasedBy (namings js h.slot)).endsNext = true := by
        rw [State.retires_append, hnamed]
        simp
      have hboth : s.retires js h.slot = true → ¬ ((s.stamp h.slot).releasedBy (namings js h.slot)).endsNext = true := by
        rw [State.retires_iff, Stamp.releasedBy_endsNext]
        omega
      have howner := fun hends => (Stamp.releasedBy_gen_owner (st := s.stamp h.slot) (n := namings js h.slot) hends).2
      generalize (s.stamp h.slot).releasedBy (namings js h.slot) = left at *
      by_cases hretires : s.retires js h.slot = true
      · simp only [hself, hretires, true_or, Bool.and_eq_true, true_and, hboth hretires, Bool.false_eq_true,
          false_and, if_false] at hchange ⊢
        omega
      · by_cases hends : left.endsNext = true
        · simp only [hself, hretires, hends, or_true, Bool.and_eq_true, true_and, Bool.false_eq_true, false_and, if_false,
            decide_eq_true_eq,
            howner hends] at hchange ⊢
          omega
        · simp only [hself, hretires, hends, or_false, Bool.and_eq_true, Bool.false_eq_true, false_and, if_false] at hchange ⊢
          omega

/-- What one link is told as the jobs that leave release their stamps: STAMP_FREED at the job that releases the last reference
of a RETIRING stamp of the link (R123). -/
def State.toldFreed (s : State) (js : List Job) (k : Link) (q : EventQueue) (n : Nat) : EventQueue :=
  match js[n]?.bind fun j => j.op.stamp with
  | some h =>
    let st := s.stamp h.slot
    if st.state = .retiring ∧ st.owner = some k ∧ s.isUp k = true ∧ namings (js.take n) h.slot + 1 = max 1 st.references then
      q.queueUnreserved (.stampFreed ⟨h.slot, st.gen⟩)
    else q
  | none => q

theorem State.toldFreed_append (s : State) (js : List Job) (j : Job) (k : Link) (q : EventQueue) {n : Nat}
    (hn : n < js.length) : s.toldFreed (js ++ [j]) k q n = s.toldFreed js k q n := by
  unfold State.toldFreed
  rw [List.getElem?_append_left hn, List.take_append_of_le_length hn.le]

theorem State.releaseStampOf_eventsOf {s t : State} {js : List Job} (j : Job) (k : Link)
    (hstamp : ∀ i, t.stamp i = (s.stamp i).releasedBy (namings js i)) (hup : t.isUp k = s.isUp k) :
    (t.releaseStampOf j).eventsOf k = s.toldFreed (js ++ [j]) k (t.eventsOf k) js.length := by
  unfold State.releaseStampOf State.toldFreed
  rw [List.getElem?_concat_length, List.take_left]
  cases hnamed : j.op.stamp with
  | none => simp [hnamed]
  | some h =>
    simp only [Option.bind_some, hnamed]
    rw [State.releaseReference_eventsOf, hstamp, hup]
    by_cases hends : ((s.stamp h.slot).releasedBy (namings js h.slot)).endsNext = true
    · obtain ⟨hgen, howner⟩ := Stamp.releasedBy_gen_owner hends
      obtain ⟨hretiring, hlast⟩ := Stamp.releasedBy_endsNext.1 hends
      rw [hgen, howner]
      simp only [hends, hretiring, hlast, true_and, and_true]
    · rw [if_neg fun hh => hends hh.1, if_neg fun hh => hends (Stamp.releasedBy_endsNext.2 ⟨hh.1, hh.2.2.2⟩)]

theorem State.foldl_releaseStampOf_eventsOf (s : State) (js : List Job) (k : Link) :
    (js.foldl State.releaseStampOf s).eventsOf k = (List.range js.length).foldl (s.toldFreed js k) (s.eventsOf k) := by
  induction js using List.reverseRecOn with
  | nil => rfl
  | append_singleton js j ih =>
    rw [List.foldl_append, List.foldl_cons, List.foldl_nil, List.length_append, List.length_singleton, List.range_succ,
      List.foldl_append, List.foldl_cons, List.foldl_nil,
      State.releaseStampOf_eventsOf j k (s.foldl_releaseStampOf_stamp js) (by simp), ih]
    congr 1
    exact List.foldl_ext _ _ _ fun q n hn => (s.toldFreed_append js j k q (List.mem_range.1 hn)).symm

end Sys2Proof.Machine
end

section
/-! What the start of a teardown makes of the engine, the live stack, the pool and the contacts, exactly (R12, R21, R33, R88,
R136). -/

namespace Sys2Proof.Machine

open Sys2Proof

/-! ### One part of the state, slot by slot -/

/-- A part of the state that a torn down window changes by its own record alone is folded along the slots. -/
theorem foldl_teardownWindow_part {β : Type} (l : Link) (part : State → β) (step : State → Slot → β → β)
    (hstep : ∀ t i, part (State.teardownWindow l t i) = step t i (part t))
    (hcongr : ∀ (t t' : State) i, t'.window i = t.window i → (∀ n, t'.namedInFlight n = t.namedInFlight n) →
      step t' i = step t i)
    (is : List Slot) (hn : is.Nodup) (s : State) :
    part (is.foldl (State.teardownWindow l) s) = is.foldl (fun b i => step s i b) (part s) := by
  induction is generalizing s with
  | nil => rfl
  | cons i is ih =>
    obtain ⟨hi, hn'⟩ := List.nodup_cons.1 hn
    rw [List.foldl_cons, List.foldl_cons, ih hn', hstep]
    refine List.foldl_ext _ _ _ fun b j hj => ?_
    have hji : j ≠ i := fun e => hi (e ▸ hj)
    rw [hcongr s _ j (State.teardownWindow_window_ne l s hji)
      (State.teardownWindow_namedInFlight l s i)]

/-- The slot's window closes when the session of its owner l ends. -/
def State.closesAtEnd (s : State) (l : Link) (i : Slot) : Bool :=
  decide ((s.window i).owner = some l) && (s.window i).live

theorem State.closesAtEnd_congr {s t : State} {l : Link} {i : Slot} (h : t.window i = s.window i) :
    t.closesAtEnd l i = s.closesAtEnd l i := by
  rw [State.closesAtEnd, State.closesAtEnd, h]

theorem State.closesAtEnd_withoutGrants (s : State) (l : Link) (i : Slot) :
    State.closesAtEnd { s with windows := s.windows.map fun w => w.withoutGrant l } l i = s.closesAtEnd l i := by
  unfold State.closesAtEnd
  rw [State.window_withoutGrants, Window.withoutGrant_eq]
  rfl

/-- A torn down window of the link that is live closes; any other changes at most its close reason. -/
theorem State.teardownWindow_eq (l : Link) (s : State) (i : Slot) :
    State.teardownWindow l s i =
      if s.closesAtEnd l i = true then s.enterClosing i .teardown
      else if (s.window i).owner = some l ∧ (s.window i).state = .closing then
        s.setWindow i { s.window i with closeReason := some .teardown }
      else s := by
  unfold State.teardownWindow State.closesAtEnd
  dsimp only
  by_cases howner : (s.window i).owner = some l
  · simp [howner]
  · simp [howner]

/-! ### The live stack -/

theorem foldl_filter_ne (p : Slot → Bool) (is : List Slot) (xs : List Slot) :
    is.foldl (fun ys i => if p i = true then ys.filter fun j => decide (j ≠ i) else ys) xs =
      xs.filter fun j => !(decide (j ∈ is) && p j) := by
  induction is generalizing xs with
  | nil => simp
  | cons i is ih =>
    rw [List.foldl_cons, ih]
    split
    · rename_i hi
      rw [List.filter_filter]
      refine List.filter_congr fun j _ => ?_
      by_cases hj : j = i
      · simp [hj, hi]
      · simp [hj]
    · rename_i hi
      refine List.filter_congr fun j _ => ?_
      by_cases hj : j = i
      · simp [hj, hi]
      · simp [hj]

theorem State.teardownWindows_stack (s : State) (l : Link) :
    (s.teardownWindows l).stack = s.stack.filter fun i => !s.closesAtEnd l i := by
  unfold State.teardownWindows
  rw [foldl_teardownWindow_part l State.stack
    (fun t i xs => if t.closesAtEnd l i = true then xs.filter fun j => decide (j ≠ i) else xs)
    (fun t i => ?_) (fun t t' i hw _ => by simp only [State.closesAtEnd_congr hw]) _ (nodup_finRange 32), foldl_filter_ne]
  · simp [State.closesAtEnd_withoutGrants]
  · rw [State.teardownWindow_eq]
    split
    · exact t.enterClosing_stack i .teardown
    · split <;> rfl

/-! ### The job in flight -/

/-- The abandon request that closing windows leave: that of the first of them which the job names (R88). -/
theorem InFlight.foldl_windowCloses (c : Slot → Bool) (h : Slot → Handle) (is : List Slot) (f : InFlight) :
    is.foldl (fun f i => if c i = true then f.windowCloses (h i) else f) f =
      { f with abandon :=
          if f.abandon ≠ none then f.abandon
          else
            match is.find? fun i => c i && (decide (f.job.op.target = some (h i)) || decide (f.job.op.source = some (h i))) with
            | some i => if f.job.op.target = some (h i) then some .abandoned else some .sourceLost
            | none => none } := by
  induction is generalizing f with
  | nil =>
    cases habandon : f.abandon <;> cases f <;> simp_all
  | cons i is ih =>
    rw [List.foldl_cons, ih, List.find?_cons]
    by_cases hc : c i = true
    · rw [if_pos hc, InFlight.windowCloses_eq]
      dsimp only
      by_cases habandon : f.abandon = none
      · by_cases htarget : f.job.op.target = some (h i)
        · simp [habandon, htarget, hc]
        · by_cases hsource : f.job.op.source = some (h i)
          · simp [habandon, htarget, hsource, hc]
          · simp [habandon, htarget, hsource, hc]
      · simp [habandon]
    · rw [if_neg hc]
      simp [hc]

theorem foldl_option_map {α β : Type} (p : β → Bool) (g : β → α → α) (xs : List β) (o : Option α) :
    xs.foldl (fun o x => if p x = true then o.map (g x) else o) o =
      o.map fun a => xs.foldl (fun a x => if p x = true then g x a else a) a := by
  induction xs generalizing o with
  | nil => simp
  | cons x xs ih =>
    rw [List.foldl_cons, ih]
    cases o with
    | none => split <;> rfl
    | some a =>
      simp only [List.foldl_cons, Option.map_some]
      split <;> rfl

theorem State.teardownWindows_engine (s : State) (l : Link) :
    (s.teardownWindows l).engine = s.engine.map fun f =>
      (List.finRange 32).foldl
        (fun f i => if s.closesAtEnd l i = true then f.windowCloses ⟨i, (s.window i).gen⟩ else f) f := by
  have hgen : ∀ i, ((s.window i).withoutGrant l).gen = (s.window i).gen := fun i => by rw [Window.withoutGrant_eq]
  unfold State.teardownWindows
  rw [foldl_teardownWindow_part l State.engine
    (fun t i e => if t.closesAtEnd l i = true then e.map fun f => f.windowCloses ⟨i, (t.window i).gen⟩ else e)
    (fun t i => ?_) (fun t t' i hw _ => by simp only [State.closesAtEnd_congr hw, hw]) _ (nodup_finRange 32)]
  · simp only [State.closesAtEnd_withoutGrants, State.window_withoutGrants, hgen]
    exact foldl_option_map _ (fun i (f : InFlight) => f.windowCloses ⟨i, (s.window i).gen⟩) _ _
  · rw [State.teardownWindow_eq]
    split
    · exact t.enterClosing_engine i .teardown
    · split <;> rfl

/-! ### The pool -/

/-- Several windows' pages given back (R33). -/
def Pool.releaseAll (p : Pool) (w : Slot → Window) (is : List Slot) : Pool :=
  is.foldl (fun p i => p.release (w i).owner ((w i).buf0 ++ (w i).buf1) (w i).pages) p

section
variable (p : Pool) (w : Slot → Window) (is : List Slot)

theorem Pool.releaseAll_free : (p.releaseAll w is).free = p.free := by
  unfold Pool.releaseAll
  induction is generalizing p with
  | nil => rfl
  | cons i is ih => rw [List.foldl_cons, ih, Pool.release_free]

theorem Pool.releaseAll_scrub :
    (p.releaseAll w is).scrub = p.scrub ++ is.flatMap fun i => (w i).buf0 ++ (w i).buf1 := by
  unfold Pool.releaseAll
  induction is generalizing p with
  | nil => simp
  | cons i is ih => rw [List.foldl_cons, ih, Pool.release_scrub, List.flatMap_cons, List.append_assoc]

theorem Pool.releaseAll_busy :
    (p.releaseAll w is).busy = if is = [] then p.busy else decide ((p.releaseAll w is).scrub ≠ []) := by
  induction is using List.reverseRecOn with
  | nil => rfl
  | append_singleton is i _ =>
    rw [if_neg (by simp), Pool.releaseAll, List.foldl_append, List.foldl_cons, List.foldl_nil, Pool.release_eq]

theorem Pool.releaseAll_held (k : Link) :
    (p.releaseAll w is).held.get k =
      p.held.get k - ((is.filter fun i => decide ((w i).owner = some k)).map fun i => (w i).pages).sum := by
  unfold Pool.releaseAll
  induction is generalizing p with
  | nil => simp
  | cons i is ih =>
    rw [List.foldl_cons, ih, Pool.release_held, List.filter_cons]
    by_cases howner : (w i).owner = some k
    · simp [howner, Nat.sub_sub]
    · simp [howner]

end

theorem Pool.releaseAll_congr {w v : Slot → Window} (h : ∀ i, (v i).owner = (w i).owner ∧ (v i).buf0 = (w i).buf0 ∧
    (v i).buf1 = (w i).buf1 ∧ (v i).pages = (w i).pages) (p : Pool) (is : List Slot) :
    p.releaseAll v is = p.releaseAll w is := by
  unfold Pool.releaseAll
  refine List.foldl_ext _ _ _ fun q i _ => ?_
  obtain ⟨howner, hbuf0, hbuf1, hpages⟩ := h i
  rw [howner, hbuf0, hbuf1, hpages]

theorem State.teardownWindows_pool (s : State) (l : Link) :
    (s.teardownWindows l).pool = s.pool.releaseAll s.window (s.releasedAtEnd l) := by
  unfold State.teardownWindows
  rw [foldl_teardownWindow_part l State.pool
    (fun t i p => if t.releasesAtEnd l i = true then
      p.release (t.window i).owner ((t.window i).buf0 ++ (t.window i).buf1) (t.window i).pages else p)
    (fun t i => ?_) (fun t t' i hw hn => ?_) _ (nodup_finRange 32)]
  · rw [State.releasesAtEnd_withoutGrants, State.releasedAtEnd_eq, ← Pool.releaseAll_congr (w := s.window)
      (v := State.window { s with windows := s.windows.map fun w => w.withoutGrant l })]
    · rw [Pool.releaseAll, List.foldl_filter]
    · intro i
      rw [State.window_withoutGrants, Window.withoutGrant_eq]
      exact ⟨rfl, rfl, rfl, rfl⟩
  · rw [State.teardownWindow_eq]
    have hboth : t.releasesAtEnd l i = true ↔ t.closesAtEnd l i = true ∧ t.unused i = true := by
      simp only [State.releasesAtEnd, State.closesAtEnd, Bool.and_eq_true]
    by_cases hcloses : t.closesAtEnd l i = true
    · rw [if_pos hcloses, State.enterClosing_pool]
      simp only [hboth, hcloses, true_and]
    · simp only [hboth, hcloses, Bool.false_eq_true, false_and, if_false]
      split <;> rfl
  · simp only [State.releasesAtEnd, hw, State.unused_congr hw hn]
    rfl

/-! ### The contacts -/

/-- A contact's capture is dropped. -/
def Contact.uncaptured (c : Contact) : Contact := { c with capture := none, lastSent := none }

theorem foldl_uncaptured (p : Slot → Bool) (h : Slot → Handle) (hslot : ∀ i, (h i).slot = i) (is : List Slot)
    (c : Contact) :
    is.foldl (fun c i => if p i = true ∧ c.capture = some (h i) then c.uncaptured else c) c =
      match c.capture with
      | some g => if g.slot ∈ is ∧ p g.slot = true ∧ h g.slot = g then c.uncaptured else c
      | none => c := by
  induction is generalizing c with
  | nil => cases hcapture : c.capture <;> simp
  | cons i is ih =>
    rw [List.foldl_cons, ih]
    cases hcapture : c.capture with
    | none => simp [hcapture]
    | some g =>
      by_cases hi : p i = true ∧ g = h i
      · obtain ⟨hp, rfl⟩ := hi
        simp [hp, hslot, Contact.uncaptured]
      · have hkept : ¬ (p i = true ∧ some g = some (h i)) := fun hh => hi ⟨hh.1, Option.some.inj hh.2⟩
        rw [if_neg hkept, hcapture]
        by_cases hg : g.slot = i
        · have hnot : ¬ (p g.slot = true ∧ h g.slot = g) := by
            rintro ⟨hp, hh⟩
            exact hi ⟨hg ▸ hp, hg ▸ hh.symm⟩
          simp [hnot]
        · simp [hg]

/-- A contact once the windows of link l have closed: a capture on one of them is dropped (R136). -/
def State.uncapturedAtEnd (s : State) (l : Link) (c : Contact) : Contact :=
  match c.capture with
  | some h =>
    if (s.window h.slot).owner = some l ∧ (s.window h.slot).live = true ∧ (s.window h.slot).gen = h.gen then c.uncaptured
    else c
  | none => c

theorem State.teardownWindows_contact (s : State) (l : Link) (k : ContactNumber) :
    (s.teardownWindows l).contact k = s.uncapturedAtEnd l (s.contact k) := by
  have hgen : ∀ i, ((s.window i).withoutGrant l).gen = (s.window i).gen := fun i => by rw [Window.withoutGrant_eq]
  unfold State.teardownWindows
  rw [foldl_teardownWindow_part l (fun t => t.contact k)
    (fun t i c => if t.closesAtEnd l i = true ∧ c.capture = some ⟨i, (t.window i).gen⟩ then c.uncaptured else c)
    (fun t i => ?_) (fun t t' i hw _ => by simp only [State.closesAtEnd_congr hw, hw]) _ (nodup_finRange 32)]
  · simp only [State.closesAtEnd_withoutGrants, State.window_withoutGrants, hgen]
    rw [foldl_uncaptured _ (fun i => ⟨i, (s.window i).gen⟩) fun _ => rfl]
    have hcontact : State.contact { s with windows := s.windows.map fun w => w.withoutGrant l } k = s.contact k := rfl
    rw [hcontact]
    unfold State.uncapturedAtEnd
    cases hcapture : (s.contact k).capture with
    | none => rfl
    | some h =>
      have hboth : (s.closesAtEnd l h.slot = true ∧ (⟨h.slot, (s.window h.slot).gen⟩ : Handle) = h) ↔
          (s.window h.slot).owner = some l ∧ (s.window h.slot).live = true ∧ (s.window h.slot).gen = h.gen := by
        rw [State.closesAtEnd, Bool.and_eq_true, decide_eq_true_eq, Handle.mk.injEq, and_assoc]
        simp
      simp only [mem_finRange, true_and, hboth]
  · rw [State.teardownWindow_eq]
    by_cases hcloses : t.closesAtEnd l i = true
    · have hcontact := t.enterClosing_contact i .teardown k
      rw [if_pos hcloses, hcontact]
      simp only [hcloses, true_and]
      rfl
    · simp only [hcloses, Bool.false_eq_true, false_and, if_false]
      split <;> rfl

/-! ### The other links' event queues -/

/-- No link but their owner could hear of the windows that close. -/
theorem State.teardownWindows_eventsOf_ne (s : State) {l k : Link} (hk : k ≠ l) :
    (s.teardownWindows l).eventsOf k = s.eventsOf k := by
  unfold State.teardownWindows
  have hstep : ∀ t i, t.eventsOf k = s.eventsOf k → (State.teardownWindow l t i).eventsOf k = s.eventsOf k := by
    intro t i ht
    rw [State.teardownWindow_eq]
    split
    · rename_i hcloses
      rw [State.closesAtEnd, Bool.and_eq_true, decide_eq_true_eq] at hcloses
      rw [State.enterClosing_eventsOf_quiet, ht]
      rintro ⟨howner, -⟩
      exact hk (Option.some.inj (howner.symm.trans hcloses.1))
    · split <;> exact ht
  refine foldl_keeps (fun t => t.eventsOf k = s.eventsOf k) (State.teardownWindow l) hstep _ ?_
  rfl

end Sys2Proof.Machine
end

section
/-! What the end of a session leaves, part by part: `SessionEnded` for the start of a teardown. -/

namespace Sys2Proof.Machine

open Sys2Proof

/-! ### The jobs that leave -/

section
variable (s : State) (l : Link)

theorem State.dropJobs_stamp (i : StampSlot) :
    (s.dropJobs l).stamp i = (s.stamp i).releasedBy (namings (s.leavingJobs l) i) := by
  unfold State.dropJobs
  dsimp only
  rw [State.stamp_setEngine, State.foldl_releaseStampOf_stamp, State.droppedEntries_eq]
  rfl

theorem State.dropJobs_ownedStamps (k : Link) :
    (s.dropJobs l).ownedStamps.get k = s.ownedStamps.get k -
      (List.finRange 192).countP fun i => s.retires (s.leavingJobs l) i && decide ((s.stamp i).owner = some k) := by
  unfold State.dropJobs
  dsimp only
  rw [State.setEngine_ownedStamps, State.foldl_releaseStampOf_ownedStamps, State.droppedEntries_eq]
  rfl

theorem State.dropJobs_eventsOf (k : Link) :
    (s.dropJobs l).eventsOf k =
      (List.range (s.leavingJobs l).length).foldl (s.toldFreed (s.leavingJobs l) k) (s.eventsOf k) := by
  unfold State.dropJobs
  dsimp only
  rw [State.eventsOf_setEngine, State.foldl_releaseStampOf_eventsOf, State.droppedEntries_eq]
  rfl

end

/-! ### The state that the teardown's later steps find -/

/-- The start of a teardown up to its jobs: the controller torn down and the event queue emptied (R170 steps 1 to 3). -/
def State.severed (s : State) (l : Link) (reason : EndReason) : State :=
  (s.setLink l ((s.link l).torn reason (s.ownedWindows l) (s.ownsEngine l))).dropEvents l

theorem State.startTeardown_eq (s : State) (l : Link) (reason : EndReason) :
    s.startTeardown l reason =
      ((((s.severed l reason).dropJobs l).orphanStamps l).teardownWindows l).endTest l := rfl

section
variable (s : State) (l : Link) (reason : EndReason)

theorem State.severed_only :
    { s.severed l reason with links := s.links, queues := s.queues, events := s.events } = s := by
  unfold State.severed
  apply State.eq_of_parts <;> first | with_reducible rfl | simp

theorem State.severed_leavingJobs : (s.severed l reason).leavingJobs l = s.leavingJobs l := by
  unfold State.leavingJobs State.severed State.dropEvents
  simp

theorem State.severed_stamp (i : StampSlot) : (s.severed l reason).stamp i = s.stamp i :=
  (congrArg (fun t : State => t.stamp i) (s.severed_only l reason) :)

theorem State.severed_window (i : Slot) : (s.severed l reason).window i = s.window i :=
  (congrArg (fun t : State => t.window i) (s.severed_only l reason) :)

theorem State.severed_engine : (s.severed l reason).engine = s.engine :=
  (congrArg State.engine (s.severed_only l reason) :)

theorem State.severed_retires (js : List Job) (i : StampSlot) : (s.severed l reason).retires js i = s.retires js i := by
  rw [State.retires, State.retires, s.severed_stamp]

theorem State.severed_eventsOf_ne {k : Link} (hk : k ≠ l) : (s.severed l reason).eventsOf k = s.eventsOf k := by
  unfold State.severed State.dropEvents
  simp [hk]

theorem State.severed_isUp_ne {k : Link} (hk : k ≠ l) : (s.severed l reason).isUp k = s.isUp k := by
  unfold State.severed
  simp [hk]

theorem State.severed_toldFreed {k : Link} (hk : k ≠ l) (js : List Job) :
    (s.severed l reason).toldFreed js k = s.toldFreed js k := by
  funext q n
  unfold State.toldFreed
  simp only [s.severed_stamp l reason, s.severed_isUp_ne l reason hk]

/-- The windows that leave at once are not decided by what has left before them. -/
theorem State.severed_releasedAtEnd :
    (((s.severed l reason).dropJobs l).orphanStamps l).releasedAtEnd l = s.releasedAtEnd l := by
  have hnamed : ∀ n, (((s.severed l reason).dropJobs l).orphanStamps l).namedInFlight n = s.namedInFlight n := fun n => by
    rw [State.namedInFlight_congr (s := (s.severed l reason).dropJobs l) (by simp), State.dropJobs_namedInFlight,
      State.namedInFlight_congr (s.severed_engine l reason)]
  unfold State.releasedAtEnd
  simp only [hnamed, State.orphanStamps_frame, State.dropJobs_frame, State.severed_window]

/-! ### The parts -/

theorem State.startTeardown_stamp (i : StampSlot) :
    (s.startTeardown l reason).stamp i =
      if ((s.stamp i).releasedBy (namings (s.leavingJobs l) i)).owner = some l then
        ((s.stamp i).releasedBy (namings (s.leavingJobs l) i)).orphaned
      else (s.stamp i).releasedBy (namings (s.leavingJobs l) i) := by
  rw [State.startTeardown_eq]
  simp only [State.endTest_frame, State.teardownWindows_frame, State.orphanStamps_stamp, State.dropJobs_stamp,
    State.severed_leavingJobs, State.severed_stamp]

theorem State.startTeardown_ownedStamps (k : Link) :
    (s.startTeardown l reason).ownedStamps.get k = if k = l then 0 else s.ownedStamps.get k -
      (List.finRange 192).countP fun i => s.retires (s.leavingJobs l) i && decide ((s.stamp i).owner = some k) := by
  have howned : (s.severed l reason).ownedStamps = s.ownedStamps :=
    (congrArg State.ownedStamps (s.severed_only l reason) :)
  have horphans : ∀ t : State, (t.orphanStamps l).ownedStamps = t.ownedStamps.set l 0 := fun _ => rfl
  rw [State.startTeardown_eq]
  simp only [State.endTest_frame, State.teardownWindows_frame, horphans, PerLink.get_set, State.dropJobs_ownedStamps,
    State.severed_leavingJobs, State.severed_stamp, State.severed_retires, howned]

theorem State.startTeardown_eventsOf_ne {k : Link} (hk : k ≠ l) :
    (s.startTeardown l reason).eventsOf k =
      (List.range (s.leavingJobs l).length).foldl (s.toldFreed (s.leavingJobs l) k) (s.eventsOf k) := by
  have hends : ∀ t : State, (t.endTest l).eventsOf k = t.eventsOf k := fun t => by rw [State.endTest_eq]; rfl
  have horphans : ∀ t : State, (t.orphanStamps l).eventsOf k = t.eventsOf k := fun _ => rfl
  rw [State.startTeardown_eq, hends, State.teardownWindows_eventsOf_ne _ hk, horphans, State.dropJobs_eventsOf,
    s.severed_leavingJobs, s.severed_eventsOf_ne l reason hk, s.severed_toldFreed l reason hk]

theorem State.startTeardown_stack :
    (s.startTeardown l reason).stack =
      s.stack.filter fun i => !((s.window i).live && decide ((s.window i).owner = some l)) := by
  have hstack : (s.severed l reason).stack = s.stack := (congrArg State.stack (s.severed_only l reason) :)
  rw [State.startTeardown_eq]
  simp only [State.endTest_frame, State.teardownWindows_stack, State.orphanStamps_frame, State.dropJobs_frame, hstack,
    State.closesAtEnd, State.severed_window, Bool.and_comm]

theorem State.startTeardown_contact (k : ContactNumber) :
    (s.startTeardown l reason).contact k = s.uncapturedAtEnd l (s.contact k) := by
  have hcontact : (s.severed l reason).contact k = s.contact k :=
    (congrArg (fun t : State => t.contact k) (s.severed_only l reason) :)
  rw [State.startTeardown_eq]
  simp only [State.endTest_frame, State.teardownWindows_contact, State.uncapturedAtEnd, State.orphanStamps_frame,
    State.dropJobs_frame, hcontact, State.severed_window]

theorem State.startTeardown_pool :
    (s.startTeardown l reason).pool = s.pool.releaseAll s.window (s.releasedAtEnd l) := by
  have hpool : (s.severed l reason).pool = s.pool := (congrArg State.pool (s.severed_only l reason) :)
  rw [State.startTeardown_eq]
  simp only [State.endTest_frame, State.teardownWindows_pool, State.severed_releasedAtEnd, State.orphanStamps_frame,
    State.dropJobs_frame, hpool]
  exact Pool.releaseAll_congr (fun i => by simp [State.severed_window]) _ _

theorem State.startTeardown_engine :
    (s.startTeardown l reason).engine = s.engine.map fun f =>
      (List.finRange 32).foldl
        (fun f i => if s.closesAtEnd l i = true then f.windowCloses ⟨i, (s.window i).gen⟩ else f) (f.linkEnds l) := by
  rw [State.startTeardown_eq]
  simp only [State.endTest_frame, State.teardownWindows_engine, State.orphanStamps_frame, State.dropJobs_engine,
    State.closesAtEnd, State.dropJobs_frame, State.severed_window, State.severed_engine, Option.map_map]
  rfl

end

end Sys2Proof.Machine
end

section
/-! The three ways a session ends (O16). -/

namespace Sys2Proof.Machine

open Sys2Proof

/-! ### `SessionEnded` -/

theorem State.retires_releasedBy {s : State} {js : List Job} {i : StampSlot} (h : s.retires js i = true) :
    (s.stamp i).releasedBy (namings js i) = (s.stamp i).freed := by
  rw [Stamp.releasedBy, if_pos (State.retires_iff.1 h)]

theorem State.not_retires_releasedBy {s : State} {js : List Job} {i : StampSlot} (h : ¬ s.retires js i = true) :
    (s.stamp i).releasedBy (namings js i) =
      { s.stamp i with references := (s.stamp i).references - namings js i } := by
  rw [Stamp.releasedBy, if_neg fun hh => h (State.retires_iff.2 hh)]

theorem Stamp.freed_eq (st : Stamp) :
    st.freed = { st with gen := st.gen + 1, state := .free, owner := none, references := 0,
                         contents := List.replicate (match st.kind with | .mask16 => 32 | .pattern8 => 128) 0 } := by
  unfold Stamp.freed
  cases st.kind <;> rfl

theorem State.ownsEngine_eq_false_iff {s : State} {l : Link} :
    s.ownsEngine l = false ↔ ∀ f, s.engine = some f → f.link ≠ l := by
  unfold State.ownsEngine
  cases s.engine <;> simp

theorem InFlight.linkEnds_abandon (f : InFlight) (l : Link) (o : Option Abandon) :
    (if (f.linkEnds l).abandon ≠ none then (f.linkEnds l).abandon else o) =
      if f.abandon ≠ none then f.abandon else if f.link = l then some .abandoned else o := by
  unfold InFlight.linkEnds
  cases habandon : f.abandon with
  | some a => simp [habandon]
  | none =>
    by_cases hlink : f.link = l
    · simp [hlink]
    · simp [hlink, habandon]

theorem State.stillUsed_iff {s : State} {i : Slot} :
    s.stillUsed i ↔ ((s.window i).onGlass || s.namedInFlight ⟨i, (s.window i).gen⟩) = true := by
  rw [Bool.or_eq_true, State.stillUsed]

/-- The start of a teardown is the end of a session, part by part. -/
theorem State.startTeardown_ended (s : State) (l : Link) (reason : EndReason) :
    SessionEnded s (s.startTeardown l reason) l reason where
  controller := by
    have howns := s.ownsEngine_eq_false_iff (l := l)
    rw [State.startTeardown_link_eq, if_pos rfl]
    simp only [howns]
    rfl
  events := (s.startTeardown_events l reason).1
  jobs := by
    rw [State.startTeardown_queue, if_pos rfl, State.keptEntries_eq]
    by_cases hhead : (s.queue l).head = .inFlight
    · cases hentries : (s.queue l).entries <;> simp [hhead] <;> rfl
    · simp only [hhead, false_and, if_false, if_true]
      rfl
  engine := by
    rw [State.startTeardown_engine]
    refine congrArg (fun g => Option.map g s.engine) (funext fun f => ?_)
    rw [InFlight.foldl_windowCloses, InFlight.linkEnds_abandon, InFlight.linkEnds_job]
    unfold InFlight.linkEnds
    split <;> rfl
  stamps i := by
    rw [State.startTeardown_stamp]
    dsimp only
    by_cases hretires : s.retires (s.leavingJobs l) i = true
    · rw [State.retires_releasedBy hretires, if_neg (by simp [Stamp.freed]), if_pos (.inl hretires)]
      exact Stamp.freed_eq _
    · rw [State.not_retires_releasedBy hretires]
      dsimp only
      by_cases howner : (s.stamp i).owner = some l
      · by_cases hleft : (s.stamp i).references - namings (s.leavingJobs l) i = 0
        · rw [if_pos howner, if_pos (.inr ⟨howner, hleft⟩), Stamp.orphaned, if_pos hleft]
          exact Stamp.freed_eq _
        · rw [if_pos howner, if_neg (by simp [hretires, hleft]), if_pos howner, Stamp.orphaned, if_neg hleft]
      · rw [if_neg howner, if_neg (by simp [hretires, howner]), if_neg howner]
  ownedStamps k := s.startTeardown_ownedStamps l reason k
  stack := s.startTeardown_stack l reason
  windows i := by
    rw [State.startTeardown_window, Window.tornDown]
    dsimp only
    by_cases howner : (s.window i).owner = some l
    · have hsame : (s.window i).withoutGrant l = s.window i := by simp [Window.withoutGrant, howner]
      rw [hsame, if_pos howner, if_neg (not_not.2 howner)]
      by_cases hlive : (s.window i).live = true
      · rw [if_pos hlive, if_pos hlive, Window.closes]
        by_cases hused : s.stillUsed i
        · rw [if_neg fun h => (State.mem_releasedAtEnd.1 h).2.2 hused, if_pos (State.stillUsed_iff.1 hused)]
          rfl
        · rw [if_pos (State.mem_releasedAtEnd.2 ⟨howner, hlive, hused⟩), if_neg fun h => hused (State.stillUsed_iff.2 h)]
          rfl
      · rw [if_neg hlive, if_neg hlive, if_neg fun h => hlive (State.mem_releasedAtEnd.1 h).2.1]
    · rw [Window.withoutGrant_eq, if_neg howner, if_pos howner, if_neg howner]
  pool := by
    have hscrub := s.pool.releaseAll_scrub s.window (s.releasedAtEnd l)
    have hbusy := s.pool.releaseAll_busy s.window (s.releasedAtEnd l)
    have hfree := s.pool.releaseAll_free s.window (s.releasedAtEnd l)
    have hheld : (s.pool.releaseAll s.window (s.releasedAtEnd l)).held =
        s.pool.held.set l (s.pool.held.get l - ((s.releasedAtEnd l).map fun i => (s.window i).pages).sum) := by
      refine PerLink.ext_get _ _ fun k => ?_
      have hown : ∀ i ∈ s.releasedAtEnd l, (s.window i).owner = some l := fun i hi => (State.mem_releasedAtEnd.1 hi).1
      rw [Pool.releaseAll_held, PerLink.get_set]
      split
      · rename_i hk
        rw [hk, List.filter_eq_self.2 fun i hi => by simp [hown i hi]]
      · rename_i hk
        rw [List.filter_eq_nil_iff.2 fun i hi => by simp [hown i hi, Ne.symm hk]]
        rfl
    rw [State.startTeardown_pool]
    rw [hscrub] at hbusy
    generalize s.pool.releaseAll s.window (s.releasedAtEnd l) = p at *
    cases p
    simp only at hscrub hbusy hfree hheld
    rw [hscrub, hbusy, hfree, hheld]
    rfl
  contacts k := (s.startTeardown_contact l reason k).trans rfl
  otherLinks k hk := ⟨by rw [State.startTeardown_link_eq, if_neg hk], by rw [State.startTeardown_queue, if_neg hk]⟩
  otherEvents k hk := (s.startTeardown_eventsOf_ne l reason hk).trans rfl
  apart := s.startTeardown_only l reason

/-! ### The end of a session -/

/-- `SessionEnded` does not read the transmitter of the state before. -/
theorem SessionEnded.of_tx {s u : State} {l : Link} {reason : EndReason} {tx : Transmitter}
    (h : SessionEnded (s.setLink l { s.link l with tx := tx }) u l reason) : SessionEnded s u l reason where
  controller := by
    have hcontroller := h.controller
    rw [State.link_setLink_self] at hcontroller
    exact (congrArg (fun c : LinkCtl => { c with tx := (s.link l).tx }) hcontroller :)
  events := h.events
  jobs := h.jobs
  engine := h.engine
  stamps := h.stamps
  ownedStamps := h.ownedStamps
  stack := h.stack
  windows := h.windows
  pool := h.pool
  contacts := h.contacts
  otherLinks k hk := ⟨(h.otherLinks k hk).1.trans (State.link_setLink_ne s l k _ hk), (h.otherLinks k hk).2⟩
  otherEvents k hk := by
    have hevents := h.otherEvents k hk
    rw [State.isUp_setLink_ne s l k _ hk] at hevents
    exact hevents
  apart := (congrArg (fun t : State => { t with links := s.links }) h.apart :)

/-- What the end of a session leaves of a state, with the transmitter given. -/
structure SessionEnds (s u : State) (l : Link) (reason : EndReason) (tx : Transmitter) : Prop where
  ended : SessionEnded s u l reason
  transmitter : (u.link l).tx = tx
  silent : (u.link l).backlog = [] ∧ (u.link l).state ≠ .up
  unexamined : JobLaw s → s.othersWaitFor l (fun i => (s.window i).owner ≠ some l) → u.scheduleAll = u

theorem State.startTeardown_window_ne_owner {s : State} {l : Link} {i : Slot} (howner : (s.window i).owner ≠ some l)
    (reason : EndReason) :
    (s.startTeardown l reason).window i = { s.window i with grants := (s.window i).grants.set l false } := by
  have := (s.startTeardown_ended l reason).windows i
  rwa [if_pos howner] at this

/-- Where no other link's head waits for a window of the link, no head is freed and nothing is granted (log 31). -/
theorem State.startTeardown_scheduleAll {s : State} (h : JobLaw s) {l : Link}
    (hwait : s.othersWaitFor l fun i => (s.window i).owner ≠ some l) (reason : EndReason) :
    (s.startTeardown l reason).scheduleAll = s.startTeardown l reason := by
  have hlaw := h.startTeardown l reason
  have hown : (s.startTeardown l reason).headRests l := by
    have hqueue := s.startTeardown_queue l reason l
    rw [if_pos rfl] at hqueue
    unfold State.headRests
    rw [hqueue]
    by_cases hkept : s.keptEntries l = []
    · exact .inr (.inr (.inl ⟨if_pos hkept, hkept⟩))
    · exact .inr (.inl (if_neg hkept))
  have hothers : ∀ k, k ≠ l → (s.startTeardown l reason).headRests k :=
    h.headRests hwait (fun k hk => (s.startTeardown_queue l reason k).trans (if_neg hk)) fun i hi => by
      rw [State.startTeardown_window_ne_owner hi reason]
      exact ⟨rfl, rfl, rfl⟩
  rw [State.scheduleAll, State.foldl_examineHead_of_others hothers, State.examineHead_of_rests hown,
    hlaw.arbitrate_eq rfl fun _ => rfl]

theorem State.startTeardown_ends (s : State) (l : Link) (reason : EndReason) (tx : Transmitter) :
    SessionEnds s ((s.setLink l { s.link l with tx := tx }).startTeardown l reason) l reason tx := by
  have hended := ((s.setLink l { s.link l with tx := tx }).startTeardown_ended l reason)
  have hlink := (s.setLink l { s.link l with tx := tx }).startTeardown_link_eq l reason l
  rw [if_pos rfl] at hlink
  refine ⟨hended.of_tx, ?_, ?_, fun hjobs hwait => ?_⟩
  · rw [hlink, State.link_setLink_self]
  · rw [hlink]
    refine ⟨rfl, ?_⟩
    dsimp only
    split <;> nofun
  · have hlaw : JobLaw (s.setLink l { s.link l with tx := tx }) := hjobs.of_same rfl rfl
    have hwait' : (s.setLink l { s.link l with tx := tx }).othersWaitFor l fun i => (s.window i).owner ≠ some l := hwait
    exact State.startTeardown_scheduleAll hlaw hwait' reason

theorem SessionEnds.transmitAll_link {s u : State} {l : Link} {reason : EndReason} {tx : Transmitter}
    (h : SessionEnds s u l reason tx) : u.scheduleAll.transmitAll.link l = u.link l := by
  have hlink : u.scheduleAll.link l = u.link l := by simp
  rw [State.transmitAll_link, State.transmit_of_settled, hlink]
  exact State.settled_of_nothing (hlink ▸ h.silent.1) (.inl (hlink ▸ h.silent.2))

/-- What O16 says of each way, from the state in which the heads are examined and the transmitters choose. -/
theorem SessionEnds.outcome {s u : State} {l : Link} {reason : EndReason} {tx : Transmitter} {i : Instr}
    (h : SessionEnds s u l reason tx) (hexec : exec i s = .next u.scheduleAll.transmitAll) :
    ∃ t u : State, exec i s = .next t ∧ SessionEnded s u l reason ∧ (u.link l).tx = tx ∧
      t = ((allLinks.foldl State.examineHead u).arbitrate).transmitAll ∧ t.link l = u.link l ∧
      (JobLaw s → s.othersWaitFor l (fun i => (s.window i).owner ≠ some l) → t = u.transmitAll) :=
  ⟨_, u, hexec, h.ended, h.transmitter, rfl, h.transmitAll_link, fun hjobs hwait =>
    congrArg State.transmitAll (h.unexamined hjobs hwait)⟩

theorem State.setLink_sameTx (s : State) (l : Link) : s.setLink l { s.link l with tx := (s.link l).tx } = s :=
  s.setLink_link l

/-! ### O16 -/

theorem State.takeUp_of_full {s : State} {l : Link} (hgoodbye : (s.link l).goodbye = false)
    (hfull : 4 ≤ (s.link l).backlog.length) (seq code : Byte) (body : State → Reply) :
    s.takeUp l seq code body = (s.endSession l .fault).transmitAll := by
  have hbacklog : (s.link l).backlogFull = true := by simpa [LinkCtl.backlogFull, Config.backlogLimit] using hfull
  unfold State.takeUp
  rw [if_neg (by simp [hgoodbye]), if_pos hbacklog]

theorem LinkCtl.leaseReached_eq_false_iff {c : LinkCtl} :
    c.leaseReached = false ↔ ∀ n lease, c.timer = some n → c.lease = some lease → n < lease := by
  rw [← Bool.not_eq_true, LinkCtl.leaseReached_iff]
  simp only [not_exists, not_and, Nat.not_le]

/-- Settles O16: each way starts the teardown of `startTeardown_ends`. -/
theorem sessionEnds : Obligations.SessionEnds := by
  refine ⟨fun i l code seq p s hframed hreset hup hgoodbye hfull => ?_, fun l s n lease hreset hn hlease hreached => ?_,
    fun l s hshort => ?_, fun l s r hreset htx hgoodbye hcode hok => ?_⟩
  · have hends := s.startTeardown_ends l .fault (s.link l).tx
    rw [State.setLink_sameTx] at hends
    refine hends.outcome ?_
    obtain ⟨body, hexec | hexec⟩ := exec_framed_of_up hframed hup hreset
    · rw [hexec, State.takeUp_of_full hgoodbye hfull, State.transmit_of_settled (State.settled_transmitAll _ l)]
      rfl
    · rw [hexec, State.takeUp_of_full hgoodbye hfull, State.transmitAll_of_settled (State.settled_transmitAll _)]
      rfl
  · have hends := s.startTeardown_ends l .lease (s.link l).tx
    rw [State.setLink_sameTx] at hends
    refine hends.outcome ?_
    show Host.Outcome.next _ = _
    rw [hreset, (s.link l).leaseReached_iff.2 ⟨n, lease, hn, hlease, hreached⟩]
    rfl
  · show Host.Outcome.next _ = _
    rw [LinkCtl.leaseReached_eq_false_iff.2 hshort, Bool.and_false, if_neg Bool.false_ne_true]
  · refine (s.startTeardown_ends l .goodbye .idle).outcome ?_
    have hsent : (s.link l).goodbyeSent = true := by
      simp [LinkCtl.goodbyeSent, htx, hgoodbye, Response.isGoodbyeOk, hcode, hok]
    show Host.Outcome.next _ = _
    rw [if_pos ⟨hreset, by simp [htx]⟩, hsent]
    rfl

end Sys2Proof.Machine
end

section
/-! A step on an empty queue: one millisecond of the lease timers (O4). -/

namespace Sys2Proof.Machine

open Sys2Proof

/-- The controller one millisecond older (R166). -/
def LinkCtl.older (c : LinkCtl) : LinkCtl := { c with timer := c.timer.map fun n => n + 1 }

/-- The timer of the link has reached its lease. -/
def State.timerReached (s : State) (l : Link) : Prop :=
  ∃ n lease, (s.link l).timer = some n ∧ (s.link l).lease = some lease ∧ lease ≤ n

theorem State.tickLink_of_short {s : State} {l : Link} (h : ¬ s.timerReached l) :
    s.tickLink l = s.setLink l (s.link l).older := by
  refine s.tickLink_of_not_reached l ?_
  rw [← Bool.not_eq_true, LinkCtl.leaseReached_iff]
  exact h

theorem State.tickLink_of_timerReached {s : State} {l : Link} (h : s.timerReached l) :
    s.tickLink l = (s.startTeardown l .lease).scheduleAll :=
  s.tickLink_of_reached l ((s.link l).leaseReached_iff.2 h)

/-! ### The controllers -/

theorem State.tickLink_link_ne (s : State) {l k : Link} (hk : k ≠ l) : (s.tickLink l).link k = s.link k := by
  by_cases hreached : s.timerReached l
  · rw [State.tickLink_of_timerReached hreached]
    simp only [State.scheduleAll_frame]
    rw [State.startTeardown_link_eq, if_neg hk]
  · rw [State.tickLink_of_short hreached, State.link_setLink_ne _ _ _ _ hk]

/-- What a millisecond makes of a controller, but for what its transmitter takes. -/
structure LinkCtl.Ticked (c d : LinkCtl) : Prop where
  counts : ∀ n lease, c.timer = some n → c.lease = some lease → n < lease → d.timer = some (n + 1) ∧ d.state = c.state
  expires : ∀ n lease, c.timer = some n → c.lease = some lease → lease ≤ n →
    d.timer = none ∧ d.state ≠ .up ∧ d.lastEnd = .lease
  stopped : c.timer = none → d.timer = none

theorem LinkCtl.Ticked.congr {c d e : LinkCtl} (h : c.Ticked d) (htimer : e.timer = d.timer) (hstate : e.state = d.state)
    (hend : e.lastEnd = d.lastEnd) : c.Ticked e := by
  constructor <;> simp only [htimer, hstate, hend]
  exacts [h.counts, h.expires, h.stopped]

theorem State.tickLink_ticked (s : State) (l : Link) : (s.link l).Ticked ((s.tickLink l).link l) := by
  by_cases hreached : s.timerReached l
  · obtain ⟨n, lease, hn, hlease, hle⟩ := hreached
    rw [State.tickLink_of_timerReached ⟨n, lease, hn, hlease, hle⟩]
    simp only [State.scheduleAll_frame]
    rw [State.startTeardown_link_eq, if_pos rfl]
    refine ⟨fun n' lease' hn' hlease' hlt => ?_, fun _ _ _ _ _ => ⟨rfl, ?_, rfl⟩, fun _ => rfl⟩
    · rw [hn] at hn'
      rw [hlease] at hlease'
      cases hn'
      cases hlease'
      omega
    · dsimp only
      split <;> nofun
  · rw [State.tickLink_of_short hreached, State.link_setLink_self]
    refine ⟨fun n _ hn _ _ => ⟨?_, rfl⟩, fun n lease hn hlease hle => absurd ⟨n, lease, hn, hlease, hle⟩ hreached,
      fun hn => ?_⟩
    · rw [LinkCtl.older, hn]
      rfl
    · rw [LinkCtl.older, hn]
      rfl

/-- Each link's controller ticks once as the links tick in turn. -/
theorem State.foldl_tickLink_link (ls : List Link) (hn : ls.Nodup) (s : State) (l : Link) :
    (l ∈ ls → (s.link l).Ticked ((ls.foldl State.tickLink s).link l)) ∧
      (l ∉ ls → (ls.foldl State.tickLink s).link l = s.link l) := by
  induction ls generalizing s with
  | nil => exact ⟨nofun, fun _ => rfl⟩
  | cons k ls ih =>
    obtain ⟨hk, hn'⟩ := List.nodup_cons.1 hn
    obtain ⟨hin, hout⟩ := ih hn' (s.tickLink k)
    rw [List.foldl_cons]
    by_cases hkl : l = k
    · subst hkl
      rw [hout hk]
      exact ⟨fun _ => s.tickLink_ticked l, fun hnot => absurd List.mem_cons_self hnot⟩
    · rw [s.tickLink_link_ne hkl] at hin hout
      exact ⟨fun hmem => hin ((List.mem_cons.1 hmem).resolve_left hkl),
        fun hnot => hout fun hmem => hnot (List.mem_cons_of_mem k hmem)⟩

theorem State.transmitAll_ticked {s t : State} {l : Link} (h : (s.link l).Ticked (t.link l)) :
    (s.link l).Ticked (t.transmitAll.link l) := by
  have hsame := (t.transmit_link l).1
  rw [State.transmitAll_link]
  exact h.congr (congrArg LinkCtl.timer hsame :) (congrArg LinkCtl.state hsame :) (congrArg LinkCtl.lastEnd hsame :)

/-! ### The idle step -/

theorem step_idle {s : State} (hpending : s.pending = []) (hreset : s.resetN = true) :
    step s = .next (allLinks.foldl State.tickLink s).transmitAll := by
  rw [step, hpending]
  dsimp only
  rw [State.idleTick, if_pos hreset]

/-- Where no timer has reached its lease, every controller grows older and nothing else changes. -/
theorem State.foldl_tickLink_of_short {s : State} (h : ∀ l, ¬ s.timerReached l) :
    allLinks.foldl State.tickLink s =
      { s with links := ⟨s.links.A.older, s.links.B.older, s.links.C.older, s.links.D.older⟩ } := by
  show (((s.tickLink .A).tickLink .B).tickLink .C).tickLink .D = _
  have hshort : ∀ (l : Link) (t : State), t.link l = s.link l → t.tickLink l = t.setLink l (s.link l).older :=
    fun l t hlink => by
      rw [State.tickLink_of_short (by rw [State.timerReached, hlink]; exact h l), hlink]
  rw [hshort .A _ rfl, hshort .B _ (by rfl), hshort .C _ (by rfl), hshort .D _ (by rfl)]
  rfl

/-- Older controllers have no more to send. -/
theorem transmitterLaw_older {s : State} (h : TransmitterLaw s) :
    TransmitterLaw { s with links := ⟨s.links.A.older, s.links.B.older, s.links.C.older, s.links.D.older⟩ } := fun l => by
  cases l
  exacts [h .A, h .B, h .C, h .D]

/-- A session that a tick ends, or the controller that it counts on. -/
theorem State.tickLink_counts (u : State) (l : Link) :
    (u.timerReached l → ∃ w, SessionEnded u w l .lease ∧ (w.link l).tx = (u.link l).tx ∧
      u.tickLink l = (allLinks.foldl State.examineHead w).arbitrate) ∧
    (¬ u.timerReached l → u.tickLink l = u.setLink l (u.link l).older) := by
  refine ⟨fun hreached => ?_, State.tickLink_of_short⟩
  have hends := u.startTeardown_ends l .lease (u.link l).tx
  rw [State.setLink_sameTx] at hends
  exact ⟨_, hends.ended, hends.transmitter, State.tickLink_of_timerReached hreached⟩

/-- Settles O4: the ticks of the four links in turn. -/
theorem idleMillisecond : Obligations.IdleMillisecond := by
  intro s hpending hreset
  have hstep := step_idle hpending hreset
  refine ⟨⟨_, hstep, fun l => ?_⟩, fun hshort => ⟨?_, fun hlaw => ?_⟩, s.tickLink .A, (s.tickLink .A).tickLink .B,
    ((s.tickLink .A).tickLink .B).tickLink .C, (((s.tickLink .A).tickLink .B).tickLink .C).tickLink .D,
    State.tickLink_counts _ _, State.tickLink_counts _ _, State.tickLink_counts _ _, State.tickLink_counts _ _, hstep⟩
  · have hticked := State.transmitAll_ticked ((State.foldl_tickLink_link allLinks nodup_allLinks s l).1 (mem_allLinks l))
    exact ⟨hticked.counts, hticked.expires, hticked.stopped⟩
  · rw [hstep, State.foldl_tickLink_of_short hshort]
    rfl
  · exact State.transmitAll_of_settled (transmitterLaw_older hlaw)

end Sys2Proof.Machine
end

section
/-! The parts of a frame start, slot by slot: what the taken flips, the releases and the notices make of the windows, the pool,
the controllers and the event queues (R59 to R68). -/

namespace Sys2Proof.Machine

open Sys2Proof

/-! ### One part of the state, element by element -/

/-- A part of the state that each step changes by what no other element's step changes is folded along the list. -/
theorem foldl_part {σ α β : Type} (f : σ → α → σ) (part : σ → β) (step : σ → α → β → β)
    (hstep : ∀ t i, part (f t i) = step t i (part t)) (hcongr : ∀ t i j, j ≠ i → step (f t i) j = step t j) (is : List α)
    (hn : is.Nodup) (s : σ) : part (is.foldl f s) = is.foldl (fun b i => step s i b) (part s) := by
  induction is generalizing s with
  | nil => rfl
  | cons i is ih =>
    obtain ⟨hi, hn'⟩ := List.nodup_cons.1 hn
    rw [List.foldl_cons, List.foldl_cons, ih hn', hstep]
    refine List.foldl_ext _ _ _ fun b j hj => ?_
    have hji : j ≠ i := fun e => hi (e ▸ hj)
    rw [hcongr s i j hji]

/-! ### Taken flips -/

/-- The front index after a frame start (R59). -/
def Window.frontAfter (w : Window) : BufferIndex :=
  if w.buffering = .double ∧ w.flipPending ≠ none then
    match w.front with
    | .zero => .one
    | .one => .zero
  else w.front

/-- The record after a frame start's flips (R59). -/
def Window.flipTaken (w : Window) : Window := { w with flipPending := none, front := w.frontAfter }

theorem Window.flipTaken_of_none {w : Window} (h : w.flipPending = none) : w.flipTaken = w := by
  cases w
  cases h
  simp [Window.flipTaken, Window.frontAfter]

theorem Window.flipTaken_of_some {w : Window} {f : ArmedFlip} (h : w.flipPending = some f) : w.flipTaken = w.flipped := by
  unfold Window.flipTaken Window.frontAfter Window.flipped
  cases hbuffering : w.buffering with
  | single => simp
  | double =>
    simp only [h, ne_eq, reduceCtorEq, not_false_eq_true, and_self, if_true]
    cases w.front <;> rfl

theorem State.takeFlip_window (s : State) (i j : Slot) :
    (s.takeFlip i).window j = if j = i then (s.window i).flipTaken else s.window j := by
  unfold State.takeFlip
  split
  · rename_i f hflip
    rw [Window.flipTaken_of_some hflip]
    simp [State.window_setWindow]
  · rename_i hflip
    rw [Window.flipTaken_of_none hflip]
    split
    · rename_i hj
      rw [hj]
    · rfl

theorem State.foldl_takeFlip_window (s : State) (i : Slot) :
    ((List.finRange 32).foldl State.takeFlip s).window i = (s.window i).flipTaken := by
  have := foldl_places State.window State.takeFlip (fun _ w => w.flipTaken) (fun _ => True) (fun _ _ _ => trivial)
    (fun t i _ => by rw [State.takeFlip_window, if_pos rfl])
    (fun t i j _ hj => by rw [State.takeFlip_window, if_neg hj]) (List.finRange 32) (nodup_finRange 32) s trivial i
  rwa [if_pos (mem_finRange i)] at this

/-- What a taken flip does to the queue of the window's owner (R60). -/
def ArmedFlip.settles (f : ArmedFlip) (n : BitVec 32) (q : EventQueue) : EventQueue :=
  if f.notify then q.queueReserved (.presented f.tag n) else q.silentRelease

theorem State.handSilent_eventsOf (s : State) (l k : Link) :
    (s.handSilent l).eventsOf k =
      if k = l ∧ s.isUp l = true then (s.eventsOf l).silentRelease else s.eventsOf k := by
  unfold State.handSilent
  by_cases hup : s.isUp l = true
  · rw [if_pos hup, State.eventsOf_setEvents]
    simp [hup]
  · rw [if_neg hup, if_neg fun h => hup h.2]

theorem State.handPresented_eventsOf (s : State) (w : Window) (f : ArmedFlip) {l : Link} (hup : s.isUp l = true) :
    (s.handPresented w f).eventsOf l =
      if w.owner = some l then f.settles s.scanout.frameNumber (s.eventsOf l) else s.eventsOf l := by
  unfold State.handPresented ArmedFlip.settles
  cases howner : w.owner with
  | none => simp
  | some o =>
    by_cases ho : o = l
    · subst ho
      simp only [if_true]
      split
      · rw [State.handReserved_eventsOf, if_pos ⟨rfl, hup⟩]
      · rw [State.handSilent_eventsOf, if_pos ⟨rfl, hup⟩]
    · rw [if_neg (by simp [ho])]
      dsimp only
      split
      · rw [State.handReserved_eventsOf, if_neg fun h => ho h.1.symm]
      · rw [State.handSilent_eventsOf, if_neg fun h => ho h.1.symm]

/-- What the flip of one slot does to the queue of an UP link (R60). -/
def State.flipSettles (s : State) (l : Link) (i : Slot) (q : EventQueue) : EventQueue :=
  match (s.window i).flipPending with
  | some f => if (s.window i).owner = some l then f.settles s.scanout.frameNumber q else q
  | none => q

theorem State.takeFlip_eventsOf (s : State) (i : Slot) {l : Link} (hup : s.isUp l = true) :
    (s.takeFlip i).eventsOf l = s.flipSettles l i (s.eventsOf l) := by
  unfold State.takeFlip State.flipSettles
  cases hflip : (s.window i).flipPending with
  | none => rfl
  | some f => exact State.handPresented_eventsOf _ _ f hup

theorem State.foldl_takeFlip_eventsOf (s : State) {l : Link} (hup : s.isUp l = true) :
    ((List.finRange 32).foldl State.takeFlip s).eventsOf l =
      (List.finRange 32).foldl (fun q i => s.flipSettles l i q) (s.eventsOf l) := by
  have hfold : ∀ (is : List Slot) (t : State), is.Nodup → t.isUp l = true →
      (is.foldl State.takeFlip t).eventsOf l = is.foldl (fun q i => t.flipSettles l i q) (t.eventsOf l) := by
    intro is
    induction is with
    | nil => exact fun _ _ _ => rfl
    | cons i is ih =>
      intro t hn ht
      obtain ⟨hi, hn'⟩ := List.nodup_cons.1 hn
      rw [List.foldl_cons, List.foldl_cons, ih _ hn' (by simpa using ht), State.takeFlip_eventsOf t i ht]
      refine List.foldl_ext _ _ _ fun q j hj => ?_
      have hji : j ≠ i := fun e => hi (e ▸ hj)
      unfold State.flipSettles
      rw [State.takeFlip_window, if_neg hji]
      simp
  exact hfold _ s (nodup_finRange 32) hup

/-! ### Releases -/

/-- The release test of the slot releases its window (R12). -/
def State.passesRelease (s : State) (i : Slot) : Bool :=
  decide ((s.window i).state = .closing) && !(s.window i).onGlass && !s.namedInFlight ⟨i, (s.window i).gen⟩

theorem State.releaseTest_passes (s : State) (i : Slot) :
    s.releaseTest i = if s.passesRelease i = true then s.release i else s := by
  rw [State.releaseTest_eq]
  simp [State.passesRelease, and_assoc]

theorem State.passesRelease_releaseTest (s : State) {i j : Slot} (hj : j ≠ i) :
    (s.releaseTest i).passesRelease j = s.passesRelease j := by
  unfold State.passesRelease
  rw [State.releaseTest_window_ne s hj, State.namedInFlight_congr (s := s) (by simp)]

section
variable (s : State) (is : List Slot)

theorem State.foldl_releaseTest_window (hn : is.Nodup) (i : Slot) :
    (is.foldl State.releaseTest s).window i =
      if i ∈ is.filter s.passesRelease then (s.window i).released else s.window i := by
  have := foldl_places State.window State.releaseTest
    (fun i w => if (decide (w.state = .closing) && !w.onGlass && !s.namedInFlight ⟨i, w.gen⟩) = true then w.released else w)
    (fun t => ∀ n, t.namedInFlight n = s.namedInFlight n)
    (fun t i ht n => (State.namedInFlight_congr (by simp) n).trans (ht n)) (fun t i ht => ?_)
    (fun t i j _ hj => t.releaseTest_window_ne hj) is hn s (fun _ => rfl) i
  · rw [this]
    simp only [List.mem_filter, State.passesRelease]
    by_cases hi : i ∈ is
    · simp only [hi, if_true, true_and]
    · simp only [hi, if_false, false_and]
  · rw [State.releaseTest_passes, State.passesRelease, ht]
    split
    · rw [State.release_window, if_pos rfl]
    · rfl

theorem State.foldl_releaseTest_pool (hn : is.Nodup) :
    (is.foldl State.releaseTest s).pool = s.pool.releaseAll s.window (is.filter s.passesRelease) := by
  rw [Pool.releaseAll, List.foldl_filter]
  refine foldl_part State.releaseTest State.pool (fun t i p => if t.passesRelease i = true then
      p.release (t.window i).owner ((t.window i).buf0 ++ (t.window i).buf1) (t.window i).pages else p)
    (fun t i => ?_) (fun t i j hj => ?_) is hn s
  · rw [State.releaseTest_passes]
    split
    · exact t.release_pool i
    · rfl
  · rw [State.passesRelease_releaseTest t hj, State.releaseTest_window_ne t hj]

/-- The slot's window counts in the teardown of its owner l (R169). -/
def State.awaitedBy (s : State) (l : Link) (i : Slot) : Bool :=
  decide ((s.window i).owner = some l) && decide ((s.window i).closeReason = some .teardown)

theorem LinkCtl.foldl_releaseReported {α : Type} (p : α → Bool) (xs : List α) (c : LinkCtl) :
    xs.foldl (fun c x => if p x = true then c.releaseReported else c) c = c.releasesReported (xs.filter p).length := by
  induction xs generalizing c with
  | nil => simp
  | cons x xs ih =>
    rw [List.foldl_cons, ih, List.filter_cons]
    split
    · rw [LinkCtl.releaseReported_eq, LinkCtl.releasesReported_add, List.length_cons, Nat.add_comm]
    · rfl

theorem State.foldl_releaseTest_link (hn : is.Nodup) (l : Link) :
    (is.foldl State.releaseTest s).link l =
      (s.link l).releasesReported (is.filter fun i => s.passesRelease i && s.awaitedBy l i).length := by
  rw [← LinkCtl.foldl_releaseReported]
  refine foldl_part State.releaseTest (fun t => t.link l)
    (fun t i c => if (t.passesRelease i && t.awaitedBy l i) = true then c.releaseReported else c)
    (fun t i => ?_) (fun t i j hj => ?_) is hn s
  · rw [State.releaseTest_passes, State.awaitedBy]
    by_cases hpasses : t.passesRelease i = true
    · rw [if_pos hpasses, State.release_link]
      simp [hpasses]
    · rw [if_neg hpasses]
      simp [hpasses]
  · rw [State.passesRelease_releaseTest t hj, State.awaitedBy, State.awaitedBy, State.releaseTest_window_ne t hj]

/-- What the release test of one slot does to the queue of an UP link (R13). -/
def State.releaseTells (s : State) (l : Link) (i : Slot) (q : EventQueue) : EventQueue :=
  if s.passesRelease i = true ∧ (s.window i).owner = some l ∧ (s.window i).closeReason = some .owner then
    q.queueReserved (.windowClosed ⟨i, (s.window i).gen⟩)
  else q

theorem State.foldl_releaseTest_eventsOf (hn : is.Nodup) {l : Link} (hup : s.isUp l = true) :
    (is.foldl State.releaseTest s).eventsOf l = is.foldl (fun q i => s.releaseTells l i q) (s.eventsOf l) := by
  induction is generalizing s with
  | nil => rfl
  | cons i is ih =>
    obtain ⟨hi, hn'⟩ := List.nodup_cons.1 hn
    have htold : (s.releaseTest i).eventsOf l = s.releaseTells l i (s.eventsOf l) := by
      rw [State.releaseTest_passes, State.releaseTells]
      split
      · rename_i hpasses
        rw [State.release_eventsOf]
        simp only [hpasses, hup, true_and, and_true]
      · rename_i hpasses
        rw [if_neg fun h => hpasses h.1]
    rw [List.foldl_cons, List.foldl_cons, ih _ hn' (by simpa using hup), htold]
    refine List.foldl_ext _ _ _ fun q j hj => ?_
    have hji : j ≠ i := fun e => hi (e ▸ hj)
    unfold State.releaseTells
    rw [State.passesRelease_releaseTest s hji, State.releaseTest_window_ne s hji]

end

/-! ### Notices -/

theorem State.noticeFrame_eventsOf (s : State) (k l : Link) (hup : s.isUp l = true) :
    (s.noticeFrame k).eventsOf l =
      if l = k ∧ (s.link l).notify = true then (s.eventsOf l).queueUnreserved (.frame s.scanout.frameNumber 1)
      else s.eventsOf l := by
  unfold State.noticeFrame
  by_cases hnotify : (s.link k).notify = true
  · rw [if_pos hnotify, State.handUnreserved_eventsOf]
    by_cases hl : l = k
    · subst hl
      rw [if_pos ⟨rfl, hup⟩, if_pos ⟨rfl, hnotify⟩]
    · rw [if_neg fun h => hl h.1, if_neg fun h => hl h.1]
  · rw [if_neg hnotify, if_neg]
    rintro ⟨rfl, h⟩
    exact hnotify h

theorem State.foldl_noticeFrame_eventsOf (s : State) {l : Link} (hup : s.isUp l = true) :
    (allLinks.foldl State.noticeFrame s).eventsOf l =
      if (s.link l).notify = true then (s.eventsOf l).queueUnreserved (.frame s.scanout.frameNumber 1)
      else s.eventsOf l := by
  have hfold : ∀ (ks : List Link) (t : State), ks.Nodup → t.isUp l = true →
      (ks.foldl State.noticeFrame t).eventsOf l =
        if l ∈ ks ∧ (t.link l).notify = true then (t.eventsOf l).queueUnreserved (.frame t.scanout.frameNumber 1)
        else t.eventsOf l := by
    intro ks
    induction ks with
    | nil => exact fun t _ _ => by simp
    | cons k ks ih =>
      intro t hn ht
      obtain ⟨hk, hn'⟩ := List.nodup_cons.1 hn
      rw [List.foldl_cons, ih _ hn' (by simpa using ht), State.noticeFrame_eventsOf t k l ht]
      by_cases hl : l = k
      · subst hl
        simp [hk]
      · simp [hl]
  rw [hfold allLinks s nodup_allLinks hup]
  simp [mem_allLinks]

end Sys2Proof.Machine
end

section
/-! A frame start up to the examination of heads, part by part (R58 to R69). -/

namespace Sys2Proof.Machine

open Sys2Proof

/-! ### Up to the marks -/

/-- A frame start up to its latch (R58 to R61). -/
def State.latchedFrame (s : State) : State :=
  ((List.finRange 32).foldl State.takeFlip (s.setScanout s.scanout.counted)).latch

/-- A frame start up to its on-glass marks (R62). -/
def State.markedFrame (s : State) : State := s.latchedFrame.markGlass

theorem State.frameParts_eq (s : State) :
    s.frameParts =
      allLinks.foldl State.noticeFrame (s.latchedFrame.clearedMarks.foldl State.releaseTest s.markedFrame) := rfl

section
variable (s : State)

theorem State.latchedFrame_window (i : Slot) : s.latchedFrame.window i = (s.window i).flipTaken := by
  have hwindow := (s.setScanout s.scanout.counted).foldl_takeFlip_window i
  unfold State.latchedFrame
  generalize (List.finRange 32).foldl State.takeFlip (s.setScanout s.scanout.counted) = flipped at *
  exact hwindow

theorem State.latchedFrame_only : { s.latchedFrame with windows := s.windows, events := s.events, scanout := s.scanout } = s := by
  have hflips := State.foldl_takeFlip_only (s.setScanout s.scanout.counted) (List.finRange 32)
  unfold State.latchedFrame
  generalize (List.finRange 32).foldl State.takeFlip (s.setScanout s.scanout.counted) = flipped at *
  exact (congrArg (fun t : State => { t with scanout := s.scanout }) hflips :)

theorem State.latchedFrame_eventsOf {l : Link} (hup : s.isUp l = true) :
    s.latchedFrame.eventsOf l =
      (List.finRange 32).foldl (fun q i => (s.setScanout s.scanout.counted).flipSettles l i q) (s.eventsOf l) := by
  have htold := State.foldl_takeFlip_eventsOf (s.setScanout s.scanout.counted) (l := l) hup
  unfold State.latchedFrame
  generalize (List.finRange 32).foldl State.takeFlip (s.setScanout s.scanout.counted) = flipped at *
  exact htold

/-- The latched entry of a window (R61). -/
def State.latchedEntry (s : State) (i : Slot) : Latched :=
  { handle := ⟨i, (s.window i).gen⟩, x := (s.window i).x, y := (s.window i).y, width := (s.window i).width
    height := (s.window i).height, weight := (s.window i).weight, key := (s.window i).key, touch := (s.window i).touch
    pages := match (s.window i).buffering with
      | .single => (s.window i).buf0
      | .double => match (s.window i).frontAfter with
        | .zero => (s.window i).buf0
        | .one => (s.window i).buf1 }

theorem Window.flipTaken_frontPages (w : Window) :
    w.flipTaken.frontPages = match w.buffering with
      | .single => w.buf0
      | .double => match w.frontAfter with
        | .zero => w.buf0
        | .one => w.buf1 := by
  unfold Window.frontPages Window.flipTaken
  cases w.buffering with
  | single => rfl
  | double => cases w.frontAfter <;> rfl

/-- The scanout unit after the latch (R58, R61). -/
theorem State.latchedFrame_scanout :
    s.latchedFrame.scanout =
      { frameNumber := s.scanout.frameNumber + 1, record := s.stack.map s.latchedEntry, earlier := [],
        choice := s.scanout.choice + 1 } := by
  have hwindow := State.foldl_takeFlip_window (s.setScanout s.scanout.counted)
  have hflips := State.foldl_takeFlip_only (s.setScanout s.scanout.counted) (List.finRange 32)
  unfold State.latchedFrame State.latch
  generalize (List.finRange 32).foldl State.takeFlip (s.setScanout s.scanout.counted) = flipped at *
  have hstack : flipped.stack = s.stack := (congrArg State.stack hflips :)
  have hscanout : flipped.scanout = s.scanout.counted := (congrArg State.scanout hflips :)
  have hentry : flipped.latched = s.latchedEntry := by
    funext i
    unfold State.latched State.latchedEntry
    dsimp only
    rw [hwindow, Window.flipTaken_frontPages]
    rfl
  rw [State.setScanout_scanout, hstack, hscanout, hentry]
  rfl

theorem State.latchedFrame_inRecord (i : Slot) : s.latchedFrame.inRecord i = decide (i ∈ s.stack) := by
  unfold State.inRecord
  rw [State.latchedFrame_scanout, Bool.eq_iff_iff]
  simp only [State.latchedEntry, List.any_map, List.any_eq_true, Function.comp_apply]
  exact ⟨fun ⟨x, hx, hi⟩ => decide_eq_true (of_decide_eq_true hi ▸ hx),
    fun hi => ⟨i, of_decide_eq_true hi, decide_eq_true rfl⟩⟩

/-! ### The marks and the releases -/

/-- The record after a frame start's flips and marks, a release apart (R59, R62). -/
def State.markedWindow (s : State) (i : Slot) : Window :=
  { s.window i with flipPending := none, front := (s.window i).frontAfter, onGlass := decide (i ∈ s.stack) }

theorem State.markedFrame_window (i : Slot) : s.markedFrame.window i = s.markedWindow i := by
  rw [State.markedFrame, State.markGlass_window, State.latchedFrame_window, State.latchedFrame_inRecord]
  rfl

theorem State.markedFrame_only :
    { s.markedFrame with windows := s.windows, events := s.events, scanout := s.scanout } = s := by
  have honly := s.latchedFrame_only
  unfold State.markedFrame State.markGlass
  generalize s.latchedFrame = d at *
  exact honly

theorem State.markedFrame_namedInFlight (n : Handle) : s.markedFrame.namedInFlight n = s.namedInFlight n := by
  have honly := s.markedFrame_only
  generalize s.markedFrame = m at *
  exact State.namedInFlight_congr (congrArg State.engine honly :) n

/-- The slots whose windows a frame start releases, in ascending order: CLOSING, leaving the glass, not named in flight (R12). -/
def State.releasedAtFrame (s : State) : List Slot :=
  (List.finRange 32).filter fun i =>
    decide ((s.window i).state = .closing) && (s.window i).onGlass && !s.namedInFlight ⟨i, (s.window i).gen⟩

theorem State.clearedMarks_latchedFrame :
    s.latchedFrame.clearedMarks = (List.finRange 32).filter fun i => (s.window i).onGlass && !decide (i ∈ s.stack) := by
  unfold State.clearedMarks
  simp only [State.latchedFrame_window, State.latchedFrame_inRecord]
  rfl

theorem State.passesRelease_markedFrame (i : Slot) :
    s.markedFrame.passesRelease i =
      (decide ((s.window i).state = .closing) && !decide (i ∈ s.stack) && !s.namedInFlight ⟨i, (s.window i).gen⟩) := by
  unfold State.passesRelease
  rw [State.markedFrame_window, State.markedFrame_namedInFlight]
  rfl

end

/-- A CLOSING window is not in the live stack (R38). -/
theorem StackLaw.not_mem_of_closing {s : State} (h : StackLaw s) {i : Slot} (hclosing : (s.window i).state = .closing) :
    i ∉ s.stack := fun hi => by
  rw [(h.holdsShown i).1 hi] at hclosing
  cases hclosing

theorem StackLaw.filter_clearedMarks {s : State} (h : StackLaw s) :
    s.latchedFrame.clearedMarks.filter s.markedFrame.passesRelease = s.releasedAtFrame := by
  rw [State.clearedMarks_latchedFrame, List.filter_filter, State.releasedAtFrame]
  refine List.filter_congr fun i _ => ?_
  rw [State.passesRelease_markedFrame]
  by_cases hclosing : (s.window i).state = .closing
  · simp [hclosing, h.not_mem_of_closing hclosing, Bool.and_comm]
  · simp [hclosing]

end Sys2Proof.Machine
end

section
/-! A frame start up to the examination of heads, continued: the releases, the event queues and what is left alone. -/

namespace Sys2Proof.Machine

open Sys2Proof

theorem LinkCtl.releasesReported_notify (c : LinkCtl) (n : Nat) : (c.releasesReported n).notify = c.notify := rfl

theorem State.nodup_clearedMarks (s : State) : s.latchedFrame.clearedMarks.Nodup := (nodup_finRange 32).filter _

theorem State.markedFrame_isUp (s : State) (l : Link) : s.markedFrame.isUp l = s.isUp l := by
  have honly := s.markedFrame_only
  generalize s.markedFrame = m at honly
  exact (congrArg (fun t : State => t.isUp l) honly :)

theorem State.markedFrame_link (s : State) (l : Link) : s.markedFrame.link l = s.link l := by
  have honly := s.markedFrame_only
  generalize s.markedFrame = m at honly
  exact (congrArg (fun t : State => t.link l) honly :)

theorem State.markedFrame_pool (s : State) : s.markedFrame.pool = s.pool := by
  have honly := s.markedFrame_only
  generalize s.markedFrame = m at honly
  exact (congrArg State.pool honly :)

theorem State.markedFrame_eventsOf (s : State) (l : Link) : s.markedFrame.eventsOf l = s.latchedFrame.eventsOf l := by
  simp only [State.markedFrame, State.markGlass, State.eventsOf]

theorem State.markedFrame_scanout (s : State) : s.markedFrame.scanout = s.latchedFrame.scanout := by
  simp only [State.markedFrame, State.markGlass]

/-- What the release of one slot's window at a frame start does to the queue of an UP link (R12, R13). -/
def State.frameCloses (s : State) (l : Link) (i : Slot) (q : EventQueue) : EventQueue :=
  if (s.window i).state = .closing ∧ (s.window i).onGlass = true ∧ (s.window i).owner = some l ∧
      (s.window i).closeReason = some .owner ∧ s.namedInFlight ⟨i, (s.window i).gen⟩ = false then
    q.queueReserved (.windowClosed ⟨i, (s.window i).gen⟩)
  else q

section
variable {s : State} (h : StackLaw s)
include h

theorem StackLaw.frameParts_window (i : Slot) :
    s.frameParts.window i = if i ∈ s.releasedAtFrame then (s.markedWindow i).released else s.markedWindow i := by
  rw [State.frameParts_eq, ← h.filter_clearedMarks, ← State.markedFrame_window]
  simp only [State.foldl_noticeFrame_frame]
  exact State.foldl_releaseTest_window _ _ s.nodup_clearedMarks i

theorem StackLaw.frameParts_pool : s.frameParts.pool = s.pool.releaseAll s.window s.releasedAtFrame := by
  rw [State.frameParts_eq, ← h.filter_clearedMarks, ← s.markedFrame_pool]
  simp only [State.foldl_noticeFrame_frame]
  rw [State.foldl_releaseTest_pool _ _ s.nodup_clearedMarks]
  exact Pool.releaseAll_congr (fun i => by rw [State.markedFrame_window]; exact ⟨rfl, rfl, rfl, rfl⟩) _ _

theorem StackLaw.frameParts_link (l : Link) :
    s.frameParts.link l = (s.link l).releasesReported ((s.releasedAtFrame.filter fun i =>
      decide ((s.window i).owner = some l)).filter fun i => decide ((s.window i).closeReason = some .teardown)).length := by
  rw [State.frameParts_eq]
  simp only [State.foldl_noticeFrame_frame]
  rw [State.foldl_releaseTest_link _ _ s.nodup_clearedMarks, State.markedFrame_link, ← h.filter_clearedMarks,
    List.filter_filter, List.filter_filter]
  refine congrArg (fun is : List Slot => (s.link l).releasesReported is.length) (List.filter_congr fun i _ => ?_)
  have hawaited : s.markedFrame.awaitedBy l i = s.awaitedBy l i := by
    rw [State.awaitedBy, State.markedFrame_window]
    rfl
  rw [hawaited, State.awaitedBy]
  simp only [Bool.and_comm]

/-- The slots that leave the glass and close are those whose marks are cleared. -/
theorem StackLaw.releaseTells_markedFrame (l : Link) (i : Slot) (q : EventQueue) :
    (if ((s.window i).onGlass && !decide (i ∈ s.stack)) = true then s.markedFrame.releaseTells l i q else q) =
      s.frameCloses l i q := by
  unfold State.releaseTells State.frameCloses
  rw [State.passesRelease_markedFrame, State.markedFrame_window]
  simp only [State.markedWindow]
  by_cases hclosing : (s.window i).state = .closing
  · have hnot := h.not_mem_of_closing hclosing
    by_cases hglass : (s.window i).onGlass = true
    · simp [hclosing, hnot, hglass, and_comm, and_assoc]
    · simp [hglass]
  · simp [hclosing]

theorem StackLaw.frameParts_eventsOf {l : Link} (hup : s.isUp l = true) :
    s.frameParts.eventsOf l =
      let presented := (List.finRange 32).foldl
        (fun q i => (s.setScanout s.scanout.counted).flipSettles l i q) (s.eventsOf l)
      let closed := (List.finRange 32).foldl (fun q i => s.frameCloses l i q) presented
      if (s.link l).notify = true then closed.queueUnreserved (.frame (s.scanout.frameNumber + 1) 1) else closed := by
  have hmarked : s.markedFrame.isUp l = true := (s.markedFrame_isUp l).trans hup
  have hreleased : (s.latchedFrame.clearedMarks.foldl State.releaseTest s.markedFrame).isUp l = true := by
    rw [State.foldl_releaseTest_isUp, hmarked]
  have hnotify : ((s.latchedFrame.clearedMarks.foldl State.releaseTest s.markedFrame).link l).notify = (s.link l).notify := by
    rw [State.foldl_releaseTest_link _ _ s.nodup_clearedMarks, State.markedFrame_link, LinkCtl.releasesReported_notify]
  have hframe : (s.latchedFrame.clearedMarks.foldl State.releaseTest s.markedFrame).scanout.frameNumber =
      s.scanout.frameNumber + 1 := by
    have hscanout : s.markedFrame.scanout.frameNumber = s.scanout.frameNumber + 1 := by
      rw [State.markedFrame_scanout, State.latchedFrame_scanout]
    generalize s.latchedFrame.clearedMarks = is
    generalize s.markedFrame = m at hscanout ⊢
    simpa using hscanout
  dsimp only
  rw [State.frameParts_eq, State.foldl_noticeFrame_eventsOf _ hreleased, hnotify, hframe,
    State.foldl_releaseTest_eventsOf _ _ s.nodup_clearedMarks hmarked, State.markedFrame_eventsOf,
    State.latchedFrame_eventsOf s hup, State.clearedMarks_latchedFrame, List.foldl_filter]
  simp only [h.releaseTells_markedFrame]

end

end Sys2Proof.Machine
end

section
/-! FRAME_START (O47): the flips that freed heads arm come from queued PRESENTs; and the frame start assembled. -/

namespace Sys2Proof.Machine

open Sys2Proof

/-! ### The flips that heads arm -/

/-- The flip pending of a slot is one that a queued PRESENT of the slot arms (R63). -/
def State.armedByQueued (s : State) (i : Slot) (a : ArmedFlip) : Prop :=
  ∃ l, ∃ j ∈ (s.queue l).entries, j.op.target.map Handle.slot = some i ∧ j.op.kind = .present ∧ a = ⟨j.tag, j.notify⟩

/-- What the examination of heads and the grants do: jobs leave their queues, and flips are armed by queued PRESENTs. -/
structure State.Arms (s t : State) : Prop where
  entries : ∀ l, ∀ j ∈ (t.queue l).entries, j ∈ (s.queue l).entries
  flips : ∀ i a, (t.window i).flipPending = some a → (s.window i).flipPending = some a ∨ s.armedByQueued i a

section
variable {s t u : State}

theorem State.Arms.trans (h : s.Arms t) (h' : t.Arms u) : s.Arms u where
  entries l j hj := h.entries l j (h'.entries l j hj)
  flips i a ha := by
    rcases h'.flips i a ha with hflip | ⟨l, j, hj, htarget, hkind, harmed⟩
    · exact h.flips i a hflip
    · exact .inr ⟨l, j, h.entries l j hj, htarget, hkind, harmed⟩

theorem State.Arms.of_windows (hwindows : t.windows = s.windows)
    (hentries : ∀ l, ∀ j ∈ (t.queue l).entries, j ∈ (s.queue l).entries) : s.Arms t where
  entries := hentries
  flips i a ha := by
    rw [State.window, hwindows] at ha
    exact .inl ha

theorem State.Arms.refl (s : State) : s.Arms s := .of_windows rfl fun _ _ hj => hj

theorem State.Arms.foldl {α : Type} {f : State → α → State} (h : ∀ (t : State) x, t.Arms (f t x)) (xs : List α)
    (s : State) : s.Arms (xs.foldl f s) :=
  foldl_keeps (fun t => s.Arms t) f (fun t x ht => ht.trans (h t x)) xs (.refl s)

end

/-- A queue whose head state alone changes keeps its entries. -/
theorem State.arms_setHead (s : State) (l : Link) (head : HeadState) :
    s.Arms (s.setQueue l { s.queue l with head := head }) :=
  .of_windows rfl fun k j hj => by
    rw [State.queue_setQueue] at hj
    split at hj
    · rename_i hk
      rwa [hk]
    · exact hj

theorem State.completeHead_arms (s : State) (l : Link) (j : Job) (e : Ending) (pixels : List Pixel) :
    s.Arms (s.completeHead l j e pixels) :=
  .of_windows (by simp) fun k i hi => by
    by_cases hk : k = l
    · subst hk
      rw [State.completeHead_queue] at hi
      exact List.mem_of_mem_tail hi
    · rwa [State.completeHead_queue_ne _ hk] at hi

/-- A PRESENT taken at the head of its queue arms its own flip. -/
theorem State.takePresent_arms {s : State} {l : Link} {j : Job} {h : Handle} {rest : List Job}
    (hentries : (s.queue l).entries = j :: rest) (hop : j.op = .present h) : s.Arms (s.takePresent l j h) := by
  unfold State.takePresent
  split
  · refine ⟨fun k i hi => ?_, fun i a ha => ?_⟩
    · rw [State.queue_setWindow, State.queue_setQueue] at hi
      split at hi
      · rename_i hk
        rw [hk]
        exact List.mem_of_mem_tail hi
      · exact hi
    · rw [State.window_setWindow] at ha
      split at ha
      · rename_i hi
        refine .inr ⟨l, j, by simp [hentries], ?_, by rw [hop]; rfl, (Option.some.inj ha).symm⟩
        rw [hop, hi]
        rfl
      · exact .inl ha
  · exact s.completeHead_arms l j _ _

theorem State.examine_arms (l : Link) (js : List Job) {s : State} (hentries : (s.queue l).entries = js) :
    s.Arms (s.examine l js) := by
  induction js generalizing s with
  | nil => exact s.arms_setHead l _
  | cons j js ih =>
    unfold State.examine
    split
    · exact s.arms_setHead l _
    · split
      · refine (s.completeHead_arms l j _ _).trans (ih ?_)
        rw [State.completeHead_queue, hentries]
        rfl
      · rename_i g hop
        refine (State.takePresent_arms hentries hop).trans (ih ?_)
        rw [State.takePresent_queue _ _ _ _ hop, hentries]
        rfl
      · exact s.arms_setHead l _

theorem State.examineHead_arms (s : State) (l : Link) : s.Arms (s.examineHead l) := by
  unfold State.examineHead
  split
  · exact .refl s
  · exact .refl s
  · exact State.examine_arms l _ rfl
  · exact State.examine_arms l _ rfl

theorem State.granted_arms (s : State) (l : Link) : s.Arms (s.granted l) :=
  .of_windows (s.granted_windows l) fun k j hj => by
    rw [State.granted_queue] at hj
    split at hj
    · rename_i hk
      rwa [hk]
    · exact hj

theorem State.grants_arms (n : Nat) (s : State) : s.Arms (State.grants n s) :=
  State.grants_keeps (P := fun t => s.Arms t)
    (fun t l j _ _ ht _ _ _ _ => ht.trans ((t.granted_arms l).trans
      ((State.completeHead_arms _ l j _ _).trans (State.examineHead_arms _ l))))
    (fun t l _ _ ht _ _ _ _ => ht.trans ((t.granted_arms l).trans (.of_windows rfl fun _ _ hj => hj))) n (.refl s)

theorem State.scheduleAll_arms (s : State) : s.Arms s.scheduleAll :=
  (State.Arms.foldl State.examineHead_arms allLinks s).trans (State.grants_arms _ _)

end Sys2Proof.Machine
end

section
/-! FRAME_START (O47), assembled. -/

namespace Sys2Proof.Machine

open Sys2Proof

theorem State.mem_releasedAtFrame {s : State} {i : Slot} :
    i ∈ s.releasedAtFrame ↔ (s.window i).state = .closing ∧ (s.window i).onGlass = true ∧
      s.namedInFlight ⟨i, (s.window i).gen⟩ = false := by
  simp [State.releasedAtFrame, and_assoc]

theorem exec_frameStart {s : State} (hreset : s.resetN = true) :
    exec .frameStart s = .next s.frameParts.scheduleAll.transmitAll := by
  show Host.Outcome.next _ = _
  rw [if_pos hreset]
  rfl

theorem State.frameParts_scanout (s : State) :
    s.frameParts.scanout =
      { frameNumber := s.scanout.frameNumber + 1, record := s.stack.map s.latchedEntry, earlier := [],
        choice := s.scanout.choice + 1 } := by
  rw [State.frameParts_eq, ← State.latchedFrame_scanout, ← State.markedFrame_scanout]
  generalize s.latchedFrame.clearedMarks = is
  generalize s.markedFrame = m
  simp

/-- No flip stays pending across a frame start (R59). -/
theorem StackLaw.frameParts_flipPending {s : State} (h : StackLaw s) (i : Slot) :
    (s.frameParts.window i).flipPending = none := by
  rw [h.frameParts_window]
  split <;> rfl

/-- The windows after a frame start, but for a flip that a freed head arms. -/
theorem StackLaw.startFrame_window {s : State} (h : StackLaw s) (i : Slot) :
    { s.frameParts.scheduleAll.transmitAll.window i with flipPending := none } = s.frameParts.window i := by
  have hflip := h.frameParts_flipPending i
  have hrearmed : (s.frameParts.window i).Rearmed (s.frameParts.scheduleAll.window i) := s.frameParts.scheduleAll_rearms i
  rw [Window.Rearmed, hflip] at hrearmed
  simpa only [State.transmitAll_frame] using hrearmed

/-- The pool after a frame start, in the words of R33. -/
theorem StackLaw.frameParts_pool_parts {s : State} (h : StackLaw s) :
    { s.frameParts.pool with held := s.pool.held } =
      { s.pool with
          scrub := s.pool.scrub ++ s.pagesOfSlots s.releasedAtFrame
          busy := if s.releasedAtFrame = [] then s.pool.busy
            else decide (s.pool.scrub ++ s.pagesOfSlots s.releasedAtFrame ≠ []) } := by
  have hscrub := s.pool.releaseAll_scrub s.window s.releasedAtFrame
  have hbusy := s.pool.releaseAll_busy s.window s.releasedAtFrame
  have hfree := s.pool.releaseAll_free s.window s.releasedAtFrame
  rw [h.frameParts_pool]
  rw [hscrub] at hbusy
  generalize s.pool.releaseAll s.window s.releasedAtFrame = p at *
  dsimp only
  rw [hscrub, hbusy, hfree]
  rfl

/-- Settles O47: the parts of a frame start one by one, and the examination of heads after them. -/
theorem frameStartResult : Obligations.FrameStartResult := by
  refine ⟨fun q e hreserved => EventQueue.queueReserved_eq hreserved e, fun q => rfl, fun s hreset hstack => ?_⟩
  have hwindow := hstack.frameParts_window
  have hmarked := hstack.startFrame_window
  have harms := s.frameParts.scheduleAll_arms
  have hflip := hstack.frameParts_flipPending
  have honly := s.frameParts_only
  have hscanout := s.frameParts_scanout
  have hpool := hstack.frameParts_pool_parts
  have hheld := fun l => s.pool.releaseAll_held s.window s.releasedAtFrame l
  rw [← hstack.frameParts_pool] at hheld
  have hlink := hstack.frameParts_link
  have hevents := fun l => hstack.frameParts_eventsOf (l := l)
  have hquiet := s.frameParts_told.quiet
  refine ⟨_, s.frameParts, exec_frameStart hreset, rfl, ?_⟩
  generalize s.frameParts = u at *
  have hframe : u.scheduleAll.transmitAll.scanout = u.scanout := by simp
  have hwindows : ∀ i, u.scheduleAll.transmitAll.window i = u.scheduleAll.window i := fun i => by simp
  refine ⟨?_, ?_, fun i hi => ?_, fun i hclosing hglass hnamed => ?_, fun i a ha => ?_, ?_, ?_, ?_, ?_, ?_, ?_, ?_,
    fun l hup => hquiet l hup, fun l hup => ?_, honly, ?_, hframe, fun i => ?_, hpool, hheld, hlink⟩
  · rw [hframe, hscanout]
  · rw [hframe, hscanout]
    rfl
  · rw [hmarked, hwindow, if_neg]
    · rfl
    · rw [State.mem_releasedAtFrame]
      rintro ⟨hclosing, hglass, hnamed⟩
      rcases hi with hi | hi | hi
      · exact hi hclosing
      · rw [hglass] at hi
        cases hi
      · rw [hnamed] at hi
        cases hi
  · have hreleased := hmarked i
    rw [hwindow, if_pos (State.mem_releasedAtFrame.2 ⟨hclosing, hglass, hnamed⟩)] at hreleased
    refine ⟨(congrArg Window.state hreleased :), (congrArg Window.gen hreleased :), (congrArg Window.owner hreleased :),
      (congrArg Window.onGlass hreleased :).trans ?_⟩
    exact decide_eq_false (hstack.not_mem_of_closing hclosing)
  · rw [hwindows] at ha
    rcases harms.flips i a ha with hpending | ⟨l, j, hj, hrest⟩
    · rw [hflip] at hpending
      cases hpending
    · exact ⟨l, j, by rwa [State.queue, (congrArg State.queues honly :)] at hj, hrest⟩
  · simpa using (congrArg State.mem honly :)
  · simpa using (congrArg State.stack honly :)
  · simpa using (congrArg State.contacts honly :)
  · have hfree : u.pool.free = s.pool.free := (congrArg Pool.free hpool :)
    simpa using hfree
  · simpa using (congrArg State.pins honly :)
  · simpa using (congrArg State.resetN honly :)
  · simpa using (congrArg State.pending honly :)
  · rw [hevents l hup]
    rfl
  · rw [hframe, hscanout]
  · rw [hwindow]
    rfl

end Sys2Proof.Machine
end
